-- ==== Sys2Proof/Word.lean ====
section
/-! DEFINITION. The plain words of the Pelunor 3280: bytes, tags, and the numbers of its fixed sets of things. -/

namespace Sys2Proof

/-- One byte of host memory or of a stream. -/
abbrev Byte := BitVec 8

/-- An 8-bit post tag or done tag of a segment cell or a request cell (R47, R156). -/
abbrev Tag := BitVec 8

/-- A slot number, 0 to 1,023 (chapter 2). -/
abbrev SlotNo := Fin 1024

/-- A segment cell of a slot, 0 to 15 (R47). -/
abbrev CellNo := Fin 16

/-- A request cell of the Request Table, 0 to 31 (R156). -/
abbrev ReqNo := Fin 32

/-- A Chunking Lane, 0 to 31 (R15). -/
abbrev LaneNo := Fin 32

/-- A way of a bucket, 0 to 15 (R63). -/
abbrev WayNo := Fin 16

/-- A chunk digest: a string of 32 bytes, byte 0 first, never a number (R10, "Conventions"). -/
abbrev Digest := Vector Byte 32

/-- A sparse store of values by number, kept in ONE canonical form: numbers strictly rising, each at most once. -/
abbrev Table (α : Type) := List (Nat × α)

end Sys2Proof
end

