-- ==== Sys2Proof/Syntax.lean ====
section
/-! DEFINITION. The commands of the 3280: one constructor for each row of the opcode table.

The rows are the register writes the host makes, the resets, and the indivisible events at the blocks of the engine (95_what_each_step_holds).
An event that brings data from outside the engine (a host memory read that completes, the error check of a bucket that was read) carries that data as its
operands, because the engine does not hold it before the event (log entries 2 and 3). -/

namespace Sys2Proof

/-- What the error-correcting code finds when an index entry or the Index Descriptor is read (R83, R84, R85). -/
inductive Ecc where
  /-- The contents are good. -/
  | clean
  /-- The contents are wrong and can be corrected (R83). -/
  | correctable
  /-- The contents are lost (R84, R85). -/
  | uncorrectable
  deriving DecidableEq, Repr

/-- The point of the engine's work that a warm reset comes at, as far as the engine's state does not fix it. -/
structure ResetPoint where
  /-- The descriptor write in hand had been made (R90). -/
  made : Bool
  /-- How many of the last event's writes had not been issued to the Host Memory Port (R134, R170, R175). -/
  unissued : Nat
  deriving DecidableEq, Repr

/-- A read of host memory that is outstanding at the Host Memory Port, named by the block it is for (R148). -/
inductive ReadId where
  /-- The segment read of a lane (R54). -/
  | lane (n : LaneNo)
  /-- A read of the sweep in flight: the Attention Map, a Post Sequence, a slot's host half or the Request Table (R155). -/
  | sweep
  /-- The host half read by an OPEN that has passed its checks (R35). -/
  | openHalf
  /-- A read of the START in progress (R171). -/
  | start
  /-- A read that a reset or a fault has left with no block to take it (R61, R174, R175). -/
  | lost
  deriving DecidableEq, Repr

/-- The commands: one constructor for each row of spec/opcode_table.json, in the table's order. -/
inductive Instr where
  /-- POWER_ON (R175). -/
  | powerOn
  /-- LINK_RESET (R175): the point it comes at, and what the read of the descriptor finds (R85). -/
  | linkReset (point : ResetPoint) (desc : Ecc)
  /-- START (R170, R171): Engine Command written with 1. -/
  | start
  /-- START_COMPLETE (R171, R172): the 4,096 bytes of the Exchange Header and the 32 request cell host halves of 96 bytes, as read. -/
  | startComplete (header : List Byte) (table : List (List Byte))
  /-- QUIESCE (R173): Engine Command written with 2. -/
  | quiesce
  /-- RESET (R175): Engine Command written with 3; the operands are those of LINK_RESET. -/
  | reset (point : ResetPoint) (desc : Ecc)
  /-- EXCHANGE_BASE (R161): a write of `data` to the register's bytes from byte `first` on. -/
  | exchangeBase (first : Fin 8) (data : List Byte)
  /-- SWEEP_NOW (R154): any value, and the Attention Map (128 bytes) that a sweep started by the write reads. -/
  | sweepNow (value : BitVec 32) (map : List Byte)
  /-- SERVING_LEVEL (R161, R167): the 32-bit value written. -/
  | servingLevel (value : BitVec 32)
  /-- REGISTER_WRITE_IGNORED (R160, R161): a write of `value` at `offset` of the register window that is ignored. -/
  | registerWriteIgnored (offset : Nat) (value : BitVec 64)
  /-- TICK (R152). -/
  | tick
  /-- SWEEP_COUNTDOWN_EXPIRY (R153), with the Attention Map that the sweep reads. -/
  | sweepCountdownExpiry (map : List Byte)
  /-- IDLE_COUNTDOWN_EXPIRY (R42) of a slot. -/
  | idleCountdownExpiry (slot : SlotNo)
  /-- SLOT_HOST_HALF_TAKEN (R40, R151): the Post Sequence read first, and the 640 bytes of the host half read after it. -/
  | slotHostHalfTaken (slot : SlotNo) (post : BitVec 32) (half : List Byte)
  /-- REQUEST_TABLE_READ (R156): the 32 host halves of 96 bytes. -/
  | requestTableRead (table : List (List Byte))
  /-- FORMAT (R86): the request taken from this cell. -/
  | format (cell : ReqNo)
  /-- SET_CLASS (R13). -/
  | setClass (cell : ReqNo)
  /-- OPEN (R34, R35), with the 640 bytes of the slot's host half that an OPEN passing its checks reads. -/
  | openStream (cell : ReqNo) (half : List Byte)
  /-- CLOSE (R36, R37). -/
  | close (cell : ReqNo)
  /-- ABORT (R38). -/
  | abort (cell : ReqNo)
  /-- RELEASE (R39). -/
  | release (cell : ReqNo)
  /-- SEED (R138): the request, taken and checked. -/
  | seed (cell : ReqNo)
  /-- RETIRE (R141): the request, taken and checked. -/
  | retire (cell : ReqNo)
  /-- SET_EPOCH (R143). -/
  | setEpoch (cell : ReqNo)
  /-- SNAPSHOT_SLOT (R44). -/
  | snapshotSlot (cell : ReqNo)
  /-- SNAPSHOT_ENGINE (R146). -/
  | snapshotEngine (cell : ReqNo)
  /-- UNKNOWN_REQUEST (R156). -/
  | unknownRequest (cell : ReqNo)
  /-- SWEEP_END (R159), with the Attention Map that a remembered sweep reads as it starts. -/
  | sweepEnd (map : List Byte)
  /-- LANE_TAKES_SLOT (R18): the idle lane that takes the head of the Run List. -/
  | laneTakesSlot (lane : LaneNo)
  /-- SEGMENT_READ_COMPLETE (R55): the read that completes, and its bytes. -/
  | segmentReadComplete (read : ReadId) (data : List Byte)
  /-- HOST_READ_FAILURE (R174): a read that ends with a completion error. -/
  | hostReadFailure (read : ReadId)
  /-- READ_TIMEOUT (R58): a read not completed within the Host Memory Port's timeout. -/
  | readTimeout (read : ReadId)
  /-- OPERATION_ACCEPTED (R69). -/
  | operationAccepted
  /-- LOOKUP_INSERT_COMPLETE (R72): the lookup of this pending chunk begins at its bucket, with what the reads of the 16 ways find. -/
  | lookupInsertComplete (slot : SlotNo) (ordinal : Nat) (ecc : Vector Ecc 16)
  /-- FIRM_COMPLETE (R103): the FIRM of this provisional record. -/
  | firmComplete (record : Nat) (ecc : Vector Ecc 16)
  /-- WITHDRAW_COMPLETE (R107): the WITHDRAW of this provisional record. -/
  | withdrawComplete (record : Nat) (ecc : Vector Ecc 16)
  /-- WAITER_REMOVAL (R101): the waiter of this pending chunk of an aborting stream. -/
  | waiterRemoval (slot : SlotNo) (ordinal : Nat)
  /-- SEED_COMPLETE (R139): the SEED taken from this cell. -/
  | seedComplete (cell : ReqNo) (ecc : Vector Ecc 16)
  /-- RETIRE_COMPLETE (R141): the RETIRE taken from this cell. -/
  | retireComplete (cell : ReqNo) (ecc : Vector Ecc 16)
  /-- SCAN_COMPLETE (R91): the SCAN of this bucket. -/
  | scanComplete (bucket : Nat) (ecc : Vector Ecc 16)
  /-- DESCRIPTOR_WRITE_COMPLETE (R79): the oldest descriptor write, and what its read-back finds. -/
  | descriptorWriteComplete (ecc : Ecc)
  /-- FORMAT_CLEAR (R87, steps 3 and 4). -/
  | formatClear
  /-- EMISSION (R119) from a slot. -/
  | emission (slot : SlotNo)
  /-- ENTER_STOPPED (R173). -/
  | enterStopped
  deriving DecidableEq, Repr

end Sys2Proof
end

