-- ==== Sys2Proof/Decode.lean ====
section
/-! DEFINITION. Decoding of table words.
The block fetches no instruction, and spec/opcode_table.json gives no row any bits ("fields" is empty in all 44 rows), so no word spells a command.
Beside it stands the decoding of the register window's addresses that a REGISTER_WRITE_IGNORED needs. -/

namespace Sys2Proof

/-- The command that the low `nbits` bits of `w` spell by the table's bits: none, since no row of the table has bits (log entry 4). -/
def decodeTableWord (_nbits _w : Nat) : Option Instr := none

/-- A write that the register window ignores (R160, R161, chapter 11.2): to Identity, Engine Status or an unused offset of the
64-byte window, or an Engine Command write of a value other than START, QUIESCE and RESET. -/
def ignoredWrite (offset : Nat) (value : BitVec 64) : Bool :=
  decide (offset < 64) &&
    (if 0x10 ≤ offset ∧ offset < 0x14 then
        offset == 0x10 && !([1, 2, 3].contains (value.setWidth 32).toNat)
      else
        !(decide (0x18 ≤ offset ∧ offset < 0x20) || decide (0x20 ≤ offset ∧ offset < 0x28)))

end Sys2Proof
end

