-- ==== Sys2Proof/Config.lean ====
section
/-! DEFINITION. What the implementation fixes and the reference does not give: the free values. -/

namespace Sys2Proof

/-- The digest of a chunk's bytes (R10).
The reference says only that it is a fixed function of the chunk's bytes and that it is not given there, so it is a FREE VALUE: a constant with no body, of
which nothing can be proved but that equal bytes have equal digests.
Log entry 1. -/
opaque Config.digest : List Byte → Digest

/-- How many of the last event's writes a power-on finds not issued, when so many have been posted (R134, R175).
The reference does not say, so it is a FREE VALUE: a constant with no body; a warm reset has an operand for it.
Log entry 28. -/
opaque Config.unissued : Nat → Nat

end Sys2Proof
end

