-- ==== Sys2Proof/Machine/State.lean ====
section
/-! DEFINITION. The state of the 3280 as plain data, block by block as the reference's "Block Overview" has them, the reasons a step can stop, and the machine after
a cold reset. -/

namespace Sys2Proof.Machine

/-! ### Encoded items (chapter 11.5) -/

/-- The engine state (R170). -/
inductive EngineState where
  | stopped | running | quiescing | faulted
  deriving DecidableEq, Repr

/-- The last reset kind (R170, R175). -/
inductive ResetKind where
  | cold | warm
  deriving DecidableEq, Repr

/-- The start error code (R170, R171). -/
inductive StartError where
  | none | baseUnaligned | headerMagic | headerRange | busError
  deriving DecidableEq, Repr

/-- The fault cause (R170, R174). -/
inductive FaultCause where
  | none | hostMemory | indexDescriptor
  deriving DecidableEq, Repr

/-- The index state (R66). -/
inductive IndexState where
  | unformatted | formatting | ready | scanning
  deriving DecidableEq, Repr

/-- The state of the fill watch (R82). -/
inductive FillState where
  | normal | declared
  deriving DecidableEq, Repr

/-- The state of a slot (R24). -/
inductive SlotState where
  | free | active | held | stalled | settling | closed | aborting | aborted
  deriving DecidableEq, Repr

/-- The reason of an abort (R29). -/
inductive AbortReason where
  | requested | idle | gap | overrun | numbers
  deriving DecidableEq, Repr

/-- The status of a segment cell (R47). -/
inductive CellStatus where
  | done | resent | refused
  deriving DecidableEq, Repr

/-- The verdict of a chunk (R118). -/
inductive Verdict where
  | new | dup | unindexed | conflict
  deriving DecidableEq, Repr

/-- The unindexed cause of a chunk (R118). -/
inductive Cause where
  | none | bucketFull | provisionalLimit | fillYield
  deriving DecidableEq, Repr

/-- The status of a request (chapter 11.5). -/
inductive Status where
  | done | existing | busy | state | range | full | conflict | inUse | absent | unformatted | unknown
  deriving DecidableEq, Repr

/-- The Index Policy of a class (R11). -/
inductive Policy where
  | always | yield
  deriving DecidableEq, Repr

/-! ### Engine Controller and Exchange Header -/

/-- What the Engine Controller and the register window hold (R160, R161, R170). -/
structure Control where
  /-- The engine state. -/
  engine : EngineState
  /-- The last reset kind. -/
  lastReset : ResetKind
  /-- The start error code. -/
  startError : StartError
  /-- The fault cause. -/
  faultCause : FaultCause
  /-- A START is in progress (R170). -/
  starting : Bool
  /-- The Exchange Base register. -/
  base : BitVec 64
  /-- The base of the Exchange Area as validated at the last successful START (R148). -/
  area : Nat
  deriving DecidableEq, Repr

/-- The engine's copy of the Exchange Header (R150). -/
structure Header where
  /-- Where notice messages are written. -/
  noticeAddress : Nat
  /-- What notice messages write. -/
  noticeWord : BitVec 32
  /-- The Prescaler Reload. -/
  prescalerReload : Nat
  /-- The Active Interval, in ticks. -/
  activeInterval : Nat
  /-- The Quiet Interval, in ticks. -/
  quietInterval : Nat
  /-- The fill declare, in 1/1,024ths of capacity. -/
  fillDeclare : Nat
  /-- The fill clear, in 1/1,024ths of capacity. -/
  fillClear : Nat
  /-- The level of the FILL condition. -/
  fillLevel : Nat
  /-- The level of the ERROR condition. -/
  errorLevel : Nat
  /-- The level of the REQUEST event. -/
  requestLevel : Nat
  deriving DecidableEq, Repr

/-! ### Timebase -/

/-- The Timebase (R152, R153). -/
structure Timebase where
  /-- The running or stopped mark. -/
  running : Bool
  /-- The prescaler count. -/
  prescaler : Nat
  /-- The tick counter, modulo 2^32. -/
  ticks : BitVec 32
  /-- The sweep countdown. -/
  countdown : Nat
  deriving DecidableEq, Repr

/-! ### Class Table -/

/-- The fields of one class (R11). -/
structure ChunkClass where
  /-- Min. -/
  min : Nat
  /-- Normal. -/
  normal : Nat
  /-- Max. -/
  max : Nat
  /-- Sstrict. -/
  sstrict : Nat
  /-- Sloose. -/
  sloose : Nat
  /-- Index Policy. -/
  policy : Policy
  /-- Provisional Limit. -/
  provisionalLimit : Nat
  /-- Idle Limit. -/
  idleLimit : Nat
  /-- Recipe Threshold. -/
  recipeThreshold : Nat
  /-- The level of the slot's RECIPE condition. -/
  recipeLevel : Nat
  /-- The level of the slot's WATCH condition. -/
  watchLevel : Nat
  /-- The level of the slot's STATE condition. -/
  stateLevel : Nat
  deriving DecidableEq, Repr

/-! ### Stream contexts -/

/-- The chunker state of a stream context (R1). -/
structure Chunker where
  /-- H, the rolling hash. -/
  hash : BitVec 32
  /-- L, the count of bytes in the open chunk. -/
  len : Nat
  /-- The window: the last bytes of the open chunk, oldest first, at most 32. -/
  window : List Byte
  /-- The running digest state, held as the bytes of the open chunk, newest first: the reference specifies it by its result only (R1, R10; log entry 1). -/
  fed : List Byte
  /-- The running check register. -/
  check : BitVec 32
  /-- The Next Ordinal. -/
  nextOrdinal : Nat
  /-- The Finished mark. -/
  finished : Bool
  deriving DecidableEq, Repr

/-- A segment in a Feed Queue (R51). -/
structure Segment where
  /-- The cell it was taken from. -/
  cell : CellNo
  /-- The Buffer Address. -/
  addr : Nat
  /-- The stream offset of its first byte. -/
  offset : Nat
  /-- Its length in bytes. -/
  length : Nat
  /-- The tag taken. -/
  tag : Tag
  /-- The count of bytes taken from it. -/
  count : Nat
  deriving DecidableEq, Repr

/-- The record of a segment cell (R47). -/
structure CellRecord where
  /-- The Done Tag last written, or to be written. -/
  done : Tag
  /-- The status that goes with it. -/
  status : CellStatus
  /-- The tag taken, while a segment of the cell stands in the Feed Queue. -/
  queued : Option Tag
  deriving DecidableEq, Repr

/-- The condition of a pending chunk (R20, "Terms"). -/
inductive ChunkCond where
  /-- Its lookup is queued or in flight. -/
  | looking
  /-- It waits on a provisional record, whose number it records (R98). -/
  | held (record : Nat)
  /-- Its outcome is known (R118). -/
  | resolved (verdict : Verdict) (number : Nat) (cause : Cause)
  deriving DecidableEq, Repr

/-- A pending chunk (R6). -/
structure PendingChunk where
  /-- Its position in the stream. -/
  ordinal : Nat
  /-- The stream offset of its first byte. -/
  offset : Nat
  /-- Its length. -/
  length : Nat
  /-- Its digest. -/
  digest : Digest
  /-- Its check word. -/
  check : BitVec 32
  /-- Its condition. -/
  cond : ChunkCond
  deriving DecidableEq, Repr

/-- A slot's condition set (R163): the marks of RECIPE, WATCH and STATE. -/
structure Marks where
  /-- The RECIPE mark. -/
  recipe : Bool
  /-- The WATCH mark. -/
  watch : Bool
  /-- The STATE mark. -/
  state : Bool
  deriving DecidableEq, Repr

/-- The seven statistics of a stream (R43). -/
structure SlotStats where
  /-- Bytes Consumed. -/
  bytes : Nat
  /-- Resent Bytes. -/
  resent : Nat
  /-- Chunks. -/
  chunks : Nat
  /-- Duplicate Chunks. -/
  dupChunks : Nat
  /-- Duplicate Bytes. -/
  dupBytes : Nat
  /-- Unindexed Chunks. -/
  unindexed : Nat
  /-- Holds. -/
  holds : Nat
  deriving DecidableEq, Repr

/-- An item of an Extent List (R128). -/
structure Extent where
  /-- The entry's ordinal. -/
  ordinal : Nat
  /-- Its end offset. -/
  stop : Nat
  deriving DecidableEq, Repr

/-- A slot: its stream context (R24), its Extent List (R128), its cell records (R47) and its condition set (R163). -/
structure Slot where
  /-- State. -/
  state : SlotState
  /-- Abort Reason. -/
  reason : Option AbortReason
  /-- The bound class (R14). -/
  cls : ChunkClass
  /-- Start Offset. -/
  start : Nat
  /-- Consumed Offset. -/
  consumed : Nat
  /-- Final Offset. -/
  final : Option Nat
  /-- Safe Offset. -/
  safe : Nat
  /-- Watch Offset; 0 means none. -/
  watch : Nat
  /-- The chunker state. -/
  chunker : Chunker
  /-- The Feed Queue, head first. -/
  feed : List Segment
  /-- The pending chunk list, head first. -/
  pending : List PendingChunk
  /-- The provisional list: record numbers in ascending owner ordinal (R96). -/
  provList : List Nat
  /-- The provisional count (R94). -/
  provCount : Nat
  /-- The address of the recipe area. -/
  areaAddr : Nat
  /-- The size of the recipe area in entries. -/
  areaSize : Nat
  /-- Recipe Written. -/
  written : Nat
  /-- Recipe Taken as held. -/
  taken : Nat
  /-- Stored Through as held. -/
  stored : Nat
  /-- Seen Sequence. -/
  seen : BitVec 32
  /-- The idle countdown. -/
  idle : Nat
  /-- The in-flight operation count (R31). -/
  inflight : Nat
  /-- The condition set. -/
  marks : Marks
  /-- The statistics. -/
  stats : SlotStats
  /-- The Extent List. -/
  extents : List Extent
  /-- The 16 cell records. -/
  cells : Vector CellRecord 16
  /-- The Consumed Offset last written to the device half (R46, R159). -/
  shown : Nat
  deriving DecidableEq, Repr

/-! ### Chunking Lanes and Intake Unit -/

/-- A lane's current turn (R15). -/
structure Turn where
  /-- The slot it works. -/
  slot : SlotNo
  /-- The bytes taken in the turn. -/
  count : Nat
  deriving DecidableEq, Repr

/-- A segment read in flight (R54). -/
structure SegRead where
  /-- The cell of the segment read from. -/
  cell : CellNo
  /-- The host address it begins at. -/
  addr : Nat
  /-- Its length in bytes. -/
  length : Nat
  deriving DecidableEq, Repr

/-- A lane. A read outstanding while `turn` is absent belongs to a turn that has ended (R55). -/
structure Lane where
  /-- The turn, absent while the lane is idle. -/
  turn : Option Turn
  /-- The read in flight. -/
  read : Option SegRead
  deriving DecidableEq, Repr

/-- An entry of the Lookup Queue (R21). -/
structure Lookup where
  /-- The stream's slot. -/
  slot : SlotNo
  /-- The chunk's ordinal. -/
  ordinal : Nat
  /-- Its digest. -/
  digest : Digest
  /-- Its length. -/
  length : Nat
  /-- Its check word. -/
  check : BitVec 32
  deriving DecidableEq, Repr

/-! ### Provisional Pool -/

/-- The disposition of a provisional record (R93). -/
inductive Disposition where
  | live | firming | withdrawing | lost
  deriving DecidableEq, Repr

/-- A waiter: a pending chunk by its slot and ordinal (R98). -/
structure Waiter where
  /-- The slot. -/
  slot : SlotNo
  /-- The ordinal. -/
  ordinal : Nat
  deriving DecidableEq, Repr

/-- A provisional record in use (R93). -/
structure PoolRecord where
  /-- The bucket of its entry. -/
  bucket : Nat
  /-- The way of its entry. -/
  way : WayNo
  /-- The owner slot. -/
  owner : SlotNo
  /-- The owner ordinal. -/
  ordinal : Nat
  /-- The disposition. -/
  disp : Disposition
  /-- The waiter list, oldest first. -/
  waiters : List Waiter
  deriving DecidableEq, Repr

/-- The removal of a waiter that an abort has asked the Pool for and that has not been taken (R101). -/
structure Removal where
  /-- The waiter. -/
  waiter : Waiter
  /-- The record it waits on. -/
  record : Nat
  deriving DecidableEq, Repr

/-! ### Index Unit and index memory -/

/-- The State of a non-EMPTY index entry, with the owner of a PROVISIONAL one (R64). -/
inductive EntryState where
  | provisional (owner : SlotNo) (ordinal : Nat)
  | firm
  deriving DecidableEq, Repr

/-- A non-EMPTY index entry (R64). -/
structure Entry where
  /-- Its State. -/
  state : EntryState
  /-- The digest. -/
  digest : Digest
  /-- The chunk number. -/
  number : Nat
  /-- The length. -/
  length : Nat
  /-- The check word. -/
  check : BitVec 32
  /-- The last-hit epoch. -/
  lastHit : BitVec 32
  deriving DecidableEq, Repr

/-- The Index Descriptor (R79). -/
structure Descriptor where
  /-- The valid marker. -/
  valid : Bool
  /-- The bucket exponent. -/
  k : Nat
  /-- Reserved Through. -/
  reserved : Nat
  /-- The current epoch. -/
  epoch : BitVec 32
  /-- The format generation. -/
  generation : BitVec 32
  deriving DecidableEq, Repr

/-- The index memory on the card (R63): the non-EMPTY ways, way w of bucket b under the number 16 × b + w, and the descriptor. -/
structure IndexMemory where
  /-- The non-EMPTY ways; a number that is not listed is an EMPTY way. -/
  ways : Table Entry
  /-- The Index Descriptor as last written. -/
  desc : Descriptor
  deriving DecidableEq, Repr

/-- What a descriptor write was issued for (R79). -/
inductive WriteFor where
  /-- A reservation (R78). -/
  | reserve
  /-- The SET_EPOCH of a cell, with its value (R143). -/
  | epoch (cell : ReqNo) (value : BitVec 32)
  /-- Step 1 of a FORMAT (R87). -/
  | formatStart
  /-- Step 4 of a FORMAT (R87). -/
  | formatDone
  deriving DecidableEq, Repr

/-- A descriptor write issued and not complete (R79). -/
structure DescWrite where
  /-- What is written. -/
  desc : Descriptor
  /-- What it is for. -/
  use : WriteFor
  deriving DecidableEq, Repr

/-- The five sources of the acceptance arbiter (R68, R69). -/
inductive Source where
  | lanes | firming | withdrawal | requests | scan
  deriving DecidableEq, Repr

/-- A SEED that has passed its checks (R138). -/
structure SeedOp where
  /-- Its request cell. -/
  cell : ReqNo
  /-- The digest. -/
  digest : Digest
  /-- The chunk number. -/
  number : Nat
  /-- The length. -/
  length : Nat
  /-- The check word. -/
  check : BitVec 32
  deriving DecidableEq, Repr

/-- A RETIRE that has been taken (R141). -/
structure RetireOp where
  /-- Its request cell. -/
  cell : ReqNo
  /-- The digest. -/
  digest : Digest
  /-- The chunk number. -/
  number : Nat
  /-- The fence epoch. -/
  fence : BitVec 32
  deriving DecidableEq, Repr

/-- An operation of the requests source (R68). -/
inductive MaintOp where
  | seed (op : SeedOp)
  | retire (op : RetireOp)
  deriving DecidableEq, Repr

/-- An operation in flight (R68). A FIRM and a WITHDRAW name their record, a SCAN its bucket. -/
inductive OpKind where
  | lookup (l : Lookup)
  | firm (record : Nat)
  | withdraw (record : Nat)
  | seed (op : SeedOp)
  | retire (op : RetireOp)
  | scan (bucket : Nat)
  deriving DecidableEq, Repr

/-- What tells one operation in flight from another. -/
inductive OpKey where
  | lookup (slot : SlotNo) (ordinal : Nat)
  | firm (record : Nat)
  | withdraw (record : Nat)
  | seed (cell : ReqNo)
  | retire (cell : ReqNo)
  | scan (bucket : Nat)
  deriving DecidableEq, Repr

/-- What a lookup needs its chunk number for (R73, R74). -/
inductive NumberUse where
  /-- A match that is not equal. -/
  | conflict
  /-- A miss in a bucket with no EMPTY way. -/
  | bucketFull
  /-- A miss that a YIELD class does not insert while the fill watch is DECLARED. -/
  | fillYield
  /-- A miss that is to be inserted. -/
  | insert
  deriving DecidableEq, Repr

/-- Where an operation that has begun at its bucket waits for a chunk number to be reserved (R70, R77, R111). -/
inductive Halt where
  /-- A lookup's own number. -/
  | number (use : NumberUse)
  /-- The walk of a withdrawal, at this waiter. -/
  | walk (record : Nat) (waiter : Waiter)
  /-- The waiters of a lost entry, at this waiter: whether the record was LIVE, and the ways of the bucket still to be checked. -/
  | loss (record : Nat) (live : Bool) (waiter : Waiter) (rest : List (WayNo × Ecc))
  deriving DecidableEq, Repr

/-- An operation in flight: what it is, its bucket, and where it waits if it has begun and waits. -/
structure Op where
  /-- The operation. -/
  kind : OpKind
  /-- The bucket it concerns. -/
  bucket : Nat
  /-- Where it waits for a chunk number; absent before it begins. -/
  halt : Option Halt
  deriving DecidableEq, Repr

/-- A FORMAT in flight (R86, R87). -/
structure FormatJob where
  /-- Its request cell. -/
  cell : ReqNo
  /-- The bucket exponent. -/
  k : Nat
  /-- The counter start. -/
  counterStart : Nat
  /-- The epoch start. -/
  epochStart : BitVec 32
  /-- Steps 3 and 4 have been carried out: the new descriptor's write is issued. -/
  cleared : Bool
  deriving DecidableEq, Repr

/-- The ten engine statistics (R76). -/
structure EngineStats where
  /-- Lookups. -/
  lookups : Nat
  /-- Inserts. -/
  inserts : Nat
  /-- Firms. -/
  firms : Nat
  /-- Withdrawals. -/
  withdrawals : Nat
  /-- Takeovers. -/
  takeovers : Nat
  /-- Bucket Full. -/
  bucketFull : Nat
  /-- Fill Yields. -/
  fillYields : Nat
  /-- Conflicts. -/
  conflicts : Nat
  /-- Corrected Errors. -/
  corrected : Nat
  /-- Uncorrected Errors. -/
  uncorrected : Nat
  deriving DecidableEq, Repr

/-- The Index Unit (chapter 4). -/
structure IndexUnit where
  /-- The index state (R66). -/
  state : IndexState
  /-- The copy of the Index Descriptor; its epoch is the current epoch (R79, R135). -/
  copy : Descriptor
  /-- The Chunk Counter (R77). -/
  counter : Nat
  /-- Occupancy (R81). -/
  occupancy : Nat
  /-- The state of the fill watch (R82). -/
  fill : FillState
  /-- Its consecutive count (R82). -/
  fillCount : Nat
  /-- The engine statistics (R76). -/
  stats : EngineStats
  /-- The ERROR condition (R145). -/
  error : Bool
  /-- The acceptance arbiter's pointer (R69). -/
  pointer : Source
  /-- The firming source: the records of the waiting FIRMs, oldest first (R68). -/
  firming : List Nat
  /-- The withdrawal source (R68). -/
  withdrawal : List Nat
  /-- The requests source (R68). -/
  requests : List MaintOp
  /-- The next bucket the scan source offers (R91). -/
  scanNext : Nat
  /-- The Scan Position (R160). -/
  scanPosition : Nat
  /-- The operations in flight, in the order of their acceptance (R68, R70). -/
  inflight : List Op
  /-- The operations that wait for a chunk number, in the order in which they reached the Chunk Counter (R78). -/
  waiting : List OpKey
  /-- The descriptor writes issued and not complete, oldest first (R79). -/
  writes : List DescWrite
  /-- The read-back of the oldest write found the descriptor uncorrectable, so that no later write is carried out (R79). -/
  writeFailed : Bool
  /-- The FORMAT in flight (R86). -/
  format : Option FormatJob
  deriving DecidableEq, Repr

/-! ### Sweep Unit and Request Dispatcher -/

/-- The record of a request cell (R156). -/
structure RequestRecord where
  /-- The Done Tag. -/
  done : Option Tag
  /-- The In-flight Tag. -/
  inflight : Option Tag
  deriving DecidableEq, Repr

/-- The operands of a SET_CLASS, each at its field's whole width (R13, R176). -/
structure ClassRequest where
  /-- The class number. -/
  cls : Nat
  /-- The Index Policy code. -/
  policy : Nat
  /-- RECIPE level. -/
  recipeLevel : Nat
  /-- WATCH level. -/
  watchLevel : Nat
  /-- STATE level. -/
  stateLevel : Nat
  /-- Sstrict. -/
  sstrict : Nat
  /-- Sloose. -/
  sloose : Nat
  /-- Min. -/
  min : Nat
  /-- Normal. -/
  normal : Nat
  /-- Max. -/
  max : Nat
  /-- Provisional Limit. -/
  provisionalLimit : Nat
  /-- Idle Limit. -/
  idleLimit : Nat
  /-- Recipe Threshold. -/
  recipeThreshold : Nat
  deriving DecidableEq, Repr

/-- A request with its operands as read (chapter 11.4), each number at its field's whole width (R176). -/
inductive Request where
  | format (k : Nat) (counterStart : Nat) (epochStart : BitVec 32)
  | setClass (c : ClassRequest)
  | openStream (slot cls start areaAddr areaSize : Nat)
  | close (slot final : Nat)
  | abort (slot : Nat)
  | release (slot : Nat)
  | seed (digest : Digest) (number length : Nat) (check : BitVec 32)
  | retire (digest : Digest) (number : Nat) (fence : BitVec 32)
  | setEpoch (epoch : BitVec 32)
  | snapshot (target : Nat)
  | unknown (kind : Nat)
  deriving DecidableEq, Repr

/-- A request taken and not yet carried out (R156). -/
structure TakenRequest where
  /-- Its cell. -/
  cell : ReqNo
  /-- The request. -/
  request : Request
  deriving DecidableEq, Repr

/-- How far the sweep in flight has come (R155). -/
inductive SweepPhase where
  /-- It takes slots: the flagged slots not yet dealt with, in ascending order. -/
  | slots (left : List SlotNo)
  /-- It has read the Request Table: the requests taken and not yet carried out, in ascending cell order. -/
  | requests (taken : List TakenRequest)
  deriving DecidableEq, Repr

/-- The Sweep Unit (R154): the sweep-in-flight mark is that `flight` is present. -/
structure SweepUnit where
  /-- The sweep in flight. -/
  flight : Option SweepPhase
  /-- The remembered Sweep Now mark. -/
  remembered : Bool
  deriving DecidableEq, Repr

/-! ### Notice Unit -/

/-- The Notice Unit (R164, R165, R166). -/
structure NoticeUnit where
  /-- The pending level set, highest level first, each level at most once. -/
  levels : List Nat
  /-- The Serving Level. -/
  serving : Nat
  /-- The last notice level. -/
  last : Nat
  /-- The copy of the Ready Map. -/
  ready : Vector Bool 1024
  deriving DecidableEq, Repr

/-! ### Host Memory Port -/

/-- The device half of a slot as a START writes it (R172, chapter 11.3). -/
structure DeviceHalf where
  /-- State. -/
  state : SlotState
  /-- Abort Reason. -/
  reason : Option AbortReason
  /-- Condition Set. -/
  marks : Marks
  /-- Seen Sequence. -/
  seen : BitVec 32
  /-- Consumed Offset. -/
  consumed : Nat
  /-- Safe Offset. -/
  safe : Nat
  /-- Recipe Written. -/
  written : Nat
  /-- Final Offset as recorded. -/
  final : Option Nat
  /-- The done tag and status of each cell. -/
  cells : Vector (Tag × CellStatus) 16
  /-- The statistics snapshot. -/
  stats : SlotStats
  deriving DecidableEq, Repr

/-- A recipe entry (R118). -/
structure RecipeEntry where
  /-- Ordinal. -/
  ordinal : Nat
  /-- Stream Offset. -/
  offset : Nat
  /-- Length. -/
  length : Nat
  /-- Verdict. -/
  verdict : Verdict
  /-- Chunk Number. -/
  number : Nat
  /-- Unindexed Cause. -/
  cause : Cause
  /-- Check Word. -/
  check : BitVec 32
  /-- Digest. -/
  digest : Digest
  deriving DecidableEq, Repr

/-- The live fields of the Engine Record (R159). -/
structure LiveFields where
  /-- Engine state. -/
  engine : EngineState
  /-- Fill state. -/
  fill : FillState
  /-- Last notice level. -/
  last : Nat
  /-- ERROR condition. -/
  error : Bool
  /-- Tick counter. -/
  ticks : BitVec 32
  /-- Chunk Counter. -/
  counter : Nat
  /-- Occupancy. -/
  occupancy : Nat
  deriving DecidableEq, Repr

/-- The result operands of a request answer (chapter 11.4). -/
inductive ReqResult where
  /-- A FORMAT's format generation. -/
  | generation (value : BitVec 32)
  /-- The entry a SEED's CONFLICT met. -/
  | seedConflict (number length : Nat) (check : BitVec 32)
  /-- The number of the entry a RETIRE's CONFLICT met. -/
  | retireConflict (number : Nat)
  /-- An epoch: a RETIRE's IN_USE, or a SET_EPOCH's DONE or RANGE. -/
  | epoch (value : BitVec 32)
  deriving DecidableEq, Repr

/-- One posted write of the engine, by the write unit it is (R177). There is no write of any other kind (R149). -/
inductive HostWrite where
  | slotState (slot : SlotNo) (value : SlotState)
  | slotReason (slot : SlotNo) (value : Option AbortReason)
  | slotMarks (slot : SlotNo) (value : Marks)
  | slotSeen (slot : SlotNo) (value : BitVec 32)
  | slotConsumed (slot : SlotNo) (value : Nat)
  | slotSafe (slot : SlotNo) (value : Nat)
  | slotWritten (slot : SlotNo) (value : Nat)
  | slotFinal (slot : SlotNo) (value : Option Nat)
  | slotStats (slot : SlotNo) (value : SlotStats)
  | cellStatus (slot : SlotNo) (cell : CellNo) (value : CellStatus)
  | cellTag (slot : SlotNo) (cell : CellNo) (value : Tag)
  | deviceHalf (slot : SlotNo) (value : DeviceHalf)
  | reqResult (cell : ReqNo) (value : ReqResult)
  | reqStatus (cell : ReqNo) (value : Status)
  | reqTag (cell : ReqNo) (value : Tag)
  | readyWord (word : Nat) (value : BitVec 32)
  | recordLive (value : LiveFields)
  | recordStats (value : EngineStats)
  | recipe (addr : Nat) (value : RecipeEntry)
  | notice (addr : Nat) (word : BitVec 32)
  deriving DecidableEq, Repr

/-- A posted write as issued: the write, and the base of the Exchange Area it was issued with. -/
structure Posted where
  /-- The base of the area. -/
  area : Nat
  /-- The write. -/
  write : HostWrite
  deriving DecidableEq, Repr

/-- The Host Memory Port (R148). -/
structure Port where
  /-- The writes issued, oldest first: the order in which they reach host memory. -/
  posted : List Posted
  /-- The reads outstanding that no block will take (R61, R174, R175). -/
  lostReads : Nat
  /-- How many of the writes, from the newest back, are those of the last event: a reset may come before the last of these are issued, and no
  later command leaves it any (R134, R169, R170, R175; log entry 28). -/
  recent : Nat
  deriving DecidableEq, Repr

/-! ### The machine -/

/-- The state of the 3280, and the queue of the commands that wait. -/
structure State where
  /-- The commands that wait, first in, first out. -/
  pending : List Instr
  /-- Engine Controller and register window. -/
  ctl : Control
  /-- The copy of the Exchange Header. -/
  header : Header
  /-- Timebase. -/
  time : Timebase
  /-- Sweep Unit. -/
  sweep : SweepUnit
  /-- Request Dispatcher: the records of the 32 request cells. -/
  requests : Vector RequestRecord 32
  /-- Class Table: an absent class is unset (R11). -/
  classes : Vector (Option ChunkClass) 8
  /-- Context Store and Intake Unit: the 1,024 slots. -/
  slots : Vector Slot 1024
  /-- Chunking Lanes. -/
  lanes : Vector Lane 32
  /-- The Run List, oldest first (R17). -/
  runList : List SlotNo
  /-- The Lookup Queue, oldest first (R21). -/
  lookups : List Lookup
  /-- Index Unit. -/
  index : IndexUnit
  /-- The index memory. -/
  mem : IndexMemory
  /-- Provisional Pool: the records in use, by number (R93). -/
  pool : Table PoolRecord
  /-- The removals of waiters asked for and not taken (R101). -/
  removals : List Removal
  /-- Notice Unit. -/
  notice : NoticeUnit
  /-- Host Memory Port. -/
  port : Port
  deriving DecidableEq, Repr

/-- Why a step stops. Every one of them is SAFE: it says that the event named by the command cannot arise in the state, because the rule of the event says when it
arises; the machine has no such step, so nothing true of the machine's steps is lost and nothing false is gained (log entry 5). -/
inductive Fault where
  /-- A read completes with a number of bytes other than that of the read (raised by every event that brings read data; R54, R151, R156, R171). Safe. -/
  | readLength
  /-- START_COMPLETE, or a failed START read, with no START in progress (R170). Safe. -/
  | noStart
  /-- A tick while the Timebase is stopped (R152). Safe. -/
  | timebaseStopped
  /-- An expiry of a countdown that does not stand at 0 (R42, R153). Safe. -/
  | countdownRunning
  /-- A sweep's event with no sweep in flight, or in an engine state or at a point of the sweep where it does not come (R154, R155, R156, R159). Safe. -/
  | noSweep
  /-- A slot taken that is not the next flagged slot of the sweep: the sweep takes them one at a time in ascending number (R155). Safe. -/
  | slotNotDue
  /-- A request carried out that is not the next one taken from the Request Table (R156). Safe. -/
  | notNextRequest
  /-- A lane that is not idle, or an engine state or an empty Run List in which no lane takes a slot (R18, R55). Safe. -/
  | noLaneWork
  /-- The completion or failure of a read that is not outstanding (R54, R58, R174). Safe. -/
  | noRead
  /-- An acceptance with 64 operations in flight or with no operation that may be accepted (R68, R69, R71). Safe. -/
  | nothingToAccept
  /-- The carrying out of an operation that is not in flight, that has begun already, or that waits behind another on its bucket (R70). Safe. -/
  | notReady
  /-- The completion of a descriptor write with none outstanding, or after a failed one (R79). Safe. -/
  | noDescriptorWrite
  /-- The clearing of a FORMAT that is not in flight, is cleared, or waits for operations or descriptor writes, its own of step 1 included (R87). Safe. -/
  | noFormat
  /-- An emission that R119 does not allow. Safe. -/
  | noEmission
  /-- The passage to STOPPED while something of R173 remains. Safe. -/
  | notDrained
  /-- A REGISTER_WRITE_IGNORED whose operands spell a write that is not ignored (R160, R161). Safe. -/
  | writeNotIgnored
  deriving DecidableEq, Repr

/-- Why a step gives a command no meaning. -/
inductive Refusal where
  /-- Raised by exec's arm of a command that has no meaning yet. Safe. No arm raises it: every command is modelled. -/
  | notModelled (mnemonic : String)
  deriving DecidableEq, Repr

/-! ### Reset values -/

/-- The chunker state at OPEN and after every reset (R1). -/
def Chunker.fresh : Chunker :=
  { hash := 0, len := 0, window := [], fed := [], check := 0xFFFFFFFF, nextOrdinal := 0, finished := false }

/-- The bound class of a slot that has held no stream since the reset: all zeros.
DESIGN CHOICE (log entry 6): R25 gives it no value; every OPEN replaces it, and no rule reads it before. -/
def ChunkClass.unbound : ChunkClass :=
  { min := 0, normal := 0, max := 0, sstrict := 0, sloose := 0, policy := .always, provisionalLimit := 0, idleLimit := 0,
    recipeThreshold := 0, recipeLevel := 0, watchLevel := 0, stateLevel := 0 }

/-- Class 0 after every reset (R11, R12). -/
def ChunkClass.class0 : ChunkClass :=
  { min := 2048, normal := 8192, max := 32768, sstrict := 15, sloose := 11, policy := .always, provisionalLimit := 256, idleLimit := 0,
    recipeThreshold := 1, recipeLevel := 1, watchLevel := 1, stateLevel := 1 }

/-- A condition set with every mark false (R163). -/
def Marks.off : Marks := { recipe := false, watch := false, state := false }

/-- Statistics of zeros (R43). -/
def SlotStats.zero : SlotStats :=
  { bytes := 0, resent := 0, chunks := 0, dupChunks := 0, dupBytes := 0, unindexed := 0, holds := 0 }

/-- A cell record after every reset (R47). -/
def CellRecord.fresh : CellRecord := { done := 0, status := .done, queued := none }

/-- A slot after every reset (R25).
DESIGN CHOICE (log entry 6): the bound class, the recipe area's address and its size, to which no rule gives a reset value, are zeros. -/
def Slot.fresh : Slot :=
  { state := .free, reason := none, cls := .unbound, start := 0, consumed := 0, final := none, safe := 0, watch := 0,
    chunker := .fresh, feed := [], pending := [], provList := [], provCount := 0, areaAddr := 0, areaSize := 0,
    written := 0, taken := 0, stored := 0, seen := 0, idle := 0, inflight := 0, marks := .off, stats := .zero,
    extents := [], cells := Vector.replicate 16 .fresh, shown := 0 }

/-- The header copy after every reset (R150). -/
def Header.zero : Header :=
  { noticeAddress := 0, noticeWord := 0, prescalerReload := 0, activeInterval := 0, quietInterval := 0, fillDeclare := 0,
    fillClear := 0, fillLevel := 0, errorLevel := 0, requestLevel := 0 }

/-- The descriptor, and its copy, after power-on (R79, R89). -/
def Descriptor.clear : Descriptor := { valid := false, k := 0, reserved := 0, epoch := 0, generation := 0 }

/-- The engine statistics after every reset (R76). -/
def EngineStats.zero : EngineStats :=
  { lookups := 0, inserts := 0, firms := 0, withdrawals := 0, takeovers := 0, bucketFull := 0, fillYields := 0, conflicts := 0,
    corrected := 0, uncorrected := 0 }

/-- The Index Unit at power-on (R89), and the part of it that every reset clears (R90). -/
def IndexUnit.unformatted : IndexUnit :=
  { state := .unformatted, copy := .clear, counter := 0, occupancy := 0, fill := .normal, fillCount := 0, stats := .zero,
    error := false, pointer := .lanes, firming := [], withdrawal := [], requests := [], scanNext := 0, scanPosition := 0,
    inflight := [], waiting := [], writes := [], writeFailed := false, format := none }

/-- The Class Table after every reset (R12). -/
def resetClasses : Vector (Option ChunkClass) 8 := (Vector.replicate 8 none).set 0 (some .class0)

/-- The Timebase after every reset (R152). -/
def Timebase.fresh : Timebase := { running := false, prescaler := 0, ticks := 0, countdown := 0 }

/-- The Notice Unit after every reset (R169). -/
def NoticeUnit.fresh : NoticeUnit := { levels := [], serving := 0, last := 0, ready := Vector.replicate 1024 false }

/-- The Engine Controller after a reset of the given kind (R175). -/
def Control.afterReset (kind : ResetKind) : Control :=
  { engine := .stopped, lastReset := kind, startError := .none, faultCause := .none, starting := false, base := 0, area := 0 }

/-- The machine after a cold reset (R175, and the chapter of each block), with nothing waiting, nothing written to host memory, and an empty index memory
(log entry 7). -/
def State.reset : State :=
  { pending := [], ctl := .afterReset .cold, header := .zero, time := .fresh,
    sweep := { flight := none, remembered := false },
    requests := Vector.replicate 32 { done := none, inflight := none },
    classes := resetClasses, slots := Vector.replicate 1024 .fresh,
    lanes := Vector.replicate 32 { turn := none, read := none },
    runList := [], lookups := [], index := .unformatted,
    mem := { ways := [], desc := .clear }, pool := [], removals := [], notice := .fresh,
    port := { posted := [], lostReads := 0, recent := 0 } }

end Sys2Proof.Machine
end

