-- ==== Sys2Proof/Machine/Operands.lean ====
section
/-! DEFINITION. The records the host writes, read by their byte layouts (chapter 11), and the codes of the enumerated items. -/

namespace Sys2Proof.Machine

/-! ### Little-endian fields -/

/-- The number a run of bytes stands for, the byte at the lowest address holding the least significant eight bits ("Conventions"). -/
def leNat : List Byte → Nat
  | [] => 0
  | b :: bs => b.toNat + 256 * leNat bs

/-- The field of `size` bytes at `offset` of a record, as an unsigned number of its whole width (R176). -/
def field (bytes : List Byte) (offset size : Nat) : Nat := leNat ((bytes.drop offset).take size)

/-- A 32-bit field. -/
def field32 (bytes : List Byte) (offset : Nat) : BitVec 32 := BitVec.ofNat 32 (field bytes offset 4)

/-- A tag at `offset` of a record. -/
def tagAt (bytes : List Byte) (offset : Nat) : Tag := bytes.getD offset 0

/-- The 32 bytes of a digest at `offset`, byte 0 first. -/
def digestAt (bytes : List Byte) (offset : Nat) : Digest := Vector.ofFn fun i : Fin 32 => bytes.getD (offset + i.val) 0

/-- The `size` bytes of a number, least significant first. -/
def leBytes : Nat → Nat → List Byte
  | 0, _ => []
  | size + 1, v => BitVec.ofNat 8 v :: leBytes size (v / 256)

/-! ### The Attention Map (R151, chapter 11.3) -/

/-- The flag of slot `s`: bit (s mod 8) of byte s / 8. -/
def flagged (map : List Byte) (s : SlotNo) : Bool := (map.getD (s.val / 8) 0).getLsbD (s.val % 8)

/-- The flagged slots, in ascending slot number (R155). -/
def flaggedSlots (map : List Byte) : List SlotNo := (List.finRange 1024).filter (flagged map)

/-! ### The slot host half (chapter 11.3) -/

/-- A segment cell as read (chapter 11.3): the Offset is a 64-bit number. -/
structure HostCell where
  /-- Buffer Address. -/
  addr : Nat
  /-- Offset. -/
  offset : Nat
  /-- Length. -/
  length : Nat
  /-- Post Tag. -/
  tag : Tag
  deriving DecidableEq, Repr

/-- A slot's host half as read: the four control words. -/
structure HostHalf where
  /-- Post Sequence. -/
  post : BitVec 32
  /-- Stored Through. -/
  stored : Nat
  /-- Recipe Taken. -/
  taken : Nat
  /-- Watch Offset. -/
  watch : Nat
  deriving DecidableEq, Repr

/-- The control words of a host half. -/
def readHostHalf (half : List Byte) : HostHalf :=
  { post := field32 half 0x000, stored := field half 0x008 6, taken := field half 0x010 6, watch := field half 0x018 6 }

/-- Segment cell `n` of a host half, at 0x080 + 32 × n. -/
def readHostCell (half : List Byte) (n : CellNo) : HostCell :=
  let at' := 0x080 + 32 * n.val
  { addr := field half at' 8, offset := field half (at' + 0x08) 8, length := field half (at' + 0x10) 4, tag := tagAt half (at' + 0x14) }

/-! ### The Exchange Header (R150, chapter 11.3) -/

/-- The Magic and Version of a header. -/
def headerMagicOk (bytes : List Byte) : Bool := field bytes 0x000 4 == 0x7C32A580 && field bytes 0x004 2 == 0x0001

/-- The settings of a header. -/
def readHeader (bytes : List Byte) : Header :=
  { noticeAddress := field bytes 0x008 8, noticeWord := field32 bytes 0x010, prescalerReload := field bytes 0x014 4,
    activeInterval := field bytes 0x018 2, quietInterval := field bytes 0x01A 2, fillDeclare := field bytes 0x01C 2,
    fillClear := field bytes 0x01E 2, fillLevel := field bytes 0x020 1, errorLevel := field bytes 0x021 1,
    requestLevel := field bytes 0x022 1 }

/-- Every field of a header lies in its range (R150, check 4 of R171). -/
def headerRangeOk (h : Header) : Bool :=
  h.noticeAddress % 4 == 0 && decide (h.prescalerReload ≤ 1048575) &&
  decide (1 ≤ h.activeInterval ∧ h.activeInterval ≤ 65535) && decide (1 ≤ h.quietInterval ∧ h.quietInterval ≤ 65535) &&
  decide (1 ≤ h.fillDeclare ∧ h.fillDeclare ≤ 1024) && decide (h.fillClear < h.fillDeclare) &&
  decide (h.fillLevel ≤ 7) && decide (h.errorLevel ≤ 7) && decide (h.requestLevel ≤ 7)

/-! ### Request cells (chapter 11.4) -/

/-- The operands of a SET_CLASS. -/
def readClassRequest (b : List Byte) : ClassRequest :=
  { cls := field b 0x08 1, policy := field b 0x09 1, recipeLevel := field b 0x0A 1, watchLevel := field b 0x0B 1,
    stateLevel := field b 0x0C 1, sstrict := field b 0x0D 1, sloose := field b 0x0E 1, min := field b 0x10 4,
    normal := field b 0x14 4, max := field b 0x18 4, provisionalLimit := field b 0x1C 4, idleLimit := field b 0x20 4,
    recipeThreshold := field b 0x24 4 }

/-- The request a cell's host half holds, by its Kind code. -/
def readRequest (b : List Byte) : Request :=
  match field b 0x00 1 with
  | 1 => .format (field b 0x08 1) (field b 0x10 8) (field32 b 0x18)
  | 2 => .setClass (readClassRequest b)
  | 3 => .openStream (field b 0x08 2) (field b 0x0A 1) (field b 0x10 6) (field b 0x18 8) (field b 0x20 4)
  | 4 => .close (field b 0x08 2) (field b 0x10 6)
  | 5 => .abort (field b 0x08 2)
  | 6 => .release (field b 0x08 2)
  | 7 => .seed (digestAt b 0x08) (field b 0x28 8) (field b 0x30 4) (field32 b 0x34)
  | 8 => .retire (digestAt b 0x08) (field b 0x28 8) (field32 b 0x30)
  | 9 => .setEpoch (field32 b 0x08)
  | 10 => .snapshot (field b 0x08 2)
  | kind => .unknown kind

/-- The Post Tag of a cell's host half. -/
def requestTag (b : List Byte) : Tag := tagAt b 0x01

/-- The slot a 16-bit operand names, if it names one (R33). -/
def slotNamed (n : Nat) : Option SlotNo := if h : n < 1024 then some ⟨n, h⟩ else none

/-! ### Codes (chapter 11.5) -/

/-- The code of a slot state. -/
def SlotState.code : SlotState → Nat
  | .free => 0 | .active => 1 | .held => 2 | .stalled => 3 | .settling => 4 | .closed => 5 | .aborting => 6 | .aborted => 7

/-- The code of an abort reason; 0 when absent (chapter 11.3). -/
def reasonCode : Option AbortReason → Nat
  | none => 0
  | some .requested => 1
  | some .idle => 2
  | some .gap => 3
  | some .overrun => 4
  | some .numbers => 5

/-- The code of a cell status. -/
def CellStatus.code : CellStatus → Nat
  | .done => 0 | .resent => 1 | .refused => 2

/-- The code of a verdict. -/
def Verdict.code : Verdict → Nat
  | .new => 0 | .dup => 1 | .unindexed => 2 | .conflict => 3

/-- The code of an unindexed cause. -/
def Cause.code : Cause → Nat
  | .none => 0 | .bucketFull => 1 | .provisionalLimit => 2 | .fillYield => 3

/-- The code of a request status. -/
def Status.code : Status → Nat
  | .done => 1 | .existing => 2 | .busy => 3 | .state => 4 | .range => 5 | .full => 6 | .conflict => 7 | .inUse => 8
  | .absent => 9 | .unformatted => 10 | .unknown => 11

/-- The code of an engine state. -/
def EngineState.code : EngineState → Nat
  | .stopped => 0 | .running => 1 | .quiescing => 2 | .faulted => 3

/-- The code of an index state. -/
def IndexState.code : IndexState → Nat
  | .unformatted => 0 | .formatting => 1 | .ready => 2 | .scanning => 3

/-- The code of a fill state. -/
def FillState.code : FillState → Nat
  | .normal => 0 | .declared => 1

/-- The code of a last reset kind. -/
def ResetKind.code : ResetKind → Nat
  | .cold => 0 | .warm => 1

/-- The code of a start error. -/
def StartError.code : StartError → Nat
  | .none => 0 | .baseUnaligned => 1 | .headerMagic => 2 | .headerRange => 3 | .busError => 4

/-- The code of a fault cause. -/
def FaultCause.code : FaultCause → Nat
  | .none => 0 | .hostMemory => 1 | .indexDescriptor => 2

/-- The Index Policy a code stands for; no other code is defined (R176). -/
def policyOf : Nat → Option Policy
  | 0 => some .always
  | 1 => some .yield
  | _ => none

/-! ### The register window, as read (R160, chapter 11.2) -/

/-- What a read of Engine Status returns. -/
def State.engineStatus (s : State) : BitVec 64 :=
  BitVec.ofNat 64
    (s.ctl.engine.code + s.index.state.code * 2 ^ 4 + s.ctl.lastReset.code * 2 ^ 8 + s.ctl.startError.code * 2 ^ 12 +
      s.ctl.faultCause.code * 2 ^ 16 + s.index.scanPosition * 2 ^ 32)

/-- What a read of the register at `offset` returns; an offset not listed reads as 0.
DESIGN CHOICE (log entry 27): so does a part read that begins inside a 64-bit register, at 0x0C or 0x1C, since the register window lists no register there. -/
def State.readRegister (s : State) (offset : Nat) : BitVec 64 :=
  match offset with
  | 0x00 => 0x00013280
  | 0x08 => s.engineStatus
  | 0x18 => s.ctl.base
  | 0x24 => BitVec.ofNat 64 s.notice.serving
  | _ => 0

end Sys2Proof.Machine
end

