-- ==== Sys2Proof/Machine/Formats.lean ====
section
/-! DEFINITION. The bytes of the engine's posted writes and where each stands in host memory (chapter 11), and host memory as those writes leave it. -/

namespace Sys2Proof.Machine

/-- One byte holding a small number. -/
def byteOf (n : Nat) : Byte := BitVec.ofNat 8 n

/-- A record of `size` bytes: each item's bytes at its offset, 0 in every reserved byte (R177). -/
def layout (size : Nat) (items : List (Nat × List Byte)) : List Byte :=
  (List.range size).map fun i =>
    match items.find? fun it => decide (it.1 ≤ i) && decide (i < it.1 + it.2.length) with
    | some it => it.2.getD (i - it.1) 0
    | none => 0

/-- The Condition Set byte: bit 0 RECIPE, bit 1 WATCH, bit 2 STATE (chapter 11.3). -/
def Marks.byte (m : Marks) : Byte := byteOf (m.recipe.toNat + 2 * m.watch.toNat + 4 * m.state.toNat)

/-- The Final Offset field: all ones when absent (chapter 11.3). -/
def finalField : Option Nat → Nat
  | some f => f
  | none => 0xFFFFFFFFFFFFFFFF

/-- The statistics snapshot of a slot: seven 8-byte fields (chapter 11.3). -/
def SlotStats.asBytes (t : SlotStats) : List Byte :=
  [t.bytes, t.resent, t.chunks, t.dupChunks, t.dupBytes, t.unindexed, t.holds].flatMap (leBytes 8)

/-- The statistics of the Engine Record, from 0x040 to 0x087 (chapter 11.3). -/
def EngineStats.bytes (t : EngineStats) : List Byte :=
  [t.lookups, t.inserts, t.firms, t.withdrawals, t.takeovers, t.bucketFull, t.fillYields, t.conflicts].flatMap (leBytes 8) ++
    leBytes 4 t.corrected ++ leBytes 4 t.uncorrected

/-- A recipe entry: 64 bytes (chapter 11.5). -/
def RecipeEntry.bytes (e : RecipeEntry) : List Byte :=
  leBytes 6 e.ordinal ++ leBytes 6 e.offset ++ leBytes 3 e.length ++ [byteOf e.verdict.code] ++ leBytes 5 e.number ++
    [byteOf e.cause.code] ++ leBytes 4 e.check.toNat ++ List.replicate 6 0 ++ e.digest.toList

/-- The live fields of the Engine Record: 24 bytes (chapter 11.3). -/
def LiveFields.bytes (l : LiveFields) : List Byte :=
  [byteOf l.engine.code, byteOf l.fill.code, byteOf l.last, byteOf l.error.toNat] ++ leBytes 4 l.ticks.toNat ++ leBytes 8 l.counter ++
    leBytes 4 l.occupancy ++ List.replicate 4 0

/-- A slot's device half: all 384 bytes, reserved bytes included (R177, chapter 11.3). -/
def DeviceHalf.bytes (d : DeviceHalf) : List Byte :=
  layout 384
    [(0x000, [byteOf d.state.code]), (0x001, [byteOf (reasonCode d.reason)]), (0x003, [d.marks.byte]), (0x004, leBytes 4 d.seen.toNat),
     (0x008, leBytes 8 d.consumed), (0x010, leBytes 8 d.safe), (0x018, leBytes 8 d.written), (0x020, leBytes 8 (finalField d.final)),
     (0x040, d.cells.toList.flatMap fun c => [c.1, byteOf c.2.code]), (0x080, d.stats.asBytes)]

/-- The result operands of an answer, from 0x68 of the cell (chapter 11.4). -/
def ReqResult.bytes : ReqResult → List Byte
  | .generation v => leBytes 4 v.toNat
  | .seedConflict number length check => leBytes 8 number ++ leBytes 4 length ++ leBytes 4 check.toNat
  | .retireConflict number => leBytes 8 number
  | .epoch v => leBytes 4 v.toNat

/-- The bytes of a posted write, the one at the lowest address first. -/
def HostWrite.bytes : HostWrite → List Byte
  | .slotState _ v => [byteOf v.code]
  | .slotReason _ v => [byteOf (reasonCode v)]
  | .slotMarks _ v => [v.byte]
  | .slotSeen _ v => leBytes 4 v.toNat
  | .slotConsumed _ v => leBytes 8 v
  | .slotSafe _ v => leBytes 8 v
  | .slotWritten _ v => leBytes 8 v
  | .slotFinal _ v => leBytes 8 (finalField v)
  | .slotStats _ v => v.asBytes
  | .cellStatus _ _ v => [byteOf v.code]
  | .cellTag _ _ v => [v]
  | .deviceHalf _ v => v.bytes
  | .reqResult _ v => v.bytes
  | .reqStatus _ v => [byteOf v.code]
  | .reqTag _ v => [v]
  | .readyWord _ v => leBytes 4 v.toNat
  | .recordLive v => v.bytes
  | .recordStats v => v.bytes
  | .recipe _ v => v.bytes
  | .notice _ word => leBytes 4 word.toNat

/-- The address of a slot's device half, for an area at `base` (chapter 11.3). -/
def deviceHalfAt (base : Nat) (slot : SlotNo) : Nat := base + 0x4000 + 1024 * slot.val + 0x280

/-- The address of a request cell (chapter 11.3). -/
def requestCellAt (base : Nat) (cell : ReqNo) : Nat := base + 0x3000 + 128 * cell.val

/-- Where a posted write begins, for an area at `base` (chapter 11.3). -/
def HostWrite.addr (base : Nat) : HostWrite → Nat
  | .slotState slot _ => deviceHalfAt base slot
  | .slotReason slot _ => deviceHalfAt base slot + 0x001
  | .slotMarks slot _ => deviceHalfAt base slot + 0x003
  | .slotSeen slot _ => deviceHalfAt base slot + 0x004
  | .slotConsumed slot _ => deviceHalfAt base slot + 0x008
  | .slotSafe slot _ => deviceHalfAt base slot + 0x010
  | .slotWritten slot _ => deviceHalfAt base slot + 0x018
  | .slotFinal slot _ => deviceHalfAt base slot + 0x020
  | .slotStats slot _ => deviceHalfAt base slot + 0x080
  | .cellStatus slot cell _ => deviceHalfAt base slot + 0x040 + 2 * cell.val + 1
  | .cellTag slot cell _ => deviceHalfAt base slot + 0x040 + 2 * cell.val
  | .deviceHalf slot _ => deviceHalfAt base slot
  | .reqResult cell _ => requestCellAt base cell + 0x68
  | .reqStatus cell _ => requestCellAt base cell + 0x61
  | .reqTag cell _ => requestCellAt base cell + 0x60
  | .readyWord word _ => base + 0x2080 + 4 * word
  | .recordLive _ => base + 0x1000
  | .recordStats _ => base + 0x1040
  | .recipe addr _ => addr
  | .notice addr _ => addr

/-- What a posted write puts at host address `a`, if it covers it. -/
def Posted.byteAt (p : Posted) (a : Nat) : Option Byte :=
  if p.write.addr p.area ≤ a then p.write.bytes[a - p.write.addr p.area]? else none

/-- The byte at host address `a` as the posted writes leave it: that of the last write that covers it, none where the engine has written nothing.
Writes reach host memory in the order issued (R148). -/
def hostByte (posted : List Posted) (a : Nat) : Option Byte := posted.reverse.findSome? fun p => p.byteAt a

end Sys2Proof.Machine
end

