-- ==== Sys2Proof/Machine/Flags.lean ====
section
/-! DEFINITION. The Host Memory Port's writes, and the conditions, marks, levels and notice messages of the Notice Unit (chapter 9). -/

namespace Sys2Proof.Machine

/-! ### Posted writes -/

/-- The engine reaches host memory in RUNNING and QUIESCING only, apart from a START's own reads and writes (R46, R168, R174). -/
def State.mayWrite (s : State) : Bool := s.ctl.engine == .running || s.ctl.engine == .quiescing

/-- The port takes the writes of a START, whatever the engine state (R172). -/
def State.postAlways (s : State) (ws : List HostWrite) : State :=
  { s with port := { s.port with posted := s.port.posted ++ ws.map (Posted.mk s.ctl.area) } }

/-- The writes a block issues, in order: made in RUNNING and QUIESCING, dropped in STOPPED and FAULTED. -/
def State.post (s : State) (ws : List HostWrite) : State := if s.mayWrite then s.postAlways ws else s

/-- A command begins: the writes of the events before it have all been issued, and no reset takes them back (R169, R170; log entry 28). -/
def State.begun (s : State) : State := { s with port := { s.port with recent := 0 } }

/-! ### Slots -/

/-- The context of a slot. -/
def State.slot (s : State) (i : SlotNo) : Slot := s.slots.get i

/-- A slot's context is replaced. -/
def State.setSlot (s : State) (i : SlotNo) (c : Slot) : State := { s with slots := s.slots.set i c }

/-- A slot's context is changed. -/
def State.editSlot (s : State) (i : SlotNo) (f : Slot → Slot) : State := s.setSlot i (f (s.slot i))

/-! ### The pending level set and sending -/

/-- A level joins a list kept highest first, each level once. -/
def joinDescending (l : Nat) : List Nat → List Nat
  | [] => [l]
  | h :: t => if l = h then h :: t else if h < l then l :: h :: t else h :: joinDescending l t

/-- A level joins the pending level set; level 0 is not recorded (R162, R165). -/
def State.joinLevel (s : State) (l : Nat) : State :=
  if l = 0 then s else { s with notice := { s.notice with levels := joinDescending l s.notice.levels } }

/-- The test for a due message, and its sending: in RUNNING, the highest pending level above the Serving Level is sent (R166). -/
def State.testDue (s : State) : State :=
  match s.notice.levels with
  | [] => s
  | h :: rest =>
    if s.ctl.engine = .running ∧ s.notice.serving < h then
      let s := s.post [.notice s.header.noticeAddress s.header.noticeWord]
      { s with notice := { s.notice with levels := rest, serving := h, last := h } }
    else s

/-- The test that belongs to an event which took `s` to `t`: it is made where the event has added a level to the set (R166). -/
def State.notify (s t : State) : State := if t.notice.levels = s.notice.levels then t else t.testDue

/-- A level joins and the test is made (R165, R166). -/
def State.raiseLevel (s : State) (l : Nat) : State := s.notify (s.joinLevel l)

/-- The writes by which `t` goes beyond `s` are those of one event, whose last ones a reset may still find unissued (R134, R170, R175; log entry 28). -/
def State.issued (s t : State) : State :=
  { t with port := { t.port with recent := t.port.posted.length - s.port.posted.length } }

/-- The end of an event that took `s` to `t`: the test for a due message is made once, after every write of the event (R132, R166; log entry 25). -/
def State.endEvent (s t : State) : State := s.issued (s.notify t)

/-! ### Slot conditions -/

/-- The truth of RECIPE (R132). -/
def Slot.recipeTrue (c : Slot) : Bool :=
  match c.state with
  | .free => false
  | .settling | .closed | .aborted =>
    decide (c.cls.recipeThreshold ≤ c.written - c.taken) || decide (c.taken < c.written)
  | .active | .held | .stalled | .aborting => decide (c.cls.recipeThreshold ≤ c.written - c.taken)

/-- The truth of WATCH (R132). -/
def Slot.watchTrue (c : Slot) : Bool :=
  match c.state with
  | .free => false
  | .active | .held | .stalled | .settling | .closed | .aborting | .aborted => c.watch != 0 && decide (c.watch ≤ c.safe)

/-- The truth of STATE (R132). -/
def Slot.stateTrue (c : Slot) : Bool := c.state == .closed || c.state == .aborted

/-- The marks a slot's condition set is to hold: a condition of level 0 is not recorded (R162, R163). -/
def Slot.marksDue (c : Slot) : Marks :=
  { recipe := c.cls.recipeLevel != 0 && c.recipeTrue, watch := c.cls.watchLevel != 0 && c.watchTrue,
    state := c.cls.stateLevel != 0 && c.stateTrue }

/-- Some mark is true: the slot's flag of the Ready Map (R164). -/
def Marks.any (m : Marks) : Bool := m.recipe || m.watch || m.state

/-- The levels of the conditions that go from false to true (R165). -/
def Slot.risen (c : Slot) (before after : Marks) : List Nat :=
  (if after.recipe && !before.recipe then [c.cls.recipeLevel] else []) ++
  (if after.watch && !before.watch then [c.cls.watchLevel] else []) ++
  (if after.state && !before.state then [c.cls.stateLevel] else [])

/-- The 32-bit word of a map of flags that holds the flag of slot `i`: bit (i mod 32) of word i / 32 (R164, chapter 11.3). -/
def readyWord (ready : Vector Bool 1024) (word : Nat) : BitVec 32 :=
  BitVec.ofNat 32 (((ready.toList.drop (32 * word)).take 32).foldr (fun b n => b.toNat + 2 * n) 0)

/-- The Ready Map takes a slot's flag: where it changes, the word that holds it is written (R164). -/
def State.setReady (s : State) (i : SlotNo) (flag : Bool) : State :=
  if s.notice.ready.get i = flag then s else
    let ready := s.notice.ready.set i flag
    { s with notice := { s.notice with ready := ready } }.post [.readyWord (i.val / 32) (readyWord ready (i.val / 32))]

/-- A slot's condition set is replaced and written, and its flag of the Ready Map follows (R163, R164). -/
def State.writeMarks (s : State) (i : SlotNo) (m : Marks) : State :=
  ((s.editSlot i fun c => { c with marks := m }).post [.slotMarks i m]).setReady i m.any

/-- The conditions of a slot are decided again and handed on at the end of an event.
Where a recorded one changes, one write carries the set, the Ready Map follows, and the levels of those become true join together (R132, R163, R164, R165).
The test for a message is made at the end of the event, by `State.endEvent`.
DESIGN CHOICE (log entry 25): a condition that an event changes more than once is decided once, as it stands at the event's end. -/
def State.refresh (s : State) (i : SlotNo) : State :=
  let before := (s.slot i).marks
  let after := (s.slot i).marksDue
  if before = after then s
  else ((s.slot i).risen before after).foldl State.joinLevel (s.writeMarks i after)

/-- The slots, from number `n` on, whose conditions an event has changed and not yet handed on. -/
def changedFrom : List Slot → Nat → List SlotNo
  | [], _ => []
  | c :: cs, n => if c.marks = c.marksDue then changedFrom cs (n + 1) else Fin.ofNat 1024 n :: changedFrom cs (n + 1)

/-- The conditions of every slot that an event has changed are decided again and handed on, in ascending slot number (R132, R163; log entry 25). -/
def State.refreshAll (s : State) : State := (changedFrom s.slots.toList 0).foldl State.refresh s

/-! ### Engine conditions -/

/-- The ERROR condition becomes true; its level joins only where it was false (R145, R165). -/
def State.setError (s : State) : State :=
  if s.index.error then s else
    { s with index := { s.index with error := true } }.joinLevel s.header.errorLevel

/-- The fill watch changes state, and the change is handed on as the FILL condition, at its place in the order of a sweep's end (R82, R159, R165). -/
def State.setFill (s : State) (f : FillState) (count : Nat) : State :=
  let s1 := { s with index := { s.index with fill := f, fillCount := count } }
  if s.index.fill = .normal ∧ f = .declared then s1.raiseLevel s.header.fillLevel else s1

end Sys2Proof.Machine
end

