-- ==== Sys2Proof/Machine/Ops.lean ====
section
/-! DEFINITION. The operations the commands share: sparse tables, saturating counts, the Provisional Pool's records, the slot states and their passages (chapter 2), the
Run List (chapter 1), the answering of cells and requests, and the entry to FAULTED. -/

namespace Sys2Proof.Machine

/-! ### Sparse tables -/

/-- The value under a number, if one is listed. -/
def tableGet {α : Type} : Table α → Nat → Option α
  | [], _ => none
  | (k, v) :: t, n => if k = n then some v else tableGet t n

/-- A value is put under a number. -/
def tablePut {α : Type} : Table α → Nat → α → Table α
  | [], n, x => [(n, x)]
  | (k, v) :: t, n, x =>
    if n < k then (n, x) :: (k, v) :: t
    else if n = k then (n, x) :: t
    else (k, v) :: tablePut t n x

/-- What stands under a number is removed. -/
def tableErase {α : Type} : Table α → Nat → Table α
  | [], _ => []
  | (k, v) :: t, n => if k = n then t else (k, v) :: tableErase t n

/-- The canonical form of a table: numbers strictly rising. -/
abbrev tableWf {α : Type} (t : Table α) : Prop := List.Pairwise (fun a b => a.1 < b.1) t

/-- The least number not listed in a table whose numbers rise from `n` on. -/
def leastFree {α : Type} : Table α → Nat → Nat
  | [], n => n
  | (k, _) :: t, n => if k = n then leastFree t (n + 1) else n

/-- A vector with a function applied to each item. -/
def mapVector {α β : Type} {n : Nat} (f : α → β) (v : Vector α n) : Vector β n := ⟨⟨v.toArray.toList.map f⟩, by simp⟩

/-! ### Counts that hold at their limit (R43, R76) -/

/-- A 48-bit count. -/
def sat48 (n : Nat) : Nat := min n (2 ^ 48 - 1)

/-- A 32-bit count. -/
def sat32 (n : Nat) : Nat := min n (2 ^ 32 - 1)

/-- The engine statistics are changed. -/
def State.editStats (s : State) (f : EngineStats → EngineStats) : State :=
  { s with index := { s.index with stats := f s.index.stats } }

/-! ### Provisional records -/

/-- The record under a number, if it is in use (R93). -/
def State.record (s : State) (r : Nat) : Option PoolRecord := tableGet s.pool r

/-- A record is replaced. -/
def State.setRecord (s : State) (r : Nat) (p : PoolRecord) : State := { s with pool := tablePut s.pool r p }

/-- A record becomes free; it then holds nothing (R93). -/
def State.freeRecord (s : State) (r : Nat) : State := { s with pool := tableErase s.pool r }

/-- A record in use is changed; a free one stays free. -/
def State.editRecord (s : State) (r : Nat) (f : PoolRecord → PoolRecord) : State :=
  match s.record r with
  | some p => s.setRecord r (f p)
  | none => s

/-- A record is given up for withdrawal: a WITHDRAW for it joins the tail of the withdrawal source (R106). -/
def State.issueWithdraw (s : State) (r : Nat) : State :=
  let s := s.editRecord r fun p => { p with disp := .withdrawing }
  { s with index := { s.index with withdrawal := s.index.withdrawal ++ [r] } }

/-- A record leaves a provisional list, and the provisional count falls by one for it (R96). -/
def Slot.dropProv (c : Slot) (r : Nat) : Slot :=
  { c with provList := c.provList.filter fun q => q != r, provCount := c.provCount - c.provList.count r }

/-! ### Writes of the device half -/

/-- The Consumed Offset is written (R46); what was written last is kept. -/
def State.writeConsumed (s : State) (i : SlotNo) : State :=
  if s.mayWrite then (s.editSlot i fun c => { c with shown := c.consumed }).post [.slotConsumed i (s.slot i).consumed] else s

/-- A slot changes state: the Consumed Offset and then the State are written (R46).
DESIGN CHOICE (log entry 29): the other fields that the change has written stand before the Consumed Offset. -/
def State.setSlotState (s : State) (i : SlotNo) (st : SlotState) : State :=
  ((s.editSlot i fun c => { c with state := st }).writeConsumed i).post [.slotState i st]

/-! ### ACTIVE, HELD and STALLED (R26) -/

/-- The slot is ACTIVE, HELD or STALLED. -/
def SlotState.isOpen : SlotState → Bool
  | .active | .held | .stalled => true
  | .free | .settling | .closed | .aborting | .aborted => false

/-- The slot is ACTIVE, HELD, STALLED or SETTLING (R29, R40, R48). -/
def SlotState.isLive : SlotState → Bool
  | .active | .held | .stalled | .settling => true
  | .free | .closed | .aborting | .aborted => false

/-- The state R26 gives a slot that is ACTIVE, HELD or STALLED. -/
def Slot.decided (c : Slot) : SlotState :=
  match c.pending with
  | [] => .active
  | p :: _ =>
    match p.cond with
    | .held _ => .held
    | .resolved _ _ _ => if c.written - c.taken = c.areaSize then .stalled else .active
    | .looking => .active

/-- The Context Store decides the state of an open slot again (R26). -/
def State.decideState (s : State) (i : SlotNo) : State :=
  let c := s.slot i
  if c.state.isOpen ∧ c.decided ≠ c.state then s.setSlotState i c.decided else s

/-! ### Settling, closing and the end of an abort -/

/-- The passage to CLOSED where its two conditions hold: the snapshot, then the state (R28, R45).
DESIGN CHOICE (log entry 29): the snapshot stands before the Consumed Offset. -/
def State.tryClose (s : State) (i : SlotNo) : State :=
  let c := s.slot i
  if c.state = .settling ∧ c.stored = c.written ∧ c.inflight = 0 then
    (s.post [.slotStats i c.stats]).setSlotState i .closed
  else s

/-- The passage to SETTLING where its conditions hold, and from there to CLOSED where those hold (R27, R28). -/
def State.trySettle (s : State) (i : SlotNo) : State :=
  let c := s.slot i
  if c.state.isOpen ∧ c.chunker.finished ∧ c.pending = [] then (s.setSlotState i .settling).tryClose i else s

/-- The passage to ABORTED of an ABORTING slot whose in-flight count is 0: the snapshot, then the state (R32, R45).
DESIGN CHOICE (log entry 29): the snapshot stands before the Consumed Offset. -/
def State.tryAborted (s : State) (i : SlotNo) : State :=
  let c := s.slot i
  if c.state = .aborting ∧ c.inflight = 0 then (s.post [.slotStats i c.stats]).setSlotState i .aborted else s

/-- The in-flight operation count falls by one, and an ABORTING slot it brings to 0 passes to ABORTED (R31, R32). -/
def State.dropInflight (s : State) (i : SlotNo) : State :=
  (s.editSlot i fun c => { c with inflight := c.inflight - 1 }).tryAborted i

/-! ### Eligibility and the Run List (R16, R17) -/

/-- The head of the Feed Queue is usable: it holds the byte at the Consumed Offset (R52). -/
def Slot.headUsable (c : Slot) : Bool :=
  match c.feed with
  | [] => false
  | g :: _ => decide (g.offset ≤ c.consumed)

/-- A final chunk is due (R7, R16). -/
def Slot.finalDue (c : Slot) : Bool := c.final == some c.consumed && decide (0 < c.chunker.len)

/-- The stream is eligible for chunking (R16). -/
def Slot.eligible (c : Slot) : Bool :=
  c.state.isOpen && !c.chunker.finished && decide (c.pending.length < 8) && (c.headUsable || c.finalDue)

/-- A lane works the slot (R15). -/
def State.worked (s : State) (i : SlotNo) : Bool :=
  s.lanes.toList.any fun l => match l.turn with
    | some t => t.slot == i
    | none => false

/-- The slot joins the tail of the Run List if it is eligible, not on the list and not being worked (R17). -/
def State.joinRun (s : State) (i : SlotNo) : State :=
  if (s.slot i).eligible && !s.runList.contains i && !s.worked i then { s with runList := s.runList ++ [i] } else s

/-! ### Entry to ABORTING (R22, R30, R56) -/

/-- The removals that an abort asks the Pool for: one for each HELD pending chunk (R30, R101). -/
def Slot.removals (c : Slot) (i : SlotNo) : List Removal :=
  c.pending.filterMap fun p => match p.cond with
    | .held r => some { waiter := { slot := i, ordinal := p.ordinal }, record := r }
    | .looking | .resolved _ _ _ => none

/-- The context of a stream that enters ABORTING: no segment, no pending chunk, no listed record (R30, R56). -/
def Slot.aborted (c : Slot) (reason : AbortReason) : Slot :=
  { c with
    state := .aborting, reason := some reason, feed := [], pending := [], provList := [],
    provCount := c.provCount - c.provList.length,
    cells := mapVector (fun r => { r with queued := none }) c.cells }

/-- The lanes' part of an abort: the slot leaves the Run List, a lane working it ends its turn, and its entries leave the Lookup Queue (R22). -/
def State.abandonLanes (s : State) (i : SlotNo) : State :=
  { s with
    runList := s.runList.filter fun j => j != i
    lookups := s.lookups.filter fun l => l.slot != i
    lanes := mapVector (fun l => match l.turn with
      | some t => if t.slot = i then { l with turn := none } else l
      | none => l) s.lanes }

/-- A slot that is ACTIVE, HELD, STALLED or SETTLING enters ABORTING; in any other state nothing is done (R29, R30).
The passage to ABORTED, where the count is 0, belongs to it.
DESIGN CHOICE (log entry 29): the Abort Reason is written before the Consumed Offset; R46 puts both before the State and gives no order between them. -/
def State.enterAborting (s : State) (i : SlotNo) (reason : AbortReason) : State :=
  let c := s.slot i
  if c.state.isLive then
    let s := s.abandonLanes i
    let s := { s with removals := s.removals ++ c.removals i }
    let s := s.setSlot i (c.aborted reason)
    let s := c.provList.foldl State.issueWithdraw s
    let s := s.post [.slotReason i (some reason)]
    ((s.writeConsumed i).post [.slotState i .aborting]).tryAborted i
  else s

/-- An abort as an event of its own (R30, R132).
DESIGN CHOICE (log entry 25): where the slot passes on to ABORTED in the same event, its conditions are decided once, at the event's end, and not at each passage. -/
def State.abortStream (s : State) (i : SlotNo) (reason : AbortReason) : State := s.endEvent ((s.enterAborting i reason).refresh i)

/-! ### Idle expiries that a tick has made due (R42) -/

/-- A tick has brought the slot's idle countdown to 0 and the expiry has not been taken: only an expiry leaves the countdown of a class with an Idle Limit at 0
(R41, R42). -/
def Slot.idleDue (c : Slot) : Bool := c.state.isLive && c.cls.idleLimit != 0 && c.idle == 0

/-- The slots, from number `n` on, whose idle expiry is due. -/
def dueFrom : List Slot → Nat → List SlotNo
  | [], _ => []
  | c :: cs, n => if c.idleDue then Fin.ofNat 1024 n :: dueFrom cs (n + 1) else dueFrom cs (n + 1)

/-- The slots whose idle expiry is due, in ascending number. -/
def State.dueSlots (s : State) : List SlotNo := dueFrom s.slots.toList 0

/-- A command begins with the expiries that a tick has made due, each an event of its own.
By R42 they come with the tick, so every later event takes them first: it meets the streams ABORTING (log entry 8).
Their writes, and those of all events before, have been issued (log entry 28). -/
def State.settled (s : State) : State := (s.dueSlots.foldl (fun s i => s.abortStream i .idle) s).begun

/-! ### Waiters and pending chunks -/

/-- The pending chunk of an ordinal takes a condition (R20). -/
def setCond (ordinal : Nat) (cond : ChunkCond) (ps : List PendingChunk) : List PendingChunk :=
  ps.map fun p => if p.ordinal = ordinal then { p with cond := cond } else p

/-- A waiter leaves its record's waiter list; a removal asked for it has nothing left to remove (R98, R101). -/
def State.dropWaiter (s : State) (r : Nat) (w : Waiter) : State :=
  let s := s.editRecord r fun p => { p with waiters := p.waiters.filter fun v => v != w }
  { s with removals := s.removals.filter fun m => m.waiter != w }

/-- The pending chunk becomes RESOLVED and the slot's state is decided again (R75, R100). -/
def State.resolveChunk (s : State) (i : SlotNo) (ordinal : Nat) (v : Verdict) (number : Nat) (cause : Cause) : State :=
  (s.editSlot i fun c => { c with pending := setCond ordinal (.resolved v number cause) c.pending }).decideState i

/-- A waiter leaves its list and is resolved: its chunk takes the outcome, or the outcome is dropped where its stream is ABORTING (R100). -/
def State.resolveWaiter (s : State) (r : Nat) (w : Waiter) (v : Verdict) (number : Nat) (cause : Cause) : State :=
  let s := s.dropWaiter r w
  let s := if (s.slot w.slot).state.isOpen then s.resolveChunk w.slot w.ordinal v number cause else s
  s.dropInflight w.slot

/-- A waiter of an ABORTING stream is discarded (R100, R107). -/
def State.discardWaiter (s : State) (r : Nat) (w : Waiter) : State :=
  (s.dropWaiter r w).dropInflight w.slot

/-! ### Answers -/

/-- A segment cell is answered: its Cell Status, then its Done Tag (R50). -/
def State.answerCell (s : State) (i : SlotNo) (cell : CellNo) (tag : Tag) (status : CellStatus) : State :=
  (s.editSlot i fun c => { c with cells := c.cells.set cell { done := tag, status := status, queued := none } }).post
    [.cellStatus i cell status, .cellTag i cell tag]

/-- A request is answered: its result operands, its status and its done tag, and its completion is handed to the Notice Unit.
In FAULTED it is not, and its record keeps its In-flight Tag (R157). -/
def State.answer (s : State) (cell : ReqNo) (status : Status) (result : Option ReqResult) : State :=
  if s.mayWrite then
    match (s.requests.get cell).inflight with
    | some tag =>
      let ws := (match result with
        | some r => [HostWrite.reqResult cell r]
        | none => []) ++ [.reqStatus cell status, .reqTag cell tag]
      ({ s with requests := s.requests.set cell { done := some tag, inflight := none } }.post ws).joinLevel s.header.requestLevel
    | none => s
  else s

/-! ### Turns and faults -/

/-- A lane is replaced. -/
def State.setLane (s : State) (n : LaneNo) (l : Lane) : State := { s with lanes := s.lanes.set n l }

/-- A lane ends its turn, and the slot joins the tail of the Run List if its stream is still eligible (R19). -/
def State.endTurn (s : State) (n : LaneNo) : State :=
  match (s.lanes.get n).turn with
  | none => s
  | some t => (s.setLane n { s.lanes.get n with turn := none }).joinRun t.slot

/-- The reads of a sweep that takes slots, and of an OPEN, that a fault or reset leaves with no block to take them. -/
def SweepUnit.readsOut (u : SweepUnit) : Nat :=
  match u.flight with
  | some (.slots _) => 1
  | some (.requests ({ request := .openStream _ _ _ _ _, .. } :: _)) => 1
  | some (.requests _) => 0
  | none => 0

/-- The entry to FAULTED: the first cause stands, the Timebase stops, the remembered mark is cleared, the sweep ends without its end and every lane ends its turn
(R19, R23, R152, R155, R174). -/
def State.enterFaulted (s : State) (cause : FaultCause) : State :=
  if s.ctl.engine = .faulted then s else
    let lost := s.sweep.readsOut
    let s := { s with
      ctl := { s.ctl with engine := .faulted, faultCause := cause, starting := false }
      time := { s.time with running := false }
      sweep := { flight := none, remembered := false }
      port := { s.port with lostReads := s.port.lostReads + lost } }
    (List.finRange 32).foldl State.endTurn s

end Sys2Proof.Machine
end

