-- ==== Sys2Proof/Machine/Chunker.lean ====
section
/-! DEFINITION. The chunker: rolling hash, boundary test, check word, digest and the making of pending chunks (chapter 1). -/

namespace Sys2Proof.Machine

/-- The multiplier M of the rolling hash (chapter 1.2). -/
def hashM : BitVec 32 := 0x6F4A7C15

/-- M raised to the 32nd power and reduced modulo 2^32 (chapter 1.2). -/
def hashM32 : BitVec 32 := BitVec.ofNat 32 (0x6F4A7C15 ^ 32)

/-- The byte that leaves a window taking a new byte, and what is left of the window (step 2 of R3). -/
def windowLeaves (window : List Byte) : Byte × List Byte :=
  if window.length = 32 then (window.headD 0, window.tail) else (0, window)

/-- One of the eight shifts of the check register (R9). -/
def checkShift (r : BitVec 32) : BitVec 32 := if r.msb then (r <<< 1) ^^^ 0x1EDC6F41#32 else r <<< 1

/-- The check register takes a byte, most significant bit first (R9). -/
def checkByte (r : BitVec 32) (b : Byte) : BitVec 32 :=
  checkShift^[8] (r ^^^ (b.setWidth 32 <<< 24))

/-- The chunker takes a byte: steps 1 to 5 of R3. -/
def Chunker.take (h : Chunker) (b : Byte) : Chunker :=
  let (x, window) := windowLeaves h.window
  { h with
    len := h.len + 1
    window := window ++ [b]
    hash := h.hash * hashM + b.setWidth 32 - x.setWidth 32 * hashM32
    fed := b :: h.fed
    check := checkByte h.check b }

/-- The boundary test of a class at length `len` and hash `hash` (R4, R5). -/
def boundary (c : ChunkClass) (len : Nat) (hash : BitVec 32) : Bool :=
  if len < c.min then false
  else if len = c.max then true
  else if len < c.normal then decide (hash.toNat < 2 ^ (32 - c.sstrict))
  else decide (hash.toNat < 2 ^ (32 - c.sloose))

/-- The chunker after a boundary: the next chunk is open and empty (steps 4 and 5 of R6). -/
def Chunker.nextChunk (h : Chunker) : Chunker :=
  { h with hash := 0, len := 0, window := [], fed := [], check := 0xFFFFFFFF, nextOrdinal := h.nextOrdinal + 1 }

/-- The pending chunk that the open chunk of a context becomes (steps 1 and 2 of R6). -/
def Slot.openChunk (c : Slot) : PendingChunk :=
  { ordinal := c.chunker.nextOrdinal, offset := c.consumed - c.chunker.len, length := c.chunker.len,
    digest := Config.digest c.chunker.fed.reverse, check := c.chunker.check, cond := .looking }

/-- The lookup of a pending chunk of a slot (R21). -/
def lookupOf (i : SlotNo) (p : PendingChunk) : Lookup :=
  { slot := i, ordinal := p.ordinal, digest := p.digest, length := p.length, check := p.check }

/-- A boundary: the pending chunk is appended, its lookup joins the Lookup Queue, and the chunker begins the next chunk (R6).
A final chunk is made in the same way (R7). -/
def State.cutChunk (s : State) (i : SlotNo) : State :=
  let p := (s.slot i).openChunk
  let s := { s with lookups := s.lookups ++ [lookupOf i p] }
  (s.editSlot i fun c => { c with pending := c.pending ++ [p], chunker := c.chunker.nextChunk }).decideState i

/-- The Finished mark is set where the Final Offset is known and reached and no byte is open (R8). -/
def State.markFinished (s : State) (i : SlotNo) : State :=
  let c := s.slot i
  if c.final = some c.consumed ∧ c.chunker.len = 0 then
    s.editSlot i fun c => { c with chunker := { c.chunker with finished := true } }
  else s

/-- The end of a stream where it has come: a final chunk that is due and has room is made, and the Finished mark is set (R7, R8). -/
def State.endStream (s : State) (i : SlotNo) : State :=
  let c := s.slot i
  (if c.finalDue && decide (c.pending.length < 8) then s.cutChunk i else s).markFinished i

/-- The stream takes its next byte: the Consumed Offset, the statistic, the chunker, the boundary test and the end of the stream (R2, R3, R4, R7, R8). -/
def State.chunkByte (s : State) (i : SlotNo) (b : Byte) : State :=
  let s := s.editSlot i fun c =>
    { c with consumed := c.consumed + 1, stats := { c.stats with bytes := sat48 (c.stats.bytes + 1) }, chunker := c.chunker.take b }
  let c := s.slot i
  (if boundary c.cls c.chunker.len c.chunker.hash then s.cutChunk i else s).endStream i

end Sys2Proof.Machine
end

