-- ==== Sys2Proof/Machine/Recipes.lean ====
section
/-! DEFINITION. The Recipe Writer: emission, and the host's counters as held at a sweep (chapter 6). -/

namespace Sys2Proof.Machine

/-! ### Emission (R117 to R120) -/

/-- The head pending chunk and its outcome, where the conditions of R119 on the stream hold: ACTIVE, a RESOLVED head, and room. -/
def Slot.emittable (c : Slot) : Option (PendingChunk × Verdict × Nat × Cause) :=
  match c.pending with
  | [] => none
  | p :: _ =>
    match p.cond with
    | .resolved v n cause => if c.state = .active ∧ c.written - c.taken < c.areaSize then some (p, v, n, cause) else none
    | .looking | .held _ => none

/-- The recipe entry of a pending chunk and its outcome (R118). -/
def recipeOf (p : PendingChunk) (v : Verdict) (n : Nat) (cause : Cause) : RecipeEntry :=
  { ordinal := p.ordinal, offset := p.offset, length := p.length, verdict := v, number := n, cause := cause, check := p.check,
    digest := p.digest }

/-- The host address of the entry of an ordinal: position n modulo the size of the circular area (R117). -/
def Slot.entryAddr (c : Slot) (n : Nat) : Nat := c.areaAddr + 64 * (n % c.areaSize)

/-- The statistics of a stream after an entry is written (R43, step 5 of R119). -/
def SlotStats.emitted (t : SlotStats) (v : Verdict) (length : Nat) : SlotStats :=
  let t := { t with chunks := sat48 (t.chunks + 1) }
  match v with
  | .new => t
  | .dup => { t with dupChunks := sat48 (t.dupChunks + 1), dupBytes := sat48 (t.dupBytes + length) }
  | .unindexed | .conflict => { t with unindexed := sat48 (t.unindexed + 1) }

/-- Emission, one event at the context: the entry, the head's leaving, Recipe Written, the Extent List and the statistics.
Then the state is decided again, the slot may join the Run List, it may pass to SETTLING, and the conditions are decided again (R119). -/
def State.emit (s : State) (i : SlotNo) (p : PendingChunk) (v : Verdict) (n : Nat) (cause : Cause) : State :=
  let c := s.slot i
  let s := s.post [.recipe (c.entryAddr p.ordinal) (recipeOf p v n cause)]
  let s := s.editSlot i fun c =>
    { c with pending := c.pending.tail, written := c.written + 1, extents := c.extents ++ [{ ordinal := p.ordinal, stop := p.offset + p.length }],
             stats := c.stats.emitted v p.length }
  let s := s.post [.slotWritten i (c.written + 1)]
  let s := s.decideState i
  let s := s.joinRun i
  (s.trySettle i).refresh i

/-- EMISSION (R119). -/
def execEmission (i : SlotNo) (s : State) : Host.Outcome State Fault Refusal :=
  let s := s.settled
  match (s.slot i).emittable with
  | some (p, v, n, cause) => if s.mayWrite then .next (s.endEvent (s.emit i p v n cause)) else .fault .noEmission
  | none => .fault .noEmission

/-! ### The host's counters (R125, R126, R131)

The conditions that a host half changes are decided again at the end of SLOT_HOST_HALF_TAKEN, together (R132; log entry 14). -/

/-- A counter as held after a value is read: held at Recipe Written when above it, ignored when below the held value (R125, R126). -/
def holdValue (read held written : Nat) : Nat := if written < read then written else if held ≤ read then read else held

/-- A FIRM is issued for a record that leaves the head of its owner's list (R102). -/
def State.issueFirm (i : SlotNo) (s : State) (r : Nat) : State :=
  let s := s.editSlot i fun c => { c.dropProv r with inflight := c.inflight + 1 }
  let s := s.editRecord r fun p => { p with disp := .firming }
  { s with index := { s.index with firming := s.index.firming ++ [r] } }

/-- The records of a stream's provisional list whose owner ordinal is below `t`, in ordinal order (R102). -/
def State.firmDue (s : State) (i : SlotNo) (t : Nat) : List Nat :=
  (s.slot i).provList.filter fun r => match s.record r with
    | some p => decide (p.ordinal < t)
    | none => false

/-- The Safe Offset after the items of ordinals below `t` leave the Extent List: the end offset of the last of them (R129). -/
def Slot.safeAt (c : Slot) (t : Nat) : Nat :=
  match (c.extents.takeWhile fun e => decide (e.ordinal < t)).getLast? with
  | some e => e.stop
  | none => c.safe

/-- Stored Through as read at a sweep: a raise issues FIRMs, gives up extents, replaces and writes the Safe Offset, and tests SETTLING (R102, R126, R129). -/
def State.holdStored (s : State) (i : SlotNo) (read : Nat) : State :=
  let c := s.slot i
  let t := holdValue read c.stored c.written
  if t ≤ c.stored then s else
    let s := s.editSlot i fun c => { c with stored := t }
    let s := (s.firmDue i t).foldl (State.issueFirm i) s
    let s := s.editSlot i fun c => { c with safe := c.safeAt t, extents := c.extents.dropWhile fun e => decide (e.ordinal < t) }
    let s := s.post [.slotSafe i (s.slot i).safe]
    s.tryClose i

/-- Recipe Taken as read at a sweep: a raise gives positions of the recipe area back (R125). -/
def State.holdTaken (s : State) (i : SlotNo) (read : Nat) : State :=
  let c := s.slot i
  let t := holdValue read c.taken c.written
  if t ≤ c.taken then s else (s.editSlot i fun c => { c with taken := t }).decideState i

/-- The Watch Offset as read at a sweep (R131). -/
def State.holdWatch (s : State) (i : SlotNo) (read : Nat) : State :=
  s.editSlot i fun c => { c with watch := read }

end Sys2Proof.Machine
end

