-- ==== Sys2Proof/Machine/Control.lean ====
section
/-! DEFINITION. The Engine Controller and the register window: resets, START, QUIESCE, the register writes, failed reads and the passage to STOPPED (chapters 8.8 and 10). -/

namespace Sys2Proof.Machine

/-- The outcome of a command. -/
abbrev Result := Host.Outcome State Fault Refusal

/-! ### Resets (R89, R90, R175) -/

/-- The reads outstanding when a reset comes; their completions are taken by no block (R175). -/
def State.readsOut (s : State) : Nat :=
  (s.lanes.toList.filter fun l => l.read.isSome).length + s.sweep.readsOut + s.ctl.starting.toNat

/-- The port after a reset: the writes issued before it stand, the reads outstanding have no block to take them (R175), and of the last event the last `unissued` writes
are never issued, where the reset has come before them (R134, R169, R170; log entry 28). -/
def State.portAfterReset (s : State) (unissued : Nat) : Port :=
  { posted := s.port.posted.take (s.port.posted.length - min unissued s.port.recent), lostReads := s.port.lostReads + s.readsOut, recent := 0 }

/-- What every reset leaves alone: the queue of commands, and the port's issued writes; and what it makes of the reads outstanding. -/
def State.afterReset (s : State) (kind : ResetKind) (index : IndexUnit) (mem : IndexMemory) (unissued : Nat) : State :=
  { State.reset with
    pending := s.pending, ctl := .afterReset kind, index := index, mem := mem, port := s.portAfterReset unissued }

/-- POWER_ON: a cold reset (R89, R175).
The index memory is left with no entry listed: its contents are of no account until a FORMAT has cleared them (R89; log entry 7).
DESIGN CHOICE (log entry 36): the descriptor write that follows (R89) is made within this command, with no read-back that could fail.
How many of the last event's writes it comes before is a free value (log entry 28). -/
def execPowerOn (s : State) : Result :=
  .next (s.afterReset .cold .unformatted { ways := [], desc := .clear } (Config.unissued s.port.posted.length))

/-- The descriptor in the index memory when a reset comes: that of the write in hand where it had been made (R79, R90). -/
def State.descAtReset (s : State) (made : Bool) : Descriptor :=
  match made, s.index.writes with
  | true, w :: _ => w.desc
  | _, _ => s.mem.desc

/-- The descriptor read at a warm reset is valid (R90). -/
def Descriptor.usable (d : Descriptor) (ecc : Ecc) : Bool :=
  ecc != .uncorrectable && d.valid && decide (12 ≤ d.k ∧ d.k ≤ 24) && decide (d.reserved ≤ 2 ^ 40)

/-- The Index Unit after a warm reset that finds this descriptor (R83, R85, R90). -/
def IndexUnit.afterWarm (d : Descriptor) (ecc : Ecc) : IndexUnit :=
  let stats := { EngineStats.zero with
    corrected := if ecc = .correctable then 1 else 0
    uncorrected := if ecc = .uncorrectable then 1 else 0 }
  if d.usable ecc then
    { IndexUnit.unformatted with state := .scanning, copy := d, counter := d.reserved, stats := stats }
  else { IndexUnit.unformatted with stats := stats, error := ecc == .uncorrectable }

/-- A warm reset (R90, R175).
DESIGN CHOICE (log entry 35): the index memory keeps its descriptor where the read finds it uncorrectable, and whether a later read finds it good is that read's
finding. -/
def State.warmReset (s : State) (point : ResetPoint) (ecc : Ecc) : State :=
  let d := s.descAtReset point.made
  s.afterReset .warm (.afterWarm d ecc) { s.mem with desc := d } point.unissued

/-- LINK_RESET: a warm reset (R175). -/
def execLinkReset (point : ResetPoint) (desc : Ecc) (s : State) : Result := .next (s.warmReset point desc)

/-- RESET: a warm reset in any engine state (R170, R175). -/
def execReset (point : ResetPoint) (desc : Ecc) (s : State) : Result := .next (s.warmReset point desc)

/-! ### START (R171, R172) -/

/-- The bytes of the Exchange Area (R148). -/
def areaBytes : Nat := 1064960

/-- The Exchange Base passes check 1 of R171. -/
def baseOk (base : BitVec 64) : Bool := base.toNat % 4096 == 0 && decide (base.toNat + areaBytes ≤ 2 ^ 64)

/-- START: taken in STOPPED with none in progress, else ignored (R170, R171). -/
def execStart (s : State) : Result :=
  let s := s.begun
  if s.ctl.engine = .stopped ∧ s.ctl.starting = false then
    if baseOk s.ctl.base then .next { s with ctl := { s.ctl with starting := true } }
    else .next { s with ctl := { s.ctl with startError := .baseUnaligned } }
  else .next s

/-- A START that fails: the engine stays STOPPED, with the code (R171). -/
def State.failStart (s : State) (e : StartError) : State := { s with ctl := { s.ctl with starting := false, startError := e } }

/-- A slot's device half, whole (R172). -/
def Slot.deviceHalf (c : Slot) : DeviceHalf :=
  { state := c.state, reason := c.reason, marks := c.marks, seen := c.seen, consumed := c.consumed, safe := c.safe, written := c.written,
    final := c.final, cells := mapVector (fun r => (r.done, r.status)) c.cells, stats := c.stats }

/-- The done tags a START supplies: those of the cells whose records hold none (R158).
DESIGN CHOICE (log entry 29): in ascending cell number, since the rule gives no order among them. -/
def State.suppliedTags (s : State) (table : List (List Byte)) : List HostWrite :=
  (List.finRange 32).filterMap fun i =>
    if (s.requests.get i).done.isNone then some (.reqTag i (requestTag (table.getD i.val []))) else none

/-- The request cell records a START completes (R158). -/
def State.completeRecords (s : State) (table : List (List Byte)) : Vector RequestRecord 32 :=
  Vector.ofFn fun i : Fin 32 =>
    let r := s.requests.get i
    if r.done.isNone then { r with done := some (requestTag (table.getD i.val [])) } else r

/-- The interval the sweep countdown is loaded with (R153). -/
def State.interval (s : State) : Nat :=
  if s.slots.toList.any fun c => c.state.isLive || c.state == .aborting then s.header.activeInterval else s.header.quietInterval

/-- A START whose checks have passed completes (R172).
DESIGN CHOICE (log entry 29): the whole Ready Map is written word by word, in ascending word number; the rule gives no order among the words. -/
def State.completeStart (s : State) (h : Header) (table : List (List Byte)) : State :=
  let tags := s.suppliedTags table
  let halves := (List.finRange 1024).map fun i => HostWrite.deviceHalf i (s.slot i).deviceHalf
  let words := (List.range 32).map fun w => HostWrite.readyWord w (readyWord s.notice.ready w)
  let s := { s with
    header := h
    ctl := { s.ctl with starting := false, startError := .none, area := s.ctl.base.toNat }
    requests := s.completeRecords table
    slots := mapVector (fun c : Slot => { c with shown := c.consumed }) s.slots }
  let s := s.postAlways (tags ++ halves ++ words)
  let s := if s.index.fill = .declared then s.joinLevel h.fillLevel else s
  let s := if s.index.error then s.joinLevel h.errorLevel else s
  let s := { s with
    time := { s.time with running := true, prescaler := h.prescalerReload, countdown := s.interval }
    ctl := { s.ctl with engine := .running } }
  s.testDue

/-- START_COMPLETE: the checks on what was read, in their order, and the completion (R171, R172). -/
def execStartComplete (header : List Byte) (table : List (List Byte)) (s : State) : Result :=
  let s := s.begun
  if s.ctl.starting = false then .fault .noStart
  else if header.length ≠ 4096 then .fault .readLength
  else if headerMagicOk header = false then .next (s.failStart .headerMagic)
  else if headerRangeOk (readHeader header) = false then .next (s.failStart .headerRange)
  else if table.length = 32 ∧ table.all (fun h => h.length == 96) then .next (s.issued (s.completeStart (readHeader header) table))
  else .fault .readLength

/-! ### QUIESCE and the passage to STOPPED (R170, R173) -/

/-- QUIESCE: RUNNING becomes QUIESCING; in any other state it is ignored (R170, R173). -/
def execQuiesce (s : State) : Result :=
  let s := s.settled
  if s.ctl.engine = .running then .next { s with ctl := { s.ctl with engine := .quiescing } } else .next s

/-- The countdown has reached 0 at a tick and its sweep has not started: only then does it stand at 0 with no sweep in flight (R153; log entry 8). -/
def State.sweepDue (s : State) : Bool :=
  s.time.running && s.time.countdown == 0 && s.sweep.flight.isNone && s.mayWrite

/-- All of R173 holds: the engine may enter STOPPED.
DEDUCED (log entry 24): the waiters whose removal an abort has asked of the Pool have left their lists too, since in STOPPED no abort reaches the Pool and each list
keeps its contents (R101, R114). -/
def State.drained (s : State) : Bool :=
  s.sweep.flight.isNone && !s.sweepDue &&
  (s.lanes.toList.all fun l => l.turn.isNone && l.read.isNone) &&
  s.lookups.isEmpty && s.index.firming.isEmpty && s.index.withdrawal.isEmpty && s.index.requests.isEmpty &&
  (s.index.inflight.all fun o => match o.kind with
    | .scan _ => true
    | .lookup _ | .firm _ | .withdraw _ | .seed _ | .retire _ => false) &&
  s.removals.isEmpty && s.index.format.isNone && s.index.writes.isEmpty &&
  (s.requests.toList.all fun r => r.inflight.isNone) &&
  (s.slots.toList.all fun c => c.emittable.isNone)

/-- ENTER_STOPPED (R173): the Timebase stops and the remembered mark is cleared.
DESIGN CHOICE (log entry 34): the passage waits for no sweep to end after the QUIESCE, so the Engine Record may still show RUNNING. -/
def execEnterStopped (s : State) : Result :=
  let s := s.settled
  if s.ctl.engine = .quiescing ∧ s.drained then
    .next { s with
      ctl := { s.ctl with engine := .stopped }
      time := { s.time with running := false }
      sweep := { s.sweep with remembered := false } }
  else .fault .notDrained

/-! ### Register writes (R154, R160, R161, R167) -/

/-- The Exchange Base with the bytes from `first` on replaced (R161). -/
def replaceBytes (base : BitVec 64) (first : Nat) (data : List Byte) : BitVec 64 :=
  BitVec.ofNat 64 (leNat ((List.range 8).map fun i =>
    if first ≤ i ∧ i < first + data.length then data.getD (i - first) 0 else BitVec.ofNat 8 (base.toNat / 2 ^ (8 * i))))

/-- EXCHANGE_BASE: taken in STOPPED with no START in progress, else ignored (R161). -/
def execExchangeBase (first : Fin 8) (data : List Byte) (s : State) : Result :=
  let s := s.begun
  if s.ctl.engine = .stopped ∧ s.ctl.starting = false then
    .next { s with ctl := { s.ctl with base := replaceBytes s.ctl.base first.val data } }
  else .next s

/-- A sweep starts: it reads the Attention Map and takes the flagged slots in ascending order (R154, R155). -/
def State.startSweep (s : State) (map : List Byte) : State :=
  { s with sweep := { s.sweep with flight := some (.slots (flaggedSlots map)) } }

/-- The remembered Sweep Now mark is set (R154). -/
def State.remember (s : State) : State := { s with sweep := { s.sweep with remembered := true } }

/-- SWEEP_NOW (R154): ignored in STOPPED and FAULTED; a sweep starts, or the write is remembered while one is in flight.
A sweep that a tick has made due is taken as started first. -/
def execSweepNow (_value : BitVec 32) (map : List Byte) (s : State) : Result :=
  let s := s.settled
  if s.mayWrite = false then .next s
  else if s.sweep.flight.isSome then .next s.remember
  else if map.length ≠ 128 then .fault .readLength
  else if s.sweepDue then .next (s.startSweep map).remember
  else .next (s.startSweep map)

/-- SERVING_LEVEL (R161, R167): a value above 7 is held as 7, and the test of R166 is made. -/
def execServingLevel (value : BitVec 32) (s : State) : Result :=
  let s := s.settled
  .next (s.issued { s with notice := { s.notice with serving := min value.toNat 7 } }.testDue)

/-- REGISTER_WRITE_IGNORED (R160, R161). -/
def execRegisterWriteIgnored (offset : Nat) (value : BitVec 64) (s : State) : Result :=
  if ignoredWrite offset value then .next s.begun else .fault .writeNotIgnored

end Sys2Proof.Machine
end

