-- ==== Sys2Proof/Machine/Index.lean ====
section
/-! DEFINITION. The Index Unit and the Provisional Pool: the index memory, chunk numbers and descriptor writes, error checks, and the operations LOOKUP_INSERT, FIRM, WITHDRAW,
SEED, RETIRE and SCAN from their beginning at a bucket to their completion (chapters 4, 5 and 7).

An operation runs as one event until it completes or until it needs a chunk number that must first be reserved; there it halts, holding its bucket (R70, R111), and
the completion of the reservation write lets it go on. -/

namespace Sys2Proof.Machine

/-! ### Buckets and ways (R10, R63) -/

/-- The bucket index of a digest for 2^k buckets: its first k bits, bit 7 of byte 0 the most significant (R10). -/
def bucketOf (k : Nat) (d : Digest) : Nat := (d.toList.foldl (fun n b => 256 * n + b.toNat) 0) / 2 ^ (256 - k)

/-- The number under which the index memory lists a way. -/
def wayKey (bucket : Nat) (way : WayNo) : Nat := 16 * bucket + way.val

/-- The entry of a way; none if the way is EMPTY. -/
def State.entry (s : State) (bucket : Nat) (way : WayNo) : Option Entry := tableGet s.mem.ways (wayKey bucket way)

/-- An entry is written whole (R64). -/
def State.writeEntry (s : State) (bucket : Nat) (way : WayNo) (e : Entry) : State :=
  { s with mem := { s.mem with ways := tablePut s.mem.ways (wayKey bucket way) e } }

/-- A way is written EMPTY. -/
def State.emptyWay (s : State) (bucket : Nat) (way : WayNo) : State :=
  { s with mem := { s.mem with ways := tableErase s.mem.ways (wayKey bucket way) } }

/-- The way of a bucket that holds a digest, with its entry; by R65 at most one does. -/
def State.findDigest (s : State) (bucket : Nat) (d : Digest) : Option (WayNo × Entry) :=
  (List.finRange 16).findSome? fun w => match s.entry bucket w with
    | some e => if e.digest = d then some (w, e) else none
    | none => none

/-- The lowest-numbered EMPTY way of a bucket (R63). -/
def State.emptyWayOf (s : State) (bucket : Nat) : Option WayNo :=
  (List.finRange 16).find? fun w => (s.entry bucket w).isNone

/-- The record, not LOST, that names a location; by R93 at most one does. -/
def State.recordAt (s : State) (bucket : Nat) (way : WayNo) : Option (Nat × PoolRecord) :=
  s.pool.find? fun p => p.2.bucket == bucket && p.2.way == way && p.2.disp != .lost

/-- Occupancy changes (R81). -/
def State.addOccupancy (s : State) : State := { s with index := { s.index with occupancy := s.index.occupancy + 1 } }

/-- Occupancy falls by one (R81). -/
def State.dropOccupancy (s : State) : State := { s with index := { s.index with occupancy := s.index.occupancy - 1 } }

/-! ### Descriptor writes and chunk numbers (R77, R78, R79) -/

/-- A descriptor write is issued behind those issued before it (R79). -/
def State.issueWrite (s : State) (d : Descriptor) (use : WriteFor) : State :=
  { s with index := { s.index with writes := s.index.writes ++ [{ desc := d, use := use }] } }

/-- The reservation write that is issued and not complete, if any (R78). -/
def State.reservation (s : State) : Option DescWrite := s.index.writes.find? fun w => w.use == .reserve

/-- Reserved Through after a reservation: 4,096 more, held at 2^40 (R78). -/
def raisedReserve (reserved : Nat) : Nat := min (reserved + 4096) (2 ^ 40)

/-- What an allocation finds. -/
inductive Alloc where
  /-- A chunk number (case 1 of R77). -/
  | number (n : Nat)
  /-- It waits for a reservation (case 2 of R77). -/
  | wait
  /-- The numbers are exhausted (case 3 of R77). -/
  | exhausted
  deriving DecidableEq, Repr

/-- A chunk number is allocated, or a reservation write is issued unless one is outstanding, or the numbers are exhausted (R77, R78). -/
def State.allocate (s : State) : Alloc × State :=
  let x := s.index
  if x.counter < x.copy.reserved then (.number x.counter, { s with index := { x with counter := x.counter + 1 } })
  else if x.counter < 2 ^ 40 then
    (.wait, if s.reservation.isSome then s
      else s.issueWrite { x.copy with reserved := raisedReserve x.copy.reserved } .reserve)
  else (.exhausted, s)

/-! ### The loss of a PROVISIONAL entry (R84, R113) -/

/-- A waiter of a lost or withdrawn entry meets the exhausted numbers: its stream is aborted and it is discarded (R111). -/
def State.waiterExhausted (s : State) (r : Nat) (w : Waiter) : State :=
  (s.enterAborting w.slot .numbers).discardWaiter r w

/-- A waiter of a lost entry, with what the allocation for it found (R111, R113). -/
def State.lossGive (s : State) (r : Nat) (w : Waiter) (a : Alloc) : State :=
  match a with
  | .number n =>
    if (s.slot w.slot).state.isOpen then s.resolveWaiter r w .unindexed n .bucketFull else s.discardWaiter r w
  | .exhausted => s.waiterExhausted r w
  | .wait => s

/-- The waiters of a lost entry, in list order, each with a fresh number; it stops at one whose number must be reserved first. -/
def State.lossWaiters (s : State) (r : Nat) : List Waiter → State × Option Waiter
  | [] => (s, none)
  | w :: ws =>
    match s.allocate with
    | (.wait, s) => (s, some w)
    | (a, s) => (s.lossGive r w a).lossWaiters r ws

/-- The waiters of a record that stand on its list. -/
def State.waitersOf (s : State) (r : Nat) : List Waiter :=
  match s.record r with
  | some p => p.waiters
  | none => []

/-- The waiters of ABORTING streams are discarded (step 1 of R107). -/
def State.discardAborting (s : State) (r : Nat) : State :=
  (s.waitersOf r).foldl (fun s w => if (s.slot w.slot).state = .aborting then s.discardWaiter r w else s) s

/-- The record of a destroyed entry: a LIVE one leaves its owner's list, and any becomes LOST (R113).
A LIVE one is freed when its waiters are dealt with, and is LOST till then (log entry 9). -/
def State.loseRecord (s : State) (r : Nat) (p : PoolRecord) : State :=
  let s := if p.disp = .live then
      s.editSlot p.owner fun c => c.dropProv r
    else s
  s.setRecord r { p with disp := .lost }

/-- The waiters of a lost record have been dealt with: a record that was LIVE becomes free. -/
def State.endLoss (s : State) (r : Nat) (live : Bool) : State := if live then s.freeRecord r else s

/-! ### The check of a bucket's ways (R83, R84) -/

/-- An uncorrectable entry is written EMPTY, counted and reported, and occupancy falls outside SCANNING (steps 1 to 3 of R84). -/
def State.destroyWay (s : State) (bucket : Nat) (way : WayNo) : State :=
  let had := (s.entry bucket way).isSome
  let s := (s.emptyWay bucket way).editStats fun t => { t with uncorrected := sat32 (t.uncorrected + 1) }
  let s := s.setError
  if had ∧ s.index.state ≠ .scanning then s.dropOccupancy else s

/-- The ways of a bucket are checked in ascending order.
DESIGN CHOICE (log entry 30): where several are wrong, the lower way is dealt with whole, its waiters included, before the next is checked.
A correctable one is counted (R83).
An uncorrectable one is destroyed, and if it was PROVISIONAL its record is lost and its waiters are dealt with, which may halt the operation (R84, R113). -/
def State.checkWays (s : State) (bucket : Nat) : List (WayNo × Ecc) → State × Option Halt
  | [] => (s, none)
  | (w, e) :: rest =>
    match e with
    | .clean => s.checkWays bucket rest
    | .correctable => (s.editStats fun t => { t with corrected := sat32 (t.corrected + 1) }).checkWays bucket rest
    | .uncorrectable =>
      let found := s.recordAt bucket w
      let provisional : Bool := match s.entry bucket w with
        | some { state := .provisional _ _, .. } => s.index.state != .scanning
        | _ => false
      let s := s.destroyWay bucket w
      match provisional, found with
      | true, some (r, p) =>
        let s := (s.loseRecord r p).discardAborting r
        match s.lossWaiters r (s.waitersOf r) with
        | (s, none) => (s.endLoss r (p.disp == .live)).checkWays bucket rest
        | (s, some v) => (s, some (.loss r (p.disp == .live) v rest))
      | _, _ => s.checkWays bucket rest

/-- What the reads of a bucket's 16 ways find, way by way. -/
def eccList (ecc : Vector Ecc 16) : List (WayNo × Ecc) := (List.finRange 16).map fun w => (w, ecc.get w)

/-! ### LOOKUP_INSERT (R72 to R75, R94, R95, R99) -/

/-- A record for a lookup's stream, granted where one is free and the stream's provisional count is below its limit (R94).
The lowest-numbered free record is granted (log entry 10). -/
def State.grant (s : State) (l : Lookup) (bucket : Nat) (way : WayNo) : Option (Nat × State) :=
  let c := s.slot l.slot
  let r := leastFree s.pool 0
  if r < 16384 ∧ c.provCount < c.cls.provisionalLimit then
    some (r, (s.setRecord r { bucket := bucket, way := way, owner := l.slot, ordinal := l.ordinal, disp := .live, waiters := [] }).editSlot
      l.slot fun c => { c with provCount := c.provCount + 1 })
  else none

/-- A record joins a provisional list in ordinal position (R95, R108). -/
def State.joinProvList (s : State) (r : Nat) (ordinal : Nat) : List Nat → List Nat
  | [] => [r]
  | q :: qs =>
    match s.record q with
    | some p => if p.ordinal < ordinal then q :: s.joinProvList r ordinal qs else r :: q :: qs
    | none => q :: s.joinProvList r ordinal qs

/-- What a lookup comes out with (R73, R74). -/
inductive LookupOutcome where
  | dup (number : Nat)
  | conflict (number : Nat)
  | unindexed (number : Nat) (cause : Cause)
  | new (number : Nat) (record : Nat)
  | held (record : Nat)
  | numbers
  deriving DecidableEq, Repr

/-- The statistics an outcome is counted in (R76). -/
def LookupOutcome.count (o : LookupOutcome) (t : EngineStats) : EngineStats :=
  let t := { t with lookups := sat48 (t.lookups + 1) }
  match o with
  | .conflict _ => { t with conflicts := sat48 (t.conflicts + 1) }
  | .unindexed _ .bucketFull => { t with bucketFull := sat48 (t.bucketFull + 1) }
  | .unindexed _ .fillYield => { t with fillYields := sat48 (t.fillYields + 1) }
  | .new _ _ => { t with inserts := sat48 (t.inserts + 1) }
  | .dup _ | .unindexed _ .none | .unindexed _ .provisionalLimit | .held _ | .numbers => t

/-- An outcome that resolves the pending chunk is taken by the stream: dropped where it is ABORTING (R75). -/
def State.takeResolved (s : State) (l : Lookup) (v : Verdict) (number : Nat) (cause : Cause) : State :=
  let s := if (s.slot l.slot).state.isOpen then s.resolveChunk l.slot l.ordinal v number cause else s
  s.dropInflight l.slot

/-- A lookup's outcome is taken by its stream and by the Pool (R75, R95, R99). -/
def State.takeOutcome (s : State) (l : Lookup) (o : LookupOutcome) : State :=
  match o with
  | .dup n => s.takeResolved l .dup n .none
  | .conflict n => s.takeResolved l .conflict n .none
  | .unindexed n cause => s.takeResolved l .unindexed n cause
  | .new n r =>
    let s := if (s.slot l.slot).state.isOpen then
        s.editSlot l.slot fun c => { c with provList := s.joinProvList r l.ordinal c.provList }
      else (s.editSlot l.slot fun c => { c with provCount := c.provCount - 1 }).issueWithdraw r
    s.takeResolved l .new n .none
  | .held r =>
    if (s.slot l.slot).state.isOpen then
      let s := s.editRecord r fun p => { p with waiters := p.waiters ++ [{ slot := l.slot, ordinal := l.ordinal }] }
      (s.editSlot l.slot fun c =>
        { c with pending := setCond l.ordinal (.held r) c.pending, stats := { c.stats with holds := sat48 (c.stats.holds + 1) } }).decideState
          l.slot
    else s.dropInflight l.slot
  | .numbers => (s.enterAborting l.slot .numbers).dropInflight l.slot

/-- A lookup completes with an outcome: it is counted and taken.
A CONFLICT sets ERROR here, where it is counted.
DESIGN CHOICE (log entry 31): a lookup whose number must first be reserved sets ERROR when the number is allocated, not when it begins to wait. -/
def State.endLookup (s : State) (l : Lookup) (o : LookupOutcome) : State :=
  let s := s.editStats o.count
  let s := match o with
    | .conflict _ => s.setError
    | .dup _ | .unindexed _ _ | .new _ _ | .held _ | .numbers => s
  s.takeOutcome l o

/-- A lookup that needs a number goes on with what the allocation found (R73, R74, R80). -/
def State.lookupNumber (s : State) (l : Lookup) (bucket : Nat) (use : NumberUse) (a : Alloc) : State :=
  match a with
  | .wait => s
  | .exhausted => s.endLookup l .numbers
  | .number n =>
    match use with
    | .conflict => s.endLookup l (.conflict n)
    | .bucketFull => s.endLookup l (.unindexed n .bucketFull)
    | .fillYield => s.endLookup l (.unindexed n .fillYield)
    | .insert =>
      match s.emptyWayOf bucket with
      | none => s.endLookup l (.unindexed n .bucketFull)
      | some w =>
        match s.grant l bucket w with
        | none => s.endLookup l (.unindexed n .provisionalLimit)
        | some (r, s) =>
          ((s.writeEntry bucket w
            { state := .provisional l.slot l.ordinal, digest := l.digest, number := n, length := l.length, check := l.check,
              lastHit := s.index.copy.epoch }).addOccupancy).endLookup l (.new n r)

/-- What a lookup that has read its bucket comes to: an outcome, with the way whose last-hit epoch it replaces, or the need of a number (R73, R74). -/
inductive LookupNeed where
  | outcome (o : LookupOutcome) (way : WayNo) (e : Entry)
  | number (use : NumberUse)
  deriving DecidableEq, Repr

/-- A lookup is decided by the contents of its bucket, its owner's record, the Index Policy and the fill watch (R73, R74). -/
def State.decideLookup (s : State) (l : Lookup) (bucket : Nat) : LookupNeed :=
  match s.findDigest bucket l.digest with
  | some (w, e) =>
    if e.length ≠ l.length ∨ e.check ≠ l.check then .number .conflict
    else match e.state with
      | .firm => .outcome (.dup e.number) w e
      | .provisional owner _ =>
        match s.recordAt bucket w with
        | some (r, p) =>
          if owner = l.slot ∧ p.disp ≠ .withdrawing then .outcome (.dup e.number) w e else .outcome (.held r) w e
        | none => .outcome (.dup e.number) w e
  | none =>
    if (s.emptyWayOf bucket).isNone then .number .bucketFull
    else if (s.slot l.slot).cls.policy = .yield ∧ s.index.fill = .declared then .number .fillYield
    else .number .insert

/-- How far an operation has come when it stops running: complete, or halted (R70, R111). -/
abbrev RunEnd := State × Option Halt

/-- A LOOKUP_INSERT at its bucket, its ways checked (R72 to R74). -/
def State.runLookup (s : State) (l : Lookup) (bucket : Nat) : RunEnd :=
  match s.decideLookup l bucket with
  | .outcome o w e => ((s.writeEntry bucket w { e with lastHit := s.index.copy.epoch }).endLookup l o, none)
  | .number use =>
    match s.allocate with
    | (.wait, s) => (s, some (.number use))
    | (a, s) => (s.lookupNumber l bucket use a, none)

/-! ### FIRM (R103, R105) -/

/-- The end of a FIRM for its owner: the in-flight count falls, and CLOSED or ABORTED may follow (step 3 of R103). -/
def State.endFirm (s : State) (owner : SlotNo) : State := (s.dropInflight owner).tryClose owner

/-- A FIRM at its bucket, its ways checked (R103, R105).
The way of a record that is not LOST holds its entry (R97), so the case of an EMPTY one does not arise. -/
def State.runFirm (s : State) (r : Nat) : State :=
  match s.record r with
  | none => s
  | some p =>
    match p.disp, s.entry p.bucket p.way with
    | .lost, _ => (s.freeRecord r).endFirm p.owner
    | _, none => s
    | _, some e =>
      let s := s.writeEntry p.bucket p.way { e with state := .firm }
      let s := s.editStats fun t => { t with firms := sat48 (t.firms + 1) }
      let s := p.waiters.foldl (fun s w => s.resolveWaiter r w .dup e.number .none) s
      (s.freeRecord r).endFirm p.owner

/-! ### WITHDRAW (R107 to R111) -/

/-- The waiter becomes the new owner of the entry under a fresh number; its slot's later waiters are resolved as DUP (R108, R109). -/
def State.takeover (s : State) (r : Nat) (p : PoolRecord) (e : Entry) (w : Waiter) (n : Nat) : State :=
  let s := s.writeEntry p.bucket p.way
    { e with state := .provisional w.slot w.ordinal, number := n, lastHit := s.index.copy.epoch }
  let s := s.editRecord r fun q => { q with owner := w.slot, ordinal := w.ordinal, disp := .live }
  let s := s.editSlot w.slot fun c => { c with provList := s.joinProvList r w.ordinal c.provList, provCount := c.provCount + 1 }
  let s := s.resolveWaiter r w .new n .none
  let s := s.editStats fun t => { t with takeovers := sat48 (t.takeovers + 1) }
  ((s.waitersOf r).filter fun v => v.slot == w.slot).foldl (fun s v => s.resolveWaiter r v .dup n .none) s

/-- A waiter is examined with what the allocation for it found: whether it becomes the owner, and the state (R108, R109, R111).
The record of a walk is in use and its way holds its entry (R97), so the two cases without them do not arise. -/
def State.examine (s : State) (r : Nat) (w : Waiter) (a : Alloc) : Bool × State :=
  match a with
  | .wait => (false, s)
  | .exhausted => (false, s.waiterExhausted r w)
  | .number n =>
    let c := s.slot w.slot
    if c.state.isOpen = false then (false, s.discardWaiter r w)
    else if c.provCount < c.cls.provisionalLimit then
      match s.record r with
      | none => (false, s)
      | some p =>
        match s.entry p.bucket p.way with
        | none => (false, s.resolveWaiter r w .unindexed n .provisionalLimit)
        | some e => (true, s.takeover r p e w n)
    else (false, s.resolveWaiter r w .unindexed n .provisionalLimit)

/-- How a walk ends. -/
inductive WalkEnd where
  /-- A new owner was found. -/
  | owner
  /-- The end of the list was reached (R110). -/
  | noOwner
  /-- It halts at a waiter whose number must be reserved (R111). -/
  | halted (w : Waiter)
  deriving DecidableEq, Repr

/-- The walk along a waiter list (R107 to R111). -/
def State.walk (s : State) (r : Nat) : List Waiter → WalkEnd × State
  | [] => (.noOwner, s)
  | w :: ws =>
    match s.allocate with
    | (.wait, s) => (.halted w, s)
    | (a, s) =>
      match s.examine r w a with
      | (true, s) => (.owner, s)
      | (false, s) => s.walk r ws

/-- A WITHDRAW is counted where its record was not LOST (R107). -/
def State.countWithdrawal (s : State) : State := s.editStats fun t => { t with withdrawals := sat48 (t.withdrawals + 1) }

/-- No new owner: the way is written EMPTY, occupancy falls and the record becomes free (R110). -/
def State.endUnowned (s : State) (r : Nat) : State :=
  match s.record r with
  | none => s
  | some p => ((s.emptyWay p.bucket p.way).dropOccupancy).freeRecord r

/-- A walk that has ended, or halted. -/
def State.endWalk (r : Nat) : WalkEnd × State → RunEnd
  | (.owner, s) => (s.countWithdrawal, none)
  | (.noOwner, s) => ((s.endUnowned r).countWithdrawal, none)
  | (.halted w, s) => (s, some (.walk r w))

/-- A WITHDRAW at its bucket, its ways checked (R107).
The way of a record that is not LOST holds its entry (R97), so the case of an EMPTY one does not arise. -/
def State.runWithdraw (s : State) (r : Nat) : RunEnd :=
  match s.record r with
  | none => (s, none)
  | some p =>
    if p.disp = .lost then (s.freeRecord r, none)
    else if (s.entry p.bucket p.way).isNone then (s, none)
    else
      let s := s.discardAborting r
      State.endWalk r (s.walk r (s.waitersOf r))

/-! ### SEED, RETIRE and SCAN (R91, R139, R141) -/

/-- A SEED at its bucket, its ways checked (R139).
The conditions that the check has changed are handed on before the answer (R163).
DESIGN CHOICE (log entry 32): a PROVISIONAL entry of the digest gives BUSY whatever its length and check word, by the first row of R139 that applies and cases 2
and 3 of R140; the last sentence of R140's case 1 would have CONFLICT where they differ. -/
def State.runSeed (s : State) (o : SeedOp) (bucket : Nat) : State :=
  let s := s.refreshAll
  match s.findDigest bucket o.digest with
  | some (w, e) =>
    match e.state with
    | .provisional _ _ => s.answer o.cell .busy none
    | .firm =>
      if e.number = o.number ∧ e.length = o.length ∧ e.check = o.check then
        (s.writeEntry bucket w { e with lastHit := s.index.copy.epoch }).answer o.cell .existing none
      else s.answer o.cell .conflict (some (.seedConflict e.number e.length e.check))
  | none =>
    match s.emptyWayOf bucket with
    | none => s.answer o.cell .full none
    | some w =>
      let s := (s.writeEntry bucket w
        { state := .firm, digest := o.digest, number := o.number, length := o.length, check := o.check, lastHit := s.index.copy.epoch }).addOccupancy
      (s.editStats fun t => { t with inserts := sat48 (t.inserts + 1) }).answer o.cell .done none

/-- A RETIRE at its bucket, its ways checked (R141).
The conditions that the check has changed are handed on before the answer (R163). -/
def State.runRetire (s : State) (o : RetireOp) (bucket : Nat) : State :=
  let s := s.refreshAll
  match s.findDigest bucket o.digest with
  | none => s.answer o.cell .absent none
  | some (w, e) =>
    match e.state with
    | .provisional _ _ => s.answer o.cell .busy none
    | .firm =>
      if e.number ≠ o.number then s.answer o.cell .conflict (some (.retireConflict e.number))
      else if o.fence.toNat ≤ e.lastHit.toNat then s.answer o.cell .inUse (some (.epoch e.lastHit))
      else ((s.emptyWay bucket w).dropOccupancy).answer o.cell .done none

/-- A SCAN of one way: a PROVISIONAL entry is written EMPTY and a FIRM one is counted (R91). -/
def State.scanWay (s : State) (bucket : Nat) (w : WayNo) : State :=
  match s.entry bucket w with
  | none => s
  | some e => match e.state with
    | .provisional _ _ => s.emptyWay bucket w
    | .firm => s.addOccupancy

/-- A SCAN at its bucket, its ways checked: the Scan Position rises, and the last of the 2^k SCANs makes the index READY (R91, R160; log entry 11). -/
def State.runScan (s : State) (bucket : Nat) : State :=
  let s := (List.finRange 16).foldl (fun s w => s.scanWay bucket w) s
  let x := { s.index with scanPosition := s.index.scanPosition + 1 }
  { s with index := if x.state = .scanning ∧ x.scanPosition = 2 ^ x.copy.k then { x with state := .ready, fill := .normal, fillCount := 0 } else x }

/-! ### Running an operation -/

/-- The key of an operation. -/
def OpKind.key : OpKind → OpKey
  | .lookup l => .lookup l.slot l.ordinal
  | .firm r => .firm r
  | .withdraw r => .withdraw r
  | .seed o => .seed o.cell
  | .retire o => .retire o.cell
  | .scan b => .scan b

/-- An operation carried out at its bucket once the ways are checked. -/
def State.runBody (s : State) (op : Op) : RunEnd :=
  match op.kind with
  | .lookup l => s.runLookup l op.bucket
  | .firm r => (s.runFirm r, none)
  | .withdraw r => s.runWithdraw r
  | .seed o => (s.runSeed o op.bucket, none)
  | .retire o => (s.runRetire o op.bucket, none)
  | .scan b => (s.runScan b, none)

/-- An operation from the check of its ways on. -/
def State.runFrom (s : State) (op : Op) (ways : List (WayNo × Ecc)) : RunEnd :=
  match s.checkWays op.bucket ways with
  | (s, none) => s.runBody op
  | (s, some h) => (s, some h)

/-- The operation in flight of a key halts. -/
def haltOp (key : OpKey) (h : Halt) : List Op → List Op
  | [] => []
  | o :: os => if o.kind.key = key then { o with halt := some h } :: os else o :: haltOp key h os

/-- An operation leaves the operations in flight, or halts and waits for a chunk number (R68, R77, R111). -/
def State.settleOp (key : OpKey) : RunEnd → State
  | (s, none) => { s with index := { s.index with inflight := s.index.inflight.eraseP fun o => o.kind.key == key } }
  | (s, some h) =>
    { s with index := { s.index with inflight := haltOp key h s.index.inflight, waiting := s.index.waiting ++ [key] } }

/-- The operation in flight of a key, if it may begin: it has not begun, and no operation accepted before it on its bucket is still in flight (R70). -/
def readyOp (key : OpKey) : List Op → Option Op
  | [] => none
  | o :: os =>
    if o.kind.key = key then (if o.halt.isNone then some o else none)
    else match readyOp key os with
      | some p => if p.bucket = o.bucket then none else some p
      | none => none

/-- An operation begins at its bucket and runs to its completion or to a halt, and the conditions it has changed are handed on (R132, R163). -/
def State.carryOut (s : State) (op : Op) (ecc : Vector Ecc 16) : State :=
  (State.settleOp op.kind.key (s.runFrom op (eccList ecc))).refreshAll

/-! ### Going on after a reservation (R78, R111) -/

/-- The waiter a halted walk or loss stands at is given its number, if it still stands on the list; a number for one that has left names no chunk (log entry 12). -/
def State.stillWaits (s : State) (r : Nat) (w : Waiter) : Bool := (s.waitersOf r).contains w

/-- A halted operation goes on with what its allocation found. -/
def State.goOn (s : State) (op : Op) (a : Alloc) : RunEnd :=
  match op.halt with
  | none => (s, none)
  | some h =>
  if a = .wait then (s, some h) else
  match h with
  | .number use =>
    match op.kind with
    | .lookup l => (s.lookupNumber l op.bucket use a, none)
    | .firm _ | .withdraw _ | .seed _ | .retire _ | .scan _ => (s, none)
  | .walk r w =>
    if s.stillWaits r w then
      match s.examine r w a with
      | (true, s) => State.endWalk r (.owner, s)
      | (false, s) => State.endWalk r (s.walk r (s.waitersOf r))
    else State.endWalk r (s.walk r (s.waitersOf r))
  | .loss r live w rest =>
    let s := if s.stillWaits r w then s.lossGive r w a else s
    match s.lossWaiters r (s.waitersOf r) with
    | (s, none) => (s.endLoss r live).runFrom op rest
    | (s, some v) => (s, some (.loss r live v rest))

/-- The allocations that waited are made, in the order in which they reached the Chunk Counter (R78). -/
def State.allocateAll (s : State) : List OpKey → List (OpKey × Alloc) × State
  | [] => ([], s)
  | k :: ks =>
    let (a, s) := s.allocate
    let (rest, s) := s.allocateAll ks
    ((k, a) :: rest, s)

/-- One halted operation goes on. -/
def State.resume (s : State) (k : OpKey) (a : Alloc) : State :=
  match s.index.inflight.find? fun o => o.kind.key == k with
  | none => s
  | some op => State.settleOp k (s.goOn op a)

/-- Every halted operation goes on, each with its number, in the same order (R78; log entry 13), and the conditions they have changed are handed on.
DESIGN CHOICE (log entry 37): they are one event, so the conditions are handed on once after all of them, and a due message is tested for once at its end. -/
def State.resumeAll (s : State) : State :=
  let ks := s.index.waiting
  let (given, s) := { s with index := { s.index with waiting := [] } }.allocateAll ks
  (given.foldl (fun s p => s.resume p.1 p.2) s).refreshAll

end Sys2Proof.Machine
end

