-- ==== Sys2Proof/Machine/Requests.lean ====
section
/-! DEFINITION. The Request Dispatcher's requests as they are carried out, each in its turn at the sweep that took it (R13, R33 to R39, R44, R67, R86, R137, R138, R141, R143,
R146, R156, R157).

A request is one event with its answer: the test for a due message is made once, after the last of its writes (R166; log entry 25). -/

namespace Sys2Proof.Machine

/-! ### The next request of the sweep (R156) -/

/-- The next request taken and not carried out, where it was taken from this cell, and the sweep without it (R156; log entry 16). -/
def State.nextRequest (s : State) (cell : ReqNo) : Option (Request × State) :=
  match s.sweep.flight with
  | some (.requests (t :: ts)) =>
    if t.cell = cell then some (t.request, { s with sweep := { s.sweep with flight := some (.requests ts) } }) else none
  | some (.requests []) | some (.slots _) | none => none

/-- The answer that the index state gives to an OPEN, SEED, RETIRE or SET_EPOCH before any other check (R67). -/
def IndexState.refusal : IndexState → Option Status
  | .unformatted => some .unformatted
  | .formatting | .scanning => some .busy
  | .ready => none

/-! ### FORMAT (R86, R87) -/

/-- Every slot is FREE (check 3 of R86). -/
def State.allFree (s : State) : Bool := s.slots.toList.all fun c => c.state == .free

/-- The checks of a FORMAT, in their order (R86). -/
def State.checkFormat (s : State) (k counterStart : Nat) : Option Status :=
  if s.index.state = .formatting ∨ s.index.state = .scanning then some .busy
  else if k < 12 ∨ 24 < k ∨ 2 ^ 40 ≤ counterStart then some .range
  else if s.allFree then none else some .state

/-- A FORMAT is accepted: the index becomes FORMATTING, the fill watch NORMAL with count 0, the copy's valid marker is cleared and the write of step 1 is issued
(R82, R86, step 1 of R87). -/
def State.acceptFormat (s : State) (cell : ReqNo) (k counterStart : Nat) (epochStart : BitVec 32) : State :=
  let s := s.setFill .normal 0
  let s := { s with index := { s.index with
    state := .formatting
    copy := { s.index.copy with valid := false }
    format := some { cell := cell, k := k, counterStart := counterStart, epochStart := epochStart, cleared := false } } }
  s.issueWrite s.index.copy .formatStart

/-- FORMAT (R86): refused at once, or accepted and answered at its completion. -/
def execFormat (cell : ReqNo) (s : State) : Result :=
  let s := s.settled
  match s.nextRequest cell with
  | some (.format k counterStart epochStart, t) =>
    match s.checkFormat k counterStart with
    | some status => .next (s.endEvent (t.answer cell status none))
    | none => .next (t.acceptFormat cell k counterStart epochStart)
  | _ => .fault .notNextRequest

/-! ### SET_CLASS (R13) -/

/-- The class a SET_CLASS gives and its number, where every constraint of R13 holds. -/
def ClassRequest.checked (c : ClassRequest) : Option (Fin 8 × ChunkClass) :=
  match policyOf c.policy with
  | none => none
  | some policy =>
    if h : c.cls < 8 then
      if (256 ≤ c.min ∧ c.min ≤ 32768 ∧ c.max ≤ 65536) ∧ (c.min ≤ c.normal ∧ c.normal ≤ c.max) ∧ (c.sstrict ≤ 24 ∧ c.sloose ≤ c.sstrict) ∧
          (1 ≤ c.provisionalLimit ∧ c.provisionalLimit ≤ 512) ∧ (1 ≤ c.recipeThreshold ∧ c.recipeThreshold ≤ 65536) ∧
          (c.recipeLevel ≤ 7 ∧ c.watchLevel ≤ 7 ∧ c.stateLevel ≤ 7) then
        some (⟨c.cls, h⟩,
          { min := c.min, normal := c.normal, max := c.max, sstrict := c.sstrict, sloose := c.sloose, policy := policy,
            provisionalLimit := c.provisionalLimit, idleLimit := c.idleLimit, recipeThreshold := c.recipeThreshold,
            recipeLevel := c.recipeLevel, watchLevel := c.watchLevel, stateLevel := c.stateLevel })
      else none
    else none

/-- SET_CLASS (R13): RANGE, or the class replaced as a whole and valid. -/
def execSetClass (cell : ReqNo) (s : State) : Result :=
  let s := s.settled
  match s.nextRequest cell with
  | some (.setClass c, t) =>
    match c.checked with
    | some (n, cls) => .next (s.endEvent (({ t with classes := t.classes.set n (some cls) } : State).answer cell .done none))
    | none => .next (s.endEvent (t.answer cell .range none))
  | _ => .fault .notNextRequest

/-! ### OPEN (R34, R35) -/

/-- The class a class operand names, where it is a number from 0 to 7 and the class is valid (R14). -/
def State.classNamed (s : State) (n : Nat) : Option ChunkClass := if h : n < 8 then s.classes.get ⟨n, h⟩ else none

/-- The recipe area of an OPEN passes check 4 of R34. -/
def areaOk (addr size : Nat) : Bool := decide (64 ≤ size ∧ size ≤ 65536) && addr % 64 == 0 && decide (addr + 64 * size ≤ 2 ^ 64)

/-- The checks of an OPEN, in their order: the slot and class it opens, or the status that refuses it (R33, R34, R67; log entry 17). -/
def State.checkOpen (s : State) (slot cls addr size : Nat) : Except Status (SlotNo × ChunkClass) :=
  match s.index.state.refusal with
  | some status => .error status
  | none =>
    match slotNamed slot with
    | none => .error .range
    | some i =>
      if (s.slot i).state ≠ .free then .error .state
      else match s.classNamed cls with
        | none => .error .range
        | some c => if areaOk addr size then .ok (i, c) else .error .range

/-- The cell records of a slot at its OPEN: each done tag equal to the post tag read (R35, R47). -/
def cellsAtOpen (half : List Byte) : Vector CellRecord 16 :=
  Vector.ofFn fun n : Fin 16 => { done := (readHostCell half n).tag, status := .done, queued := none }

/-- The context of a slot at its OPEN: the last column of R24 (R1, R14, R35). -/
def Slot.opened (cls : ChunkClass) (start addr size : Nat) (half : List Byte) : Slot :=
  { state := .active, reason := none, cls := cls, start := start, consumed := start, final := none, safe := start, watch := 0,
    chunker := .fresh, feed := [], pending := [], provList := [], provCount := 0, areaAddr := addr, areaSize := size,
    written := 0, taken := 0, stored := 0, seen := (readHostHalf half).post, idle := cls.idleLimit, inflight := 0, marks := .off,
    stats := .zero, extents := [], cells := cellsAtOpen half, shown := start }

/-- The writes of an OPEN to the device half, in the order of R35.
DESIGN CHOICE (log entry 29): its step 1 takes the cells in ascending number, each with its status and then its tag; the rule gives no order among the cells. -/
def openWrites (i : SlotNo) (c : Slot) : List HostWrite :=
  ((List.finRange 16).flatMap fun n => [HostWrite.cellStatus i n .done, HostWrite.cellTag i n (c.cells.get n).done]) ++
    [.slotSeen i c.seen, .slotConsumed i c.consumed, .slotSafe i c.safe, .slotWritten i 0, .slotFinal i none, .slotMarks i .off,
     .slotStats i .zero, .slotState i .active]

/-- An OPEN whose checks have passed and whose host half has been read (R35). -/
def State.openSlot (s : State) (i : SlotNo) (c : Slot) : State := (s.setSlot i c).post (openWrites i c)

/-- OPEN (R34, R35). -/
def execOpenStream (cell : ReqNo) (half : List Byte) (s : State) : Result :=
  let s := s.settled
  match s.nextRequest cell with
  | some (.openStream slot cls start addr size, t) =>
    match s.checkOpen slot cls addr size with
    | .error status => .next (s.endEvent (t.answer cell status none))
    | .ok (i, c) =>
      if half.length = 640 then .next (s.endEvent ((t.openSlot i (.opened c start addr size half)).answer cell .done none))
      else .fault .readLength
  | _ => .fault .notNextRequest

/-! ### CLOSE (R36, R37) -/

/-- The checks of a CLOSE, in their order (R36). -/
def Slot.checkClose (c : Slot) (final : Nat) : Option Status :=
  if c.state.isOpen = false then some .state
  else match c.final with
    | some f => some (if f = final then .existing else .conflict)
    | none =>
      if final < c.consumed then some .range
      else if c.feed.any fun g => decide (final < g.offset + g.length) then some .range
      else none

/-- A CLOSE that passes its checks: the Final Offset is recorded and written, and the stream goes on by the cases of R37. -/
def State.closeStream (s : State) (i : SlotNo) (final : Nat) : State :=
  let s := (s.editSlot i fun c => { c with final := some final }).post [.slotFinal i (some final)]
  (((s.markFinished i).trySettle i).refresh i).joinRun i

/-- CLOSE (R36, R37). -/
def execClose (cell : ReqNo) (s : State) : Result :=
  let s := s.settled
  match s.nextRequest cell with
  | some (.close slot final, t) =>
    match slotNamed slot with
    | none => .next (s.endEvent (t.answer cell .range none))
    | some i =>
      match (s.slot i).checkClose final with
      | some status => .next (s.endEvent (t.answer cell status none))
      | none => .next (s.endEvent ((t.closeStream i final).answer cell .done none))
  | _ => .fault .notNextRequest

/-! ### ABORT and RELEASE (R38, R39) -/

/-- ABORT (R38). -/
def execAbort (cell : ReqNo) (s : State) : Result :=
  let s := s.settled
  match s.nextRequest cell with
  | some (.abort slot, t) =>
    match slotNamed slot with
    | none => .next (s.endEvent (t.answer cell .range none))
    | some i =>
      if (s.slot i).state.isLive then .next (s.endEvent (((t.enterAborting i .requested).refresh i).answer cell .done none))
      else .next (s.endEvent (t.answer cell .state none))
  | _ => .fault .notNextRequest

/-- The context of a slot at an accepted RELEASE: its counters and statistics are kept (R39), its Extent List is emptied (R128). -/
def Slot.released (c : Slot) : Slot := { c with state := .free, reason := none, final := none, extents := [] }

/-- An accepted RELEASE: the device half shows the absences and then the State, and the condition set becomes all false (R39, R46, R163).
DESIGN CHOICE (log entry 29): the two absences are written before the Consumed Offset, the Abort Reason first; R46 puts all of them before the State and gives no
order among them. -/
def State.releaseSlot (s : State) (i : SlotNo) : State :=
  let s := (s.editSlot i Slot.released).post [.slotReason i none, .slotFinal i none]
  ((s.writeConsumed i).post [.slotState i .free]).writeMarks i .off

/-- RELEASE (R39). -/
def execRelease (cell : ReqNo) (s : State) : Result :=
  let s := s.settled
  match s.nextRequest cell with
  | some (.release slot, t) =>
    match slotNamed slot with
    | none => .next (s.endEvent (t.answer cell .range none))
    | some i =>
      match (s.slot i).state with
      | .closed | .aborted => .next (s.endEvent ((t.releaseSlot i).answer cell .done none))
      | .aborting => .next (s.endEvent (t.answer cell .busy none))
      | .free | .active | .held | .stalled | .settling => .next (s.endEvent (t.answer cell .state none))
  | _ => .fault .notNextRequest

/-! ### SEED, RETIRE and SET_EPOCH (R67, R137, R138, R141, R143) -/

/-- An operation joins the requests source (R68, R137). -/
def State.queueMaint (s : State) (o : MaintOp) : State := { s with index := { s.index with requests := s.index.requests ++ [o] } }

/-- SEED (R138): refused at once, or queued as an operation. -/
def execSeed (cell : ReqNo) (s : State) : Result :=
  let s := s.settled
  match s.nextRequest cell with
  | some (.seed digest number length check, t) =>
    match s.index.state.refusal with
    | some status => .next (s.endEvent (t.answer cell status none))
    | none =>
      if length = 0 ∨ 65536 < length then .next (s.endEvent (t.answer cell .range none))
      else if s.index.counter ≤ number then .next (s.endEvent (t.answer cell .range none))
      else .next (t.queueMaint (.seed { cell := cell, digest := digest, number := number, length := length, check := check }))
  | _ => .fault .notNextRequest

/-- RETIRE (R141): refused by the index state alone, or queued as an operation. -/
def execRetire (cell : ReqNo) (s : State) : Result :=
  let s := s.settled
  match s.nextRequest cell with
  | some (.retire digest number fence, t) =>
    match s.index.state.refusal with
    | some status => .next (s.endEvent (t.answer cell status none))
    | none => .next (t.queueMaint (.retire { cell := cell, digest := digest, number := number, fence := fence }))
  | _ => .fault .notNextRequest

/-- Reserved Through as the descriptor write of a SET_EPOCH carries it: the copy's, or the one of a reservation write still before it in the order of writes
(R77, R79, R143; DEDUCED, log entry 15). -/
def State.reservedAhead (s : State) : Nat :=
  match s.reservation with
  | some w => w.desc.reserved
  | none => s.index.copy.reserved

/-- A SET_EPOCH is accepted: the copy's epoch is replaced and a descriptor write is issued (R143). -/
def State.acceptEpoch (s : State) (cell : ReqNo) (value : BitVec 32) : State :=
  let s := { s with index := { s.index with copy := { s.index.copy with epoch := value } } }
  s.issueWrite { s.index.copy with reserved := s.reservedAhead } (.epoch cell value)

/-- SET_EPOCH (R143). -/
def execSetEpoch (cell : ReqNo) (s : State) : Result :=
  let s := s.settled
  match s.nextRequest cell with
  | some (.setEpoch value, t) =>
    match s.index.state.refusal with
    | some status => .next (s.endEvent (t.answer cell status none))
    | none =>
      if value.toNat < s.index.copy.epoch.toNat then .next (s.endEvent (t.answer cell .range (some (.epoch s.index.copy.epoch))))
      else .next (t.acceptEpoch cell value)
  | _ => .fault .notNextRequest

/-! ### SNAPSHOT and the unknown kinds (R44, R146, R156) -/

/-- The target code of the engine (chapter 11.4). -/
def engineTarget : Nat := 0xFFFF

/-- SNAPSHOT_SLOT (R44): a target that is neither a slot nor the engine is answered RANGE. -/
def execSnapshotSlot (cell : ReqNo) (s : State) : Result :=
  let s := s.settled
  match s.nextRequest cell with
  | some (.snapshot target, t) =>
    if target = engineTarget then .fault .notNextRequest
    else match slotNamed target with
      | none => .next (s.endEvent (t.answer cell .range none))
      | some i =>
        if (s.slot i).state = .free then .next (s.endEvent (t.answer cell .state none))
        else .next (s.endEvent ((t.post [.slotStats i (s.slot i).stats]).answer cell .done none))
  | _ => .fault .notNextRequest

/-- SNAPSHOT_ENGINE (R146): the set is written, and the ERROR condition becomes false. -/
def execSnapshotEngine (cell : ReqNo) (s : State) : Result :=
  let s := s.settled
  match s.nextRequest cell with
  | some (.snapshot target, t) =>
    if target = engineTarget then
      let t := { t with index := { t.index with error := false } }
      .next (s.endEvent ((t.post [.recordStats t.index.stats]).answer cell .done none))
    else .fault .notNextRequest
  | _ => .fault .notNextRequest

/-- UNKNOWN_REQUEST (R156): a kind the table of chapter 11.4 does not define. -/
def execUnknownRequest (cell : ReqNo) (s : State) : Result :=
  let s := s.settled
  match s.nextRequest cell with
  | some (.unknown _, t) => .next (s.endEvent (t.answer cell .unknown none))
  | _ => .fault .notNextRequest

end Sys2Proof.Machine
end

