-- ==== Sys2Proof/Machine/IndexOps.lean ====
section
/-! DEFINITION. The Index Unit's events: acceptance, the completions of the operations, the removal of a waiter, descriptor writes and the clearing of a FORMAT
(R69 to R72, R79, R87, R91, R101, R103, R107, R139, R141). -/

namespace Sys2Proof.Machine

/-! ### The acceptance arbiter (R68, R69, R71) -/

/-- The cyclic order of the sources (R69). -/
def Source.after : Source → Source
  | .lanes => .firming
  | .firming => .withdrawal
  | .withdrawal => .requests
  | .requests => .scan
  | .scan => .lanes

/-- The five sources in cyclic order from one on (R69). -/
def Source.cycle (a : Source) : List Source := [a, a.after, a.after.after, a.after.after.after, a.after.after.after.after]

/-- Operations are accepted from this source in the present engine state (R71). -/
def State.accepts (s : State) (a : Source) : Bool := s.mayWrite || a == .scan

/-- The operation on a SEED's or RETIRE's digest. -/
def MaintOp.kind : MaintOp → OpKind
  | .seed o => .seed o
  | .retire o => .retire o

/-- The digest of a SEED or RETIRE. -/
def MaintOp.digest : MaintOp → Digest
  | .seed o => o.digest
  | .retire o => o.digest

/-- The bucket of a record's entry; a FIRM or WITHDRAW is of a record in use. -/
def State.recordBucket (s : State) (r : Nat) : Nat :=
  match s.record r with
  | some p => p.bucket
  | none => 0

/-- The scan source has a SCAN to offer (R91). -/
def State.scanWaits (s : State) : Bool := s.index.state == .scanning && decide (s.index.scanNext < 2 ^ s.index.copy.k)

/-- The oldest waiting operation of a source leaves it: the operation, and the state without it (R68, R72, R91). -/
def State.offer (s : State) : Source → Option (Op × State)
  | .lanes =>
    match s.lookups with
    | [] => none
    | l :: rest =>
      some ({ kind := .lookup l, bucket := bucketOf s.index.copy.k l.digest, halt := none },
        ({ s with lookups := rest } : State).editSlot l.slot fun c => { c with inflight := c.inflight + 1 })
  | .firming =>
    match s.index.firming with
    | [] => none
    | r :: rest => some ({ kind := .firm r, bucket := s.recordBucket r, halt := none }, { s with index := { s.index with firming := rest } })
  | .withdrawal =>
    match s.index.withdrawal with
    | [] => none
    | r :: rest =>
      some ({ kind := .withdraw r, bucket := s.recordBucket r, halt := none }, { s with index := { s.index with withdrawal := rest } })
  | .requests =>
    match s.index.requests with
    | [] => none
    | o :: rest =>
      some ({ kind := o.kind, bucket := bucketOf s.index.copy.k o.digest, halt := none }, { s with index := { s.index with requests := rest } })
  | .scan =>
    if s.scanWaits then
      some ({ kind := .scan s.index.scanNext, bucket := s.index.scanNext, halt := none },
        { s with index := { s.index with scanNext := s.index.scanNext + 1 } })
    else none

/-- The source that the arbiter chooses: the first from the pointer on that may be accepted from and has an operation waiting (R69, R71). -/
def State.chosen (s : State) : Option Source :=
  s.index.pointer.cycle.find? fun a => s.accepts a && (s.offer a).isSome

/-- An operation is in flight from its acceptance on, behind those accepted before it, and the pointer moves past its source (R68, R69). -/
def State.putInFlight (s : State) (a : Source) (op : Op) : State :=
  { s with index := { s.index with inflight := s.index.inflight ++ [op], pointer := a.after } }

/-- OPERATION_ACCEPTED (R69). -/
def execOperationAccepted (s : State) : Result :=
  let s := s.settled
  if 64 ≤ s.index.inflight.length then .fault .nothingToAccept
  else match s.chosen with
    | none => .fault .nothingToAccept
    | some a =>
      match s.offer a with
      | none => .fault .nothingToAccept
      | some (op, s) => .next (s.putInFlight a op)

/-! ### Completions (R70) -/

/-- An operation that may begin at its bucket is carried out: to its completion, or to where it waits for a chunk number (R70, R77). -/
def State.complete (s : State) (key : OpKey) (ecc : Vector Ecc 16) : Result :=
  match readyOp key s.index.inflight with
  | some op => .next (s.endEvent (s.carryOut op ecc))
  | none => .fault .notReady

/-- LOOKUP_INSERT_COMPLETE (R72 to R75). -/
def execLookupInsertComplete (slot : SlotNo) (ordinal : Nat) (ecc : Vector Ecc 16) (s : State) : Result :=
  s.settled.complete (.lookup slot ordinal) ecc

/-- FIRM_COMPLETE (R103). -/
def execFirmComplete (record : Nat) (ecc : Vector Ecc 16) (s : State) : Result := s.settled.complete (.firm record) ecc

/-- WITHDRAW_COMPLETE (R107). -/
def execWithdrawComplete (record : Nat) (ecc : Vector Ecc 16) (s : State) : Result := s.settled.complete (.withdraw record) ecc

/-- SEED_COMPLETE (R139). -/
def execSeedComplete (cell : ReqNo) (ecc : Vector Ecc 16) (s : State) : Result := s.settled.complete (.seed cell) ecc

/-- RETIRE_COMPLETE (R141). -/
def execRetireComplete (cell : ReqNo) (ecc : Vector Ecc 16) (s : State) : Result := s.settled.complete (.retire cell) ecc

/-- SCAN_COMPLETE (R91). -/
def execScanComplete (bucket : Nat) (ecc : Vector Ecc 16) (s : State) : Result := s.settled.complete (.scan bucket) ecc

/-! ### WAITER_REMOVAL (R101) -/

/-- WAITER_REMOVAL (R101): the waiter of an ABORTING stream leaves its record's list and the stream's count falls; where another event has removed it, nothing is
found to remove.
In STOPPED no removal is asked for, since the engine does not pass to STOPPED with one to come (R114; log entry 24). -/
def execWaiterRemoval (slot : SlotNo) (ordinal : Nat) (s : State) : Result :=
  let s := s.settled
  match s.removals.find? fun m => m.waiter == { slot := slot, ordinal := ordinal } with
  | none => .next s
  | some m =>
    if (s.slot slot).state = .aborting ∧ (s.waitersOf m.record).contains m.waiter then
      .next (s.endEvent ((s.discardWaiter m.record m.waiter).refresh slot))
    else .next { s with removals := s.removals.filter fun v => v.waiter != m.waiter }

/-! ### Descriptor writes (R79, R83, R85) -/

/-- The oldest descriptor write is made and read back whole: it leaves the list, and what waited for it goes on (R78, R79, R87, R143). -/
def State.writeDone (s : State) (w : DescWrite) (rest : List DescWrite) : State :=
  let s := { s with mem := { s.mem with desc := w.desc }, index := { s.index with writes := rest } }
  match w.use with
  | .reserve => ({ s with index := { s.index with copy := { s.index.copy with reserved := w.desc.reserved } } } : State).resumeAll
  | .epoch cell value => s.answer cell .done (some (.epoch value))
  | .formatStart => s
  | .formatDone =>
    match s.index.format with
    | none => s
    | some j =>
      ({ s with index := { s.index with
          state := .ready, counter := j.counterStart, occupancy := 0, fill := .normal, fillCount := 0, format := none } } : State).answer
        j.cell .done (some (.generation w.desc.generation))

/-- The read-back has found the descriptor uncorrectable: the write is not complete, none after it is carried out, and the engine enters FAULTED (R79, R85).
It is not counted and does not set the ERROR condition (R145, R147; DEDUCED, log entry 18).
DESIGN CHOICE (log entry 35): the index memory holds the descriptor written, and whether a later read finds it good is that read's finding. -/
def State.writeLost (s : State) (w : DescWrite) : State :=
  ({ s with mem := { s.mem with desc := w.desc }, index := { s.index with writeFailed := true } } : State).enterFaulted .indexDescriptor

/-- DESCRIPTOR_WRITE_COMPLETE (R79): a correctable descriptor is corrected and counted (R83). -/
def execDescriptorWriteComplete (ecc : Ecc) (s : State) : Result :=
  let s := s.settled
  if s.index.writeFailed then .fault .noDescriptorWrite
  else match s.index.writes with
    | [] => .fault .noDescriptorWrite
    | w :: rest =>
      match ecc with
      | .clean => .next (s.endEvent (s.writeDone w rest))
      | .correctable => .next (s.endEvent ((s.editStats fun t => { t with corrected := sat32 (t.corrected + 1) }).writeDone w rest))
      | .uncorrectable => .next (s.writeLost w)

/-! ### FORMAT_CLEAR (R87) -/

/-- What a FORMAT waits for has completed: every operation accepted, every operation waiting in the sources, and every descriptor write, its own of step 1
included, since the steps come in their order (steps 1 and 2 of R87, R88; log entry 20).
A write that has failed stays outstanding, so the FORMAT then does not go on (case 3 of R88). -/
def State.formatMayClear (s : State) : Bool :=
  s.index.inflight.isEmpty && s.lookups.isEmpty && s.index.firming.isEmpty && s.index.withdrawal.isEmpty && s.index.requests.isEmpty &&
  s.index.writes.isEmpty

/-- The descriptor of a FORMAT (step 4 of R87). -/
def FormatJob.descriptor (j : FormatJob) (generation : BitVec 32) : Descriptor :=
  { valid := true, k := j.k, reserved := j.counterStart, epoch := j.epochStart, generation := generation + 1 }

/-- Every way of the new buckets is written EMPTY, and the new descriptor replaces the copy and is written (steps 3 and 4 of R87). -/
def State.clearFormat (s : State) (j : FormatJob) : State :=
  let d := j.descriptor s.index.copy.generation
  let s := { s with
    mem := { s.mem with ways := s.mem.ways.filter fun e => decide (16 * 2 ^ j.k ≤ e.1) }
    index := { s.index with copy := d, format := some { j with cleared := true } } }
  s.issueWrite d .formatDone

/-- FORMAT_CLEAR (R87). -/
def execFormatClear (s : State) : Result :=
  let s := s.settled
  match s.index.format with
  | none => .fault .noFormat
  | some j => if j.cleared = false ∧ s.formatMayClear then .next (s.clearFormat j) else .fault .noFormat

end Sys2Proof.Machine
end

