-- ==== Sys2Proof/Machine/Intake.lean ====
section
/-! DEFINITION. The Intake Unit and the lanes' turns: the taking of segment cells, the Feed Queue, the segment reads and the bytes they give (chapters 1.8 and 3). -/

namespace Sys2Proof.Machine

/-! ### Taking a segment cell -/

/-- The offset just past a segment's last byte, computed without bound (R49). -/
def Segment.stop (g : Segment) : Nat := g.offset + g.length

/-- A segment is placed after every segment of lower Offset, and after every one of equal Offset and lower cell number (R51). -/
def joinFeed (g : Segment) : List Segment → List Segment
  | [] => [g]
  | h :: t =>
    if h.offset < g.offset ∨ (h.offset = g.offset ∧ h.cell < g.cell) then h :: joinFeed g t else g :: h :: t

/-- A segment joins the Feed Queue and its cell becomes queued; the stream may become eligible, and 16 segments none of which is usable abort it with GAP
(R51, R52, R53). -/
def State.joinSegment (s : State) (i : SlotNo) (g : Segment) : State :=
  let s := s.editSlot i fun c =>
    { c with feed := joinFeed g c.feed, cells := c.cells.set g.cell { c.cells.get g.cell with queued := some g.tag } }
  let s := s.joinRun i
  if (s.slot i).feed.length = 16 ∧ (s.slot i).headUsable = false then s.enterAborting i .gap else s

/-- The checks of a segment taken from a cell, the first that applies deciding (R49). -/
def State.takeSegment (s : State) (i : SlotNo) (g : Segment) : State :=
  let c := s.slot i
  if 1048576 < g.length ∨ 2 ^ 48 ≤ g.stop ∨ 2 ^ 64 < g.addr + g.length then s.answerCell i g.cell g.tag .refused
  else if g.length = 0 then s.answerCell i g.cell g.tag .done
  else if g.stop ≤ c.consumed then
    (s.editSlot i fun c => { c with stats := { c.stats with resent := sat48 (c.stats.resent + g.length) } }).answerCell i g.cell g.tag .resent
  else match c.final with
    | some f => if f < g.stop then s.enterAborting i .overrun else s.joinSegment i g
    | none => s.joinSegment i g

/-- A cell passed to the Intake Unit: passed over while queued, or free; else taken, against the context as it stands (R48).
DESIGN CHOICE (log entry 14): so the cells of a SETTLING slot that Stored Through of the same host half has brought to CLOSED are passed over. -/
def State.takeCell (s : State) (i : SlotNo) (half : List Byte) (n : CellNo) : State :=
  let c := s.slot i
  let r := c.cells.get n
  let h := readHostCell half n
  if c.state.isLive = false ∨ r.queued.isSome ∨ h.tag = r.done then s
  else s.takeSegment i { cell := n, addr := h.addr, offset := h.offset, length := h.length, tag := h.tag, count := 0 }

/-- The 16 cells of a host half, in ascending cell number (R48). -/
def State.takeCells (s : State) (i : SlotNo) (half : List Byte) : State :=
  (List.finRange 16).foldl (fun s n => s.takeCell i half n) s

/-! ### Segments that leave -/

/-- The segments whose end the Consumed Offset has reached leave the Feed Queue and are answered, in their order in it (R57). -/
def State.answerLeaving (s : State) (i : SlotNo) : List Segment → State
  | [] => s
  | g :: gs =>
    let s := s.editSlot i fun c => { c with stats := { c.stats with resent := sat48 (c.stats.resent + (g.length - g.count)) } }
    (s.answerCell i g.cell g.tag (if g.count = 0 then .resent else .done)).answerLeaving i gs

/-- R57 applied after a byte. -/
def State.leaveSegments (s : State) (i : SlotNo) : State :=
  let c := s.slot i
  let gone := c.feed.filter fun g => decide (g.stop ≤ c.consumed)
  (s.editSlot i fun c => { c with feed := c.feed.filter fun g => !decide (g.stop ≤ c.consumed) }).answerLeaving i gone

/-! ### Turns -/

/-- The most bytes a lane takes in a turn (R19). -/
def turnLimit : Nat := 262144

/-- A byte taken by a lane's turn from the segment of a cell (R19, R55, R57). -/
def State.takeByte (s : State) (n : LaneNo) (t : Turn) (cell : CellNo) (b : Byte) : State :=
  let s := s.chunkByte t.slot b
  let s := s.editSlot t.slot fun c =>
    { c with feed := c.feed.map fun g => if g.cell = cell then { g with count := g.count + 1 } else g }
  let s := s.leaveSegments t.slot
  s.setLane n { s.lanes.get n with turn := some { t with count := t.count + 1 } }

/-- The lane takes the bytes of a read one at a time, as long as the checks of R19 allow; what is left is discarded (R19, R55). -/
def State.takeBytes (s : State) (n : LaneNo) (cell : CellNo) : List Byte → State
  | [] => s
  | b :: bs =>
    match (s.lanes.get n).turn with
    | none => s
    | some t =>
      let c := s.slot t.slot
      if c.state.isOpen && !c.chunker.finished && decide (c.pending.length < 8) && decide (t.count < turnLimit) && c.headUsable then
        (s.takeByte n t cell b).takeBytes n cell bs
      else s

/-- The read that the Intake Unit issues from the head segment for a turn: its address and length (R54). -/
def Slot.nextRead (c : Slot) (count : Nat) : Option SegRead :=
  match c.feed with
  | [] => none
  | g :: _ =>
    if g.offset ≤ c.consumed then
      some { cell := g.cell, addr := g.addr + (c.consumed - g.offset), length := min 4096 (min (g.stop - c.consumed) (turnLimit - count)) }
    else none

/-- The lane stands between bytes with no completed read: a final chunk that is due is made, the turn ends, or the next read is issued (R7, R19, R54). -/
def State.continueTurn (s : State) (n : LaneNo) : State :=
  match (s.lanes.get n).turn with
  | none => s
  | some t =>
    if 8 ≤ (s.slot t.slot).pending.length then s.endTurn n
    else
      let s := s.endStream t.slot
      let c := s.slot t.slot
      if c.chunker.finished ∨ turnLimit ≤ t.count ∨ c.state.isOpen = false ∨ 8 ≤ c.pending.length then s.endTurn n
      else match c.nextRead t.count with
        | some r => s.setLane n { turn := some t, read := some r }
        | none => s.endTurn n

end Sys2Proof.Machine
end

