-- ==== Sys2Proof/Machine/Lanes.lean ====
section
/-! DEFINITION. The Chunking Lanes' events and the ends of host memory reads (R18, R19, R54, R55, R58, R61, R174). -/

namespace Sys2Proof.Machine

/-! ### LANE_TAKES_SLOT (R17, R18) -/

/-- A lane takes no slot while it works one, or while a read of an ended turn is outstanding (R18, R55). -/
def Lane.idle (l : Lane) : Bool := l.turn.isNone && l.read.isNone

/-- The lane begins a turn on a slot: a final chunk that is due is made, the first read is issued, or the turn ends (R18, R19, R54). -/
def State.beginTurn (s : State) (n : LaneNo) (i : SlotNo) : State :=
  (s.setLane n { turn := some { slot := i, count := 0 }, read := none }).continueTurn n

/-- LANE_TAKES_SLOT (R18): the head leaves the Run List; a stream that has ceased to be eligible is passed over (R17). -/
def execLaneTakesSlot (n : LaneNo) (s : State) : Result :=
  let s := s.settled
  if s.mayWrite ∧ (s.lanes.get n).idle then
    match s.runList with
    | [] => .fault .noLaneWork
    | i :: rest =>
      let s := { s with runList := rest }
      if (s.slot i).eligible then .next (s.endEvent (s.beginTurn n i)) else .next s
  else .fault .noLaneWork

/-! ### SEGMENT_READ_COMPLETE (R55, R61) -/

/-- The read in flight of a lane is over. -/
def State.clearRead (s : State) (n : LaneNo) : State := s.setLane n { s.lanes.get n with read := none }

/-- A read that no block takes is over (R61, R174, R175). -/
def State.dropLostRead (s : State) : State := { s with port := { s.port with lostReads := s.port.lostReads - 1 } }

/-- SEGMENT_READ_COMPLETE (R55): the bytes go to the turn the read was issued for, one at a time, and are discarded if it has ended. -/
def execSegmentReadComplete (read : ReadId) (data : List Byte) (s : State) : Result :=
  let s := s.settled
  match read with
  | .lane n =>
    match (s.lanes.get n).read with
    | none => .fault .noRead
    | some r =>
      if data.length = r.length then .next (s.endEvent (((s.clearRead n).takeBytes n r.cell data).continueTurn n)) else .fault .readLength
  | .lost => if s.port.lostReads = 0 then .fault .noRead else .next s.dropLostRead
  | .sweep | .openHalf | .start => .fault .noRead

/-! ### Failed reads (R58, R171, R174) -/

/-- The host half read of an OPEN that has passed its checks is outstanding (R35). -/
def State.openReading (s : State) : Bool :=
  match s.sweep.flight with
  | some (.requests ({ request := .openStream slot cls _ addr size, .. } :: _)) =>
    match s.checkOpen slot cls addr size with
    | .ok _ => true
    | .error _ => false
  | _ => false

/-- The sweep's one outstanding read has failed: the sweep is over, so that no read of it is left, and the engine enters FAULTED (R155, R174). -/
def State.failSweep (s : State) : State :=
  ({ s with sweep := { s.sweep with flight := none } } : State).enterFaulted .hostMemory

/-- The outcome of a failed read (R58, R171, R174): a START's read ends the START; any other makes the engine FAULTED, but for one issued before a reset, which no
block takes (R175), and one that ends after the fault, which leaves the cause. -/
def State.failRead (s : State) (read : ReadId) : Result :=
  match read with
  | .lane n => if (s.lanes.get n).read.isSome then .next ((s.clearRead n).enterFaulted .hostMemory) else .fault .noRead
  | .sweep =>
    match s.sweep.flight with
    | some (.slots _) => .next s.failSweep
    | some (.requests _) | none => .fault .noRead
  | .openHalf => if s.openReading then .next s.failSweep else .fault .noRead
  | .start => if s.ctl.starting then .next (s.failStart .busError) else .fault .noRead
  | .lost => if s.port.lostReads = 0 then .fault .noRead else .next s.dropLostRead

/-- HOST_READ_FAILURE (R174): a read ends with a completion error. -/
def execHostReadFailure (read : ReadId) (s : State) : Result := s.settled.failRead read

/-- READ_TIMEOUT (R58): a read is found timed out, and is then a failed read. -/
def execReadTimeout (read : ReadId) (s : State) : Result := s.settled.failRead read

end Sys2Proof.Machine
end

