-- ==== Sys2Proof/Machine/Sweep.lean ====
section
/-! DEFINITION. The Sweep Unit: a slot's host half taken, the Request Table read, and the end of a sweep (R40, R82, R151 to R159). -/

namespace Sys2Proof.Machine

/-- The Context Store takes a host half (R40): the Seen Sequence, the countdown, Stored Through, Recipe Taken, Watch Offset, and then the cells.
In QUIESCING the Seen Sequence of a slot that is ACTIVE, HELD, STALLED or SETTLING is left, and no cell is taken (R40, R48; log entry 14).
It is one event of the sweep: the conditions it changes are decided at its end and handed on together (R132, R163). -/
def State.takeHostHalf (s : State) (i : SlotNo) (half : List Byte) : State :=
  let h := readHostHalf half
  let live := (s.slot i).state.isLive
  let s := if s.ctl.engine = .quiescing ∧ live then s
    else (s.editSlot i fun c => { c with seen := h.post }).post [.slotSeen i h.post]
  let s := if live then s.editSlot i fun c => { c with idle := c.cls.idleLimit } else s
  let s := ((s.holdStored i h.stored).holdTaken i h.taken).holdWatch i h.watch
  (if s.ctl.engine = .running then s.takeCells i half else s).refresh i

/-- SLOT_HOST_HALF_TAKEN (R40, R151, R155): the sweep takes the next flagged slot, in ascending slot number.
With a Post Sequence equal to the Seen Sequence, or a FREE slot, it is passed over (log entry 23). -/
def execSlotHostHalfTaken (i : SlotNo) (post : BitVec 32) (half : List Byte) (s : State) : Result :=
  let s := s.settled
  match s.sweep.flight with
  | some (.slots (j :: left)) =>
    if j = i then
      let s := { s with sweep := { s.sweep with flight := some (.slots left) } }
      if post = (s.slot i).seen ∨ (s.slot i).state = .free then .next s
      else if half.length ≠ 640 then .fault .readLength
      else .next (s.endEvent (s.takeHostHalf i half))
    else .fault .slotNotDue
  | some (.slots []) => .fault .slotNotDue
  | some (.requests _) | none => .fault .noSweep

/-- A cell of the Request Table is pending: no In-flight Tag, and a post tag that differs from its Done Tag (R156). -/
def RequestRecord.isPending (r : RequestRecord) (tag : Tag) : Bool := r.inflight.isNone && r.done != some tag

/-- The requests a read of the Request Table takes, in ascending cell number (R156). -/
def State.takenRequests (s : State) (table : List (List Byte)) : List TakenRequest :=
  (List.finRange 32).filterMap fun i =>
    let h := table.getD i.val []
    if (s.requests.get i).isPending (requestTag h) then some { cell := i, request := readRequest h } else none

/-- The records after that read: the post tag of each cell taken becomes its In-flight Tag (R156). -/
def State.recordsTaken (s : State) (table : List (List Byte)) : Vector RequestRecord 32 :=
  Vector.ofFn fun i : Fin 32 =>
    let r := s.requests.get i
    let tag := requestTag (table.getD i.val [])
    if r.isPending tag then { r with inflight := some tag } else r

/-- REQUEST_TABLE_READ (R155, R156): in RUNNING, when every flagged slot has been taken. -/
def execRequestTableRead (table : List (List Byte)) (s : State) : Result :=
  let s := s.settled
  match s.sweep.flight with
  | some (.slots []) =>
    if s.ctl.engine ≠ .running then .fault .noSweep
    else if table.length = 32 ∧ table.all (fun h => h.length == 96) then
      .next { s with
        requests := s.recordsTaken table
        sweep := { s.sweep with flight := some (.requests (s.takenRequests table)) } }
    else .fault .readLength
  | some (.slots (_ :: _)) | some (.requests _) | none => .fault .noSweep

/-! ### The end of a sweep -/

/-- A threshold of the fill watch: so many 1,024ths of the capacity 2^(k+4) (R82). -/
def State.threshold (s : State) (part : Nat) : Nat := part * 2 ^ (s.index.copy.k + 4) / 1024

/-- The fill watch is evaluated, at the end of a sweep taken while the index is READY (R82).
DESIGN CHOICE (log entry 33): the index state is looked at when the sweep ends, whatever it was when the sweep began. -/
def State.evaluateFill (s : State) : State :=
  if s.index.state ≠ .ready then s else
    match s.index.fill with
    | .normal =>
      if s.threshold s.header.fillDeclare ≤ s.index.occupancy then
        (if s.index.fillCount + 1 = 2 then s.setFill .declared 0 else s.setFill .normal (s.index.fillCount + 1))
      else s.setFill .normal 0
    | .declared =>
      if s.index.occupancy < s.threshold s.header.fillClear then
        (if s.index.fillCount + 1 = 2 then s.setFill .normal 0 else s.setFill .declared (s.index.fillCount + 1))
      else s.setFill .declared 0

/-- The Consumed Offsets that differ from the ones last written are written (R46, step 2 of R159).
DESIGN CHOICE (log entry 29): in ascending slot number, since neither rule orders the slots. -/
def State.writeConsumedAll (s : State) : State :=
  let ws := (List.finRange 1024).filterMap fun i =>
    let c := s.slot i
    if c.consumed = c.shown then none else some (HostWrite.slotConsumed i c.consumed)
  { s.post ws with slots := mapVector (fun c : Slot => { c with shown := c.consumed }) s.slots }

/-- The live fields of the Engine Record (R159). -/
def State.liveFields (s : State) : LiveFields :=
  { engine := s.ctl.engine, fill := s.index.fill, last := s.notice.last, error := s.index.error, ticks := s.time.ticks,
    counter := s.index.counter, occupancy := s.index.occupancy }

/-- Step 4 of R159: the countdown is loaded, the sweep is over, and a remembered one starts. -/
def State.closeSweep (s : State) (map : List Byte) : State :=
  let s := { s with time := { s.time with countdown := s.interval } }
  if s.sweep.remembered then ({ s with sweep := { flight := none, remembered := false } } : State).startSweep map
  else { s with sweep := { flight := none, remembered := false } }

/-- Every slot and, in RUNNING, every request of the sweep has been taken (R155, R159). -/
def State.sweepOver (s : State) : Bool :=
  match s.sweep.flight with
  | some (.slots left) => left.isEmpty && s.ctl.engine == .quiescing
  | some (.requests taken) => taken.isEmpty
  | none => false

/-- SWEEP_END (R159). -/
def execSweepEnd (map : List Byte) (s : State) : Result :=
  let s := s.settled
  if s.sweepOver = false then .fault .noSweep
  else if s.sweep.remembered ∧ map.length ≠ 128 then .fault .readLength
  else
    let t := s.evaluateFill.writeConsumedAll
    .next (s.issued ((t.post [.recordLive t.liveFields]).closeSweep map))

end Sys2Proof.Machine
end

