-- ==== Sys2Proof/Machine/Time.lean ====
section
/-! DEFINITION. The Timebase: the reference period, the tick, and the expiry of the two countdowns (R41, R42, R152, R153). -/

namespace Sys2Proof.Machine

/-- A tick at a slot: the idle countdown of a stream that waits for the host falls by one (R41). -/
def Slot.tick (c : Slot) : Slot :=
  if c.state = .active ∧ c.cls.idleLimit ≠ 0 ∧ c.chunker.finished = false ∧ c.finalDue = false ∧ c.headUsable = false then
    { c with idle := c.idle - 1 }
  else c

/-- A tick: the prescaler count is loaded, the tick counter rises modulo 2^32, and the sweep countdown and, in RUNNING, the idle countdowns are served
(R41, R152, R153). -/
def State.tick (s : State) : State :=
  { s with
    time := { s.time with prescaler := s.header.prescalerReload, ticks := s.time.ticks + 1, countdown := s.time.countdown - 1 }
    slots := if s.ctl.engine = .running then mapVector Slot.tick s.slots else s.slots }

/-- TICK (R152): it comes only while the Timebase runs. -/
def execTick (s : State) : Result :=
  let s := s.settled
  if s.time.running then .next s.tick else .fault .timebaseStopped

/-- One period of the reference clock: the prescaler count falls, and the period that finds it 0 brings a tick (R152).
Where a tick has made idle expiries due, the lowest-numbered slot's is taken first, in the period's place.
This is what a step does when no command waits (log entry 8). -/
def State.period (s : State) : State :=
  match s.dueSlots with
  | i :: _ => s.abortStream i .idle
  | [] =>
    if s.time.running = false then s
    else if s.time.prescaler = 0 then s.begun.tick
    else { s with time := { s.time with prescaler := s.time.prescaler - 1 } }

/-- SWEEP_COUNTDOWN_EXPIRY (R153): a sweep starts unless one is in flight. -/
def execSweepCountdownExpiry (map : List Byte) (s : State) : Result :=
  let s := s.settled
  if s.mayWrite = false ∨ s.time.running = false ∨ s.time.countdown ≠ 0 then .fault .countdownRunning
  else if s.sweep.flight.isSome then .next s
  else if map.length ≠ 128 then .fault .readLength
  else .next (s.startSweep map)

/-- IDLE_COUNTDOWN_EXPIRY (R42): the stream enters ABORTING with reason IDLE.
Where it is ABORTING or ABORTED already, or the slot is FREE or CLOSED, nothing changes (R29).
It is taken in RUNNING: only a tick there makes an expiry due, and no event that leaves RUNNING comes before it (log entry 8). -/
def execIdleCountdownExpiry (i : SlotNo) (s : State) : Result :=
  if (s.slot i).idleDue then .next (s.abortStream i .idle)
  else if (s.slot i).state.isLive then .fault .countdownRunning
  else .next s.begun

end Sys2Proof.Machine
end

