-- ==== Sys2Proof/Machine/Dispatch.lean ====
section
/-! DEFINITION. The effect of each command, one arm per row of the opcode table. -/

namespace Sys2Proof.Machine

/-- The effect of a command on everything but the queue of commands. -/
def exec (i : Instr) (s : State) : Host.Outcome State Fault Refusal :=
  match i with
  | .powerOn => Sys2Proof.Machine.execPowerOn s
  | .linkReset point desc => Sys2Proof.Machine.execLinkReset point desc s
  | .start => Sys2Proof.Machine.execStart s
  | .startComplete header table => Sys2Proof.Machine.execStartComplete header table s
  | .quiesce => Sys2Proof.Machine.execQuiesce s
  | .reset point desc => Sys2Proof.Machine.execReset point desc s
  | .exchangeBase first data => Sys2Proof.Machine.execExchangeBase first data s
  | .sweepNow value map => Sys2Proof.Machine.execSweepNow value map s
  | .servingLevel value => Sys2Proof.Machine.execServingLevel value s
  | .registerWriteIgnored offset value => Sys2Proof.Machine.execRegisterWriteIgnored offset value s
  | .tick => Sys2Proof.Machine.execTick s
  | .sweepCountdownExpiry map => Sys2Proof.Machine.execSweepCountdownExpiry map s
  | .idleCountdownExpiry slot => Sys2Proof.Machine.execIdleCountdownExpiry slot s
  | .slotHostHalfTaken slot post half => Sys2Proof.Machine.execSlotHostHalfTaken slot post half s
  | .requestTableRead table => Sys2Proof.Machine.execRequestTableRead table s
  | .format cell => Sys2Proof.Machine.execFormat cell s
  | .setClass cell => Sys2Proof.Machine.execSetClass cell s
  | .openStream cell half => Sys2Proof.Machine.execOpenStream cell half s
  | .close cell => Sys2Proof.Machine.execClose cell s
  | .abort cell => Sys2Proof.Machine.execAbort cell s
  | .release cell => Sys2Proof.Machine.execRelease cell s
  | .seed cell => Sys2Proof.Machine.execSeed cell s
  | .retire cell => Sys2Proof.Machine.execRetire cell s
  | .setEpoch cell => Sys2Proof.Machine.execSetEpoch cell s
  | .snapshotSlot cell => Sys2Proof.Machine.execSnapshotSlot cell s
  | .snapshotEngine cell => Sys2Proof.Machine.execSnapshotEngine cell s
  | .unknownRequest cell => Sys2Proof.Machine.execUnknownRequest cell s
  | .sweepEnd map => Sys2Proof.Machine.execSweepEnd map s
  | .laneTakesSlot lane => Sys2Proof.Machine.execLaneTakesSlot lane s
  | .segmentReadComplete read data => Sys2Proof.Machine.execSegmentReadComplete read data s
  | .hostReadFailure read => Sys2Proof.Machine.execHostReadFailure read s
  | .readTimeout read => Sys2Proof.Machine.execReadTimeout read s
  | .operationAccepted => Sys2Proof.Machine.execOperationAccepted s
  | .lookupInsertComplete slot ordinal ecc => Sys2Proof.Machine.execLookupInsertComplete slot ordinal ecc s
  | .firmComplete record ecc => Sys2Proof.Machine.execFirmComplete record ecc s
  | .withdrawComplete record ecc => Sys2Proof.Machine.execWithdrawComplete record ecc s
  | .waiterRemoval slot ordinal => Sys2Proof.Machine.execWaiterRemoval slot ordinal s
  | .seedComplete cell ecc => Sys2Proof.Machine.execSeedComplete cell ecc s
  | .retireComplete cell ecc => Sys2Proof.Machine.execRetireComplete cell ecc s
  | .scanComplete bucket ecc => Sys2Proof.Machine.execScanComplete bucket ecc s
  | .descriptorWriteComplete ecc => Sys2Proof.Machine.execDescriptorWriteComplete ecc s
  | .formatClear => Sys2Proof.Machine.execFormatClear s
  | .emission slot => Sys2Proof.Machine.execEmission slot s
  | .enterStopped => Sys2Proof.Machine.execEnterStopped s

end Sys2Proof.Machine
end

