-- ==== Sys2Proof/Machine/Step.lean ====
section
/-! DEFINITION. One step of the block: the command at the front of the queue, or, when none waits, an idle expiry that is due or one period of the reference clock. -/

namespace Sys2Proof.Machine

/-- A step: the command at the front of the queue is taken and carried out with the queue's rest.
On an empty queue the lowest idle expiry that a tick has made due is taken, or, with none due, one period of the reference clock passes, which does nothing while
the Timebase is stopped (R42, R152; DESIGN CHOICE, log entry 8). -/
def step (s : State) : Host.Outcome State Fault Refusal :=
  match s.pending with
  | c :: rest => exec c { s with pending := rest }
  | [] => .next s.period

/-- The state with the command that a table word spells put at the front of its queue; unchanged where the word spells none (log entry 4). -/
def State.withFetchWord (s : State) (nbits w : Nat) : State :=
  match decodeTableWord nbits w with
  | some c => { s with pending := c :: s.pending }
  | none => s

end Sys2Proof.Machine
end

