-- ==== Sys2Proof/Safety.lean ====
section
/-! DEFINITION. What counts as a safe run: the laws that every step keeps, in the terms the claims use. -/

namespace Sys2Proof.Machine

/-! ### The stores -/

/-- The sparse stores are in their one canonical form, and the Provisional Pool holds no record but those numbered 0 to 16,383 (R63, R93, R94). -/
def State.Canonical (s : State) : Prop :=
  tableWf s.mem.ways ∧ tableWf s.pool ∧ ∀ e ∈ s.pool, e.1 < 16384

/-! ### The streams -/

/-- The end offsets that a stream's Extent List and then its pending chunk list give, in their order (R20, R128). -/
def Slot.stops (c : Slot) : List Nat := c.extents.map Extent.stop ++ c.pending.map fun p => p.offset + p.length

/-- The laws of a stream's counters and offsets: R127, R130, the bound of R20, and what makes them last. -/
structure Slot.CountsOk (c : Slot) : Prop where
  /-- Stored Through as held is at most Recipe Written (R130). -/
  stored_le : c.stored ≤ c.written
  /-- Recipe Taken as held is never above Recipe Written (R125). -/
  taken_le : c.taken ≤ c.written
  /-- The untaken entries fit the recipe area (R127). -/
  room : c.written - c.taken ≤ c.areaSize
  /-- The pending chunk list holds at most 8 chunks (R20). -/
  pending_le : c.pending.length ≤ 8
  /-- The Start Offset is at most the Safe Offset (R130). -/
  start_le : c.start ≤ c.safe
  /-- The Safe Offset is at most the Consumed Offset (R130). -/
  safe_le : c.safe ≤ c.consumed
  /-- The bytes of the open chunk have been consumed (R6). -/
  len_le : c.chunker.len ≤ c.consumed
  /-- Each chunk found ends at or above the Safe Offset and at or below the Consumed Offset. -/
  stops_within : ∀ x ∈ c.stops, c.safe ≤ x ∧ x ≤ c.consumed
  /-- The chunks end in the order in which they were found. -/
  stops_rise : c.stops.Pairwise (· ≤ ·)

/-- Every slot keeps the laws of its counters. -/
def State.CountsOk (s : State) : Prop := ∀ i, (s.slot i).CountsOk

/-- The state of an open slot is the one that R26 decides. -/
def State.StatesDecided (s : State) : Prop := ∀ i, (s.slot i).state.isOpen = true → (s.slot i).state = (s.slot i).decided

/-! ### Events and their ends -/

/-- No idle expiry that a tick has made due still waits (R42). -/
def State.Settled (s : State) : Prop := ∀ i, (s.slot i).idleDue = false

/-- Every slot's condition set holds the marks that R132 gives it: no event has left a change to be handed on. -/
def State.HandedOn (s : State) : Prop := ∀ i, (s.slot i).marks = (s.slot i).marksDue

/-- The commands before which an idle expiry that is due is not taken: the resets, those that come in STOPPED only or change nothing, and the expiry itself. -/
def takesNoExpiry : Instr → Bool
  | .powerOn | .linkReset _ _ | .reset _ _ | .start | .startComplete _ _ | .exchangeBase _ _ | .registerWriteIgnored _ _ | .idleCountdownExpiry _ => true
  | _ => false

/-- The writes issued between two states are `ws`; no read has been lost. -/
def State.Writes (s t : State) (ws : List HostWrite) : Prop :=
  t.port.posted = s.port.posted ++ ws.map (Posted.mk s.ctl.area) ∧ t.port.lostReads = s.port.lostReads

/-- At most one notice message, of the header copy's Notice Word (R166, R168). -/
def State.AtMostOneNotice (s : State) (ns : List HostWrite) : Prop :=
  ns = [] ∨ ns = [HostWrite.notice s.header.noticeAddress s.header.noticeWord]

/-! ### The lists of the streams and lanes -/

/-- The laws of a stream's Feed Queue, its cell records and its provisional count (R47, R51, R57, R94). -/
structure Slot.ListsOk (c : Slot) : Prop where
  /-- The Feed Queue stands in ascending Offset, and in ascending cell number where Offsets are equal (R51). -/
  feed_order : c.feed.Pairwise fun g h => g.offset < h.offset ∨ g.offset = h.offset ∧ g.cell < h.cell
  /-- No two segments of it are of one cell. -/
  feed_cells : (c.feed.map Segment.cell).Nodup
  /-- A cell is queued, with the tag taken, exactly while a segment of it stands there (R47). -/
  queued : ∀ n tag, (c.cells.get n).queued = some tag ↔ ∃ g ∈ c.feed, g.cell = n ∧ g.tag = tag
  /-- A segment that the Consumed Offset has reached the end of has left (R57). -/
  unfinished : ∀ g ∈ c.feed, c.consumed < g.offset + g.length
  /-- The provisional list is no longer than the provisional count (R94). -/
  prov_le : c.provList.length ≤ c.provCount
  /-- The provisional count is at most the bound Provisional Limit (R94). -/
  prov_limit : c.provCount ≤ c.cls.provisionalLimit

/-- The laws of the Run List and the lanes (R15, R17), and of every slot's lists. -/
structure State.ListsOk (s : State) : Prop where
  /-- A slot is on the Run List at most once (R17). -/
  run_nodup : s.runList.Nodup
  /-- A slot on the Run List is worked by no lane (R17). -/
  run_idle : ∀ i ∈ s.runList, ∀ n t, (s.lanes.get n).turn = some t → t.slot ≠ i
  /-- At most one lane works a slot (R15). -/
  one_lane : ∀ n m t u, (s.lanes.get n).turn = some t → (s.lanes.get m).turn = some u → t.slot = u.slot → n = m
  /-- The laws of each slot's lists. -/
  slots : ∀ i, (s.slot i).ListsOk

/-! ### The Provisional Pool -/

/-- The records for which a FIRM waits or is in flight (R102, R103). -/
def State.firms (s : State) : List Nat :=
  s.index.firming ++ s.index.inflight.filterMap fun o => match o.kind with
    | .firm r => some r
    | .lookup _ | .withdraw _ | .seed _ | .retire _ | .scan _ => none

/-- The records for which a WITHDRAW waits or is in flight (R106, R107). -/
def State.withdraws (s : State) : List Nat :=
  s.index.withdrawal ++ s.index.inflight.filterMap fun o => match o.kind with
    | .withdraw r => some r
    | .lookup _ | .firm _ | .seed _ | .retire _ | .scan _ => none

/-- The laws of the Provisional Pool, the provisional lists, the waiter lists and the operations that work on them (R70, R93, R96, R98, R103, R104, R107, R113). -/
structure State.PoolOk (s : State) : Prop where
  /-- A record is FIRMING or WITHDRAWING, never both, and has one FIRM or WITHDRAW (R104). -/
  once : (s.firms ++ s.withdraws).Nodup
  /-- A FIRM names a FIRMING record, or one that has become LOST (R93, R103). -/
  firming : ∀ r ∈ s.firms, ∃ p, s.record r = some p ∧ (p.disp = .firming ∨ p.disp = .lost)
  /-- A WITHDRAW names a WITHDRAWING record, or one that has become LOST (R93, R107). -/
  withdrawing : ∀ r ∈ s.withdraws, ∃ p, s.record r = some p ∧ (p.disp = .withdrawing ∨ p.disp = .lost)
  /-- A provisional list holds LIVE records owned by its stream (R96). -/
  listed : ∀ i, ∀ r ∈ (s.slot i).provList, ∃ p, s.record r = some p ∧ p.owner = i ∧ p.disp = .live
  /-- Each stands on it once. -/
  listed_once : ∀ i, (s.slot i).provList.Nodup
  /-- They stand in the order of their owner ordinals (R96). -/
  ascending : ∀ i, (s.slot i).provList.Pairwise fun r q =>
    ∀ p o, s.record r = some p → s.record q = some o → p.ordinal ≤ o.ordinal
  /-- Every HELD pending chunk of an open stream names a record in use and is a waiter on its list (R98). -/
  held : ∀ i, (s.slot i).state.isOpen = true → ∀ x ∈ (s.slot i).pending, ∀ r, x.cond = .held r →
    ∃ p, s.record r = some p ∧ { slot := i, ordinal := x.ordinal } ∈ p.waiters
  /-- The waiters of a LOST record are being dealt with (R113). -/
  lost_waiters : ∀ r p, s.record r = some p → p.disp = .lost → p.waiters ≠ [] →
    ∃ o ∈ s.index.inflight, ∃ live w rest, o.halt = some (.loss r live w rest)
  /-- An operation that has begun is the first on its bucket (R70). -/
  begun_first : ∀ os o qs, s.index.inflight = os ++ o :: qs → o.halt ≠ none → ∀ x ∈ os, x.bucket ≠ o.bucket
  /-- A FIRM or WITHDRAW is carried out at the bucket of its record's entry (R103, R107). -/
  at_bucket : ∀ o ∈ s.index.inflight, ∀ r p, (o.kind = .firm r ∨ o.kind = .withdraw r) → s.record r = some p → o.bucket = p.bucket
  /-- A loss that is halted is of a LOST record of the bucket, one for which no FIRM or WITHDRAW was issued if it was LIVE (R113). -/
  halted_loss : ∀ o ∈ s.index.inflight, ∀ r live w rest, o.halt = some (.loss r live w rest) →
    (∃ p, s.record r = some p ∧ p.disp = .lost ∧ p.bucket = o.bucket) ∧ (live = true → r ∉ s.firms ++ s.withdraws)
  /-- A walk that is halted is a WITHDRAW's, of its WITHDRAWING record (R107, R111). -/
  halted_walk : ∀ o ∈ s.index.inflight, ∀ r w, o.halt = some (.walk r w) →
    o.kind = .withdraw r ∧ ∃ p, s.record r = some p ∧ p.disp = .withdrawing

/-! ### Chunk numbers -/

/-- The laws of the Chunk Counter and Reserved Through (R77, R78, R79, R87). -/
structure State.NumbersOk (s : State) : Prop where
  /-- The Chunk Counter is at most Reserved Through, but while a FORMAT is replacing both (R77, R87). -/
  counter_le : s.index.state ≠ .formatting → s.index.counter ≤ s.index.copy.reserved
  /-- Reserved Through is at most 2^40 (R78). -/
  reserved_le : s.index.copy.reserved ≤ 2 ^ 40
  /-- At most one reservation write is outstanding (R78). -/
  one_reserve : s.index.writes.countP (fun w => w.use == .reserve) ≤ 1
  /-- It does not lower Reserved Through (R78). -/
  reserve_raises : ∀ w ∈ s.index.writes, w.use = .reserve → s.index.copy.reserved ≤ w.desc.reserved ∧ w.desc.reserved ≤ 2 ^ 40
  /-- A FORMAT is in flight in FORMATTING only, with a counter start that R86 allows (R66, R86). -/
  format_state : ∀ j, s.index.format = some j → s.index.state = .formatting ∧ j.counterStart ≤ 2 ^ 40
  /-- Once it has cleared, its counter start is covered by Reserved Through (step 4 of R87). -/
  format_reserved : ∀ j, s.index.format = some j → j.cleared = true → j.counterStart ≤ s.index.copy.reserved
  /-- The last write of a FORMAT belongs to one that has cleared (R87). -/
  format_done : ∀ w ∈ s.index.writes, w.use = .formatDone → ∃ j, s.index.format = some j ∧ j.cleared = true
  /-- It is one write. -/
  one_done : s.index.writes.countP (fun w => w.use == .formatDone) ≤ 1

/-! ### Notices -/

/-- The laws of the condition sets, the Ready Map, the pending level set and the Serving Level (R132, R163, R164, R165, R166). -/
structure State.NoticesOk (s : State) : Prop where
  /-- Every condition set holds the marks that R132 gives it. -/
  handed_on : s.HandedOn
  /-- A slot's flag of the Ready Map stands where some mark of it does (R164). -/
  ready : ∀ i, s.notice.ready.get i = (s.slot i).marks.any
  /-- A bound class has a Recipe Threshold of 1 or more (R13), but for the class of a slot that holds no stream. -/
  threshold : ∀ i, (s.slot i).state ≠ .free → 1 ≤ (s.slot i).cls.recipeThreshold
  /-- So has every valid class. -/
  classes : ∀ n c, s.classes.get n = some c → 1 ≤ c.recipeThreshold
  /-- The pending level set holds each level once, highest first, and not level 0 (R162, R165). -/
  levels : s.notice.levels.Pairwise (· > ·) ∧ 0 ∉ s.notice.levels
  /-- In RUNNING no pending level is above the Serving Level: it would have been sent (R166). -/
  sent : s.ctl.engine = .running → ∀ l ∈ s.notice.levels, l ≤ s.notice.serving

/-! ### The engine -/

/-- The laws of the Engine Controller, the Timebase and the Sweep Unit (R42, R152, R154, R170, R174). -/
structure State.ControlOk (s : State) : Prop where
  /-- A START is in progress in STOPPED only (R170). -/
  starting_stopped : s.ctl.starting = true → s.ctl.engine = .stopped
  /-- There is a fault cause in FAULTED and in no other state (R174, R175). -/
  cause_faulted : s.ctl.faultCause ≠ .none ↔ s.ctl.engine = .faulted
  /-- The Timebase runs in RUNNING and QUIESCING and in no other state (R152). -/
  timebase : s.time.running = s.mayWrite
  /-- A sweep is in flight in RUNNING and QUIESCING only (R154). -/
  flight_writes : s.sweep.flight.isSome = true → s.mayWrite = true
  /-- A Sweep Now write is remembered in RUNNING and QUIESCING only (R154). -/
  remembered_writes : s.sweep.remembered = true → s.mayWrite = true
  /-- An idle expiry is due in RUNNING only (R41, R42). -/
  due_running : ∀ i, (s.slot i).idleDue = true → s.ctl.engine = .running

/-- The commands that are resets (R175). -/
def isReset : Instr → Bool
  | .powerOn | .linkReset _ _ | .reset _ _ => true
  | _ => false

/-! ### Requests -/

/-- The request `r`, taken from `cell` under the In-flight Tag `tag`, is the next of the sweep to be carried out, `rest` stands behind it, and the engine answers
requests (R156, R157); no idle expiry that is due comes first (R42). -/
def State.AtRequest (s : State) (cell : ReqNo) (r : Request) (tag : Tag) (rest : List TakenRequest) : Prop :=
  s.Settled ∧ s.mayWrite = true ∧ s.sweep.flight = some (.requests ({ cell := cell, request := r } :: rest)) ∧ (s.requests.get cell).inflight = some tag

/-- The request of a cell has been answered: its record is free again with the tag as its Done Tag, and the writes issued are `ws` (of the request's own rule and
its result operands), then the status, then the done tag, and behind these at most one notice message (R157, R166). -/
structure State.Answered (s t : State) (cell : ReqNo) (tag : Tag) (ws : List HostWrite) (status : Status) : Prop where
  /-- The cell's record. -/
  record : t.requests = s.requests.set cell { done := some tag, inflight := none }
  /-- The writes, in the order issued. -/
  writes : ∃ ns, s.AtMostOneNotice ns ∧ s.Writes t (ws ++ [HostWrite.reqStatus cell status, HostWrite.reqTag cell tag] ++ ns)

/-- Nothing but the answer of one request has come between two states: the request has left the sweep's list, and the REQUEST event has reached the Notice Unit
(R157, R165). -/
def State.OnlyAnswered (s t : State) (rest : List TakenRequest) : Prop :=
  t = { s with sweep := { s.sweep with flight := some (.requests rest) }, requests := t.requests, port := t.port,
               notice := (s.raiseLevel s.header.requestLevel).notice }

/-! ### Aborts -/

/-- What the passage of a slot to ABORTING does to the slot, the lanes and their lists, the index and the Pool, and nothing else there (R22, R30, R32, R56, R101,
R106).
What else its command does to the sweep, the requests, the notices and the port is said beside it. -/
structure State.Aborts (s t : State) (i : SlotNo) (reason : AbortReason) : Prop where
  /-- The Abort Reason is recorded. -/
  reason_eq : (t.slot i).reason = some reason
  /-- The slot is ABORTING, or ABORTED at once where nothing is held on its behalf. -/
  state_eq : (t.slot i).state = if (s.slot i).inflight = 0 then .aborted else .aborting
  /-- Its segments, pending chunks and listed records are gone. -/
  emptied : (t.slot i).feed = [] ∧ (t.slot i).pending = [] ∧ (t.slot i).provList = []
  /-- Its counters, offsets and statistics are kept. -/
  kept : (t.slot i).written = (s.slot i).written ∧ (t.slot i).final = (s.slot i).final ∧ (t.slot i).safe = (s.slot i).safe ∧
    (t.slot i).consumed = (s.slot i).consumed ∧ (t.slot i).stats = (s.slot i).stats ∧ (t.slot i).extents = (s.slot i).extents
  /-- Nor is anything else of its context changed, but that its cells are queued no more (R56), its count gives up the listed records, and its condition set and the
  Consumed Offset last written follow. -/
  context : t.slot i = { s.slot i with
    reason := some reason, state := (t.slot i).state, feed := [], pending := [], provList := [],
    provCount := (s.slot i).provCount - (s.slot i).provList.length, cells := (t.slot i).cells, marks := (t.slot i).marks, shown := (t.slot i).shown }
  /-- The cells keep their done tags and statuses. -/
  cells : ∀ n, (t.slot i).cells.get n = { (s.slot i).cells.get n with queued := none }
  /-- It has left the Run List, the Lookup Queue and every lane. -/
  left : i ∉ t.runList ∧ (∀ l ∈ t.lookups, l.slot ≠ i) ∧ ∀ n u, (t.lanes.get n).turn = some u → u.slot ≠ i
  /-- The other members of the Run List and the Lookup Queue stand, in their order (R22). -/
  others_listed : t.runList = s.runList.filter (fun j => j != i) ∧ t.lookups = s.lookups.filter (fun l => l.slot != i)
  /-- A lane that works another slot goes on, and every lane keeps its read in flight (R22). -/
  others_worked : ∀ n, (t.lanes.get n).turn = (s.lanes.get n).turn.filter (fun u => u.slot != i) ∧ (t.lanes.get n).read = (s.lanes.get n).read
  /-- A WITHDRAW waits for each listed record, in ordinal order, and a removal for each HELD chunk (R101, R106). -/
  issued : t.index = { s.index with withdrawal := s.index.withdrawal ++ (s.slot i).provList } ∧
    t.removals = s.removals ++ (s.slot i).removals i
  /-- The listed records become WITHDRAWING, and every other record of the Pool is kept (R106). -/
  records : ∀ r, t.record r = if r ∈ (s.slot i).provList then (s.record r).map (fun p => { p with disp := .withdrawing }) else s.record r
  /-- No other slot is touched. -/
  others : ∀ j, j ≠ i → t.slot j = s.slot j
  /-- Nor is any other block. -/
  same : t.pending = s.pending ∧ t.ctl = s.ctl ∧ t.header = s.header ∧ t.time = s.time ∧ t.classes = s.classes ∧ t.mem = s.mem

/-! ### The writes -/

/-- What one write makes of the device half of a slot as the host sees it (R177, chapter 11.3). -/
def HostWrite.show (i : SlotNo) (w : HostWrite) (d : DeviceHalf) : DeviceHalf :=
  match w with
  | .slotState j v => if j = i then { d with state := v } else d
  | .slotReason j v => if j = i then { d with reason := v } else d
  | .slotMarks j v => if j = i then { d with marks := v } else d
  | .slotSeen j v => if j = i then { d with seen := v } else d
  | .slotConsumed j v => if j = i then { d with consumed := v } else d
  | .slotSafe j v => if j = i then { d with safe := v } else d
  | .slotWritten j v => if j = i then { d with written := v } else d
  | .slotFinal j v => if j = i then { d with final := v } else d
  | .slotStats j v => if j = i then { d with stats := v } else d
  | .cellStatus j n v => if j = i then { d with cells := d.cells.set n ((d.cells.get n).1, v) } else d
  | .cellTag j n v => if j = i then { d with cells := d.cells.set n (v, (d.cells.get n).2) } else d
  | .deviceHalf j v => if j = i then v else d
  | .reqResult _ _ | .reqStatus _ _ | .reqTag _ _ | .readyWord _ _ | .recordLive _ | .recordStats _ | .recipe _ _ | .notice _ _ => d

/-- The device half of a slot as writes in their order leave it, from one that stood before. -/
def shownHalf (i : SlotNo) (posted : List Posted) (d : DeviceHalf) : DeviceHalf := posted.foldl (fun d p => p.write.show i d) d

/-- The last value written to a word of the Ready Map. -/
def shownWord (word : Nat) (posted : List Posted) : Option (BitVec 32) :=
  posted.reverse.findSome? fun p => match p.write with
    | .readyWord n v => if n = word then some v else none
    | _ => none

/-- In RUNNING and QUIESCING the host sees what the engine holds: every item of every device half but the Consumed Offset and the statistics, which stand as last
written, and every word of the Ready Map, whatever the device half held before the first write (R35, R43, R46, R50, R159, R163, R164, R172). -/
structure State.ShownOk (s : State) : Prop where
  /-- The device halves. -/
  halves : s.mayWrite = true → ∀ i d, ∃ stats,
    shownHalf i s.port.posted d = { (s.slot i).deviceHalf with consumed := (s.slot i).shown, stats := stats }
  /-- The Ready Map. -/
  ready : s.mayWrite = true → ∀ word, word < 32 → shownWord word s.port.posted = some (readyWord s.notice.ready word)
  /-- A FREE slot has no Abort Reason (R24, R39). -/
  free_reason : ∀ i, (s.slot i).state = .free → (s.slot i).reason = none

/-- The bytes of the Exchange Area that the engine owns, by their offset: the Engine Record, the Ready Map, and the device halves of the request cells and of the
slot entries (R148, R149, chapter 11.3). -/
def engineOwns (offset : Nat) : Bool :=
  decide (0x1000 ≤ offset ∧ offset < 0x2000) || decide (0x2080 ≤ offset ∧ offset < 0x2100) ||
  (decide (0x3000 ≤ offset ∧ offset < 0x4000) && decide (0x60 ≤ (offset - 0x3000) % 128)) ||
  (decide (0x4000 ≤ offset ∧ offset < 1064960) && decide (0x280 ≤ (offset - 0x4000) % 1024))

/-- A write is one of the Exchange Area, not of a recipe area or the notice address. -/
def HostWrite.inArea : HostWrite → Bool
  | .recipe _ _ | .notice _ _ => false
  | _ => true

/-- A write that any command may bring: of one of the 32 words of the Ready Map, of the header copy's Notice Word at its Notice Address, or of a device half or the
Engine Record.
A recipe entry is none of these: an EMISSION alone writes one (R119, R149, R164, R166). -/
def HostWrite.lawful (h : Header) : HostWrite → Bool
  | .readyWord word _ => decide (word < 32)
  | .notice addr word => addr == h.noticeAddress && word == h.noticeWord
  | .recipe _ _ => false
  | _ => true

end Sys2Proof.Machine
end

