-- ==== Sys2Proof/Certificates/Slice0/Obligations.lean ====
section
/-! DEFINITION. The statements about the model, in the order of OBLIGATIONS.json.
Each speaks of the commands by their meanings `exec`, but for those of a step, of a test of the chunker and of the notice test.
Where a command leaves the port's writes as they were, its next state is written from `s.begun`: `s` with none of its writes left for a reset to take back
(R169; log entry 28). -/

open Sys2Proof Sys2Proof.Machine

/-! ### The machine -/

/-- A step takes the command at the front of the queue and carries it out with the queue's rest. -/
def Obligations.StepRunsFront : Prop :=
  ∀ (c : Instr) (rest : List Instr) (s : State), s.pending = c :: rest → step s = exec c { s with pending := rest }

/-- On an empty queue a step is one period of the reference clock (R152), or the expiry of the lowest-numbered slot of which a tick has made one due.
That a period passes on an empty queue, and on no other, is the model's choice (log entry 8). -/
def Obligations.EmptyQueueIsOneClockPeriod : Prop :=
  ∀ s : State, s.pending = [] →
    (s.Settled →
      (s.time.running = false → step s = .next s) ∧
      (s.time.running = true → s.time.prescaler ≠ 0 → step s = .next { s with time := { s.time with prescaler := s.time.prescaler - 1 } }) ∧
      (s.time.running = true → s.time.prescaler = 0 → step s = exec .tick s)) ∧
    ∀ i, (s.slot i).idleDue = true → (∀ j, j < i → (s.slot j).idleDue = false) → step s = exec (.idleCountdownExpiry i) s

/-- No command touches the queue of the commands that wait, and none is refused a meaning. -/
def Obligations.CommandsLeaveTheQueue : Prop :=
  ∀ (c : Instr) (s : State), (∀ t, exec c s = .next t → t.pending = s.pending) ∧ ∀ r, exec c s ≠ .refused r

/-! ### Resets (R12, R25, R89, R90, R150, R175) -/

/-- What a reset leaves in each block, class contents of unbound slots apart (R15, R25, R47, R89, R93, R150, R152, R154, R156, R169, R175).
The 0 in a slot's recipe area address and size and in the base of the Exchange Area, and the empty index memory, are the model's choice (log entries 6 and 7). -/
def Obligations.ResetEmptiesEveryBlock : Prop :=
  State.reset.pending = [] ∧
  State.reset.ctl = { engine := .stopped, lastReset := .cold, startError := .none, faultCause := .none, starting := false, base := 0, area := 0 } ∧
  State.reset.header =
    { noticeAddress := 0, noticeWord := 0, prescalerReload := 0, activeInterval := 0, quietInterval := 0, fillDeclare := 0, fillClear := 0,
      fillLevel := 0, errorLevel := 0, requestLevel := 0 } ∧
  State.reset.time = { running := false, prescaler := 0, ticks := 0, countdown := 0 } ∧
  State.reset.sweep = { flight := none, remembered := false } ∧
  State.reset.notice.levels = [] ∧ State.reset.notice.serving = 0 ∧ State.reset.notice.last = 0 ∧
  (∀ i : SlotNo, State.reset.notice.ready.get i = false) ∧
  (∀ cell : ReqNo, State.reset.requests.get cell = { done := none, inflight := none }) ∧
  (∀ n : LaneNo, State.reset.lanes.get n = { turn := none, read := none }) ∧
  State.reset.runList = [] ∧ State.reset.lookups = [] ∧ State.reset.pool = [] ∧ State.reset.removals = [] ∧
  State.reset.index =
    { state := .unformatted, copy := { valid := false, k := 0, reserved := 0, epoch := 0, generation := 0 }, counter := 0, occupancy := 0,
      fill := .normal, fillCount := 0
      stats := { lookups := 0, inserts := 0, firms := 0, withdrawals := 0, takeovers := 0, bucketFull := 0, fillYields := 0, conflicts := 0,
                 corrected := 0, uncorrected := 0 }
      error := false, pointer := .lanes, firming := [], withdrawal := [], requests := [], scanNext := 0, scanPosition := 0, inflight := [],
      waiting := [], writes := [], writeFailed := false, format := none } ∧
  State.reset.mem = { ways := [], desc := { valid := false, k := 0, reserved := 0, epoch := 0, generation := 0 } } ∧
  State.reset.port = { posted := [], lostReads := 0, recent := 0 } ∧
  ∀ i : SlotNo, ∃ cls, State.reset.slot i =
    { state := .free, reason := none, cls := cls, start := 0, consumed := 0, final := none, safe := 0, watch := 0,
      chunker := { hash := 0, len := 0, window := [], fed := [], check := 0xFFFFFFFF, nextOrdinal := 0, finished := false },
      feed := [], pending := [], provList := [], provCount := 0, areaAddr := 0, areaSize := 0, written := 0, taken := 0, stored := 0,
      seen := 0, idle := 0, inflight := 0, marks := { recipe := false, watch := false, state := false },
      stats := { bytes := 0, resent := 0, chunks := 0, dupChunks := 0, dupBytes := 0, unindexed := 0, holds := 0 },
      extents := [], cells := Vector.replicate 16 { done := 0, status := .done, queued := none }, shown := 0 }

/-- After either kind of reset class 0 holds its reset values and the other classes are unset (R12). -/
def Obligations.ResetClassTable : Prop :=
  ∀ (c : Instr) (s t : State), isReset c = true → exec c s = .next t →
    t.classes.get 0 = some
      { min := 2048, normal := 8192, max := 32768, sstrict := 15, sloose := 11, policy := .always, provisionalLimit := 256, idleLimit := 0,
        recipeThreshold := 1, recipeLevel := 1, watchLevel := 1, stateLevel := 1 } ∧
    ∀ n : Fin 8, n ≠ 0 → t.classes.get n = none

/-- POWER_ON leaves every block as it is after a cold reset.
A warm reset, by the bus or by RESET, reads the descriptor: a valid one starts the scan with the counter at Reserved Through, any other leaves the index
UNFORMATTED; the entries in the index memory survive, and every other block is as after a cold reset.
Reads outstanding are lost, and writes issued stand, but for the last ones of the last event, which the reset may have come before (R83, R85, R89, R90, R175).
That the index memory lists no entry after power-on, which descriptor is found where a write was in hand, which writes the reset comes before, that the index memory
keeps a descriptor found uncorrectable, and that power-on's descriptor write has no read-back, are the model's choice, a free value or operands (log entries 7, 19, 28,
35 and 36). -/
def Obligations.ResetsLeaveTheirStates : Prop :=
  ∀ (s : State) (point : ResetPoint) (made : Bool) (ecc : Ecc) (d : Descriptor), made = point.made →
    (made = false ∧ d = s.mem.desc ∨ made = true ∧ s.index.writes = [] ∧ d = s.mem.desc ∨
      made = true ∧ ∃ w ws, s.index.writes = w :: ws ∧ d = w.desc) →
    ∃ (n k : Nat) (x : IndexUnit), s.port.lostReads ≤ n ∧ k ≤ s.port.recent ∧
      let port (gone : Nat) : Port := { posted := s.port.posted.take (s.port.posted.length - gone), lostReads := n, recent := 0 }
      let t := { State.reset with
        pending := s.pending, ctl := { State.reset.ctl with lastReset := .warm }, index := x, mem := { ways := s.mem.ways, desc := d }, port := port (min point.unissued s.port.recent) }
      exec .powerOn s = .next { State.reset with pending := s.pending, port := port k } ∧
      exec (.linkReset point ecc) s = .next t ∧ exec (.reset point ecc) s = .next t ∧
      (ecc ≠ .uncorrectable → d.valid = true → 12 ≤ d.k → d.k ≤ 24 → d.reserved ≤ 2 ^ 40 →
        x = { State.reset.index with
          state := .scanning, copy := d, counter := d.reserved
          stats := { EngineStats.zero with corrected := if ecc = .correctable then 1 else 0 } }) ∧
      (ecc = .uncorrectable ∨ d.valid = false ∨ d.k < 12 ∨ 24 < d.k ∨ 2 ^ 40 < d.reserved →
        x = { State.reset.index with
          error := decide (ecc = .uncorrectable)
          stats := { EngineStats.zero with
            corrected := if ecc = .correctable then 1 else 0, uncorrected := if ecc = .uncorrectable then 1 else 0 } })

/-! ### The engine's states (R170 to R174) -/

/-- START is taken in STOPPED with none in progress: the Exchange Base is checked, and a good one begins the START; at any other time it is ignored.
A START whose header, or a read of it, fails leaves the engine STOPPED with the code of the first check that failed, and nothing else changes (R170, R171). -/
def Obligations.StartIsChecked : Prop :=
  ∀ (s : State) (header : List Byte) (table : List (List Byte)),
    (s.ctl.engine = .stopped → s.ctl.starting = false →
      (s.ctl.base.toNat % 4096 = 0 ∧ s.ctl.base.toNat + 1064960 ≤ 2 ^ 64 → exec .start s = .next { s.begun with ctl := { s.ctl with starting := true } }) ∧
      (s.ctl.base.toNat % 4096 ≠ 0 ∨ 2 ^ 64 < s.ctl.base.toNat + 1064960 →
        exec .start s = .next { s.begun with ctl := { s.ctl with startError := .baseUnaligned } })) ∧
    (s.ctl.engine ≠ .stopped ∨ s.ctl.starting = true → exec .start s = .next s.begun) ∧
    (s.ctl.starting = true →
      (header.length = 4096 → field header 0 4 ≠ 0x7C32A580 ∨ field header 4 2 ≠ 1 →
        exec (.startComplete header table) s = .next { s.begun with ctl := { s.ctl with starting := false, startError := .headerMagic } }) ∧
      (header.length = 4096 → field header 0 4 = 0x7C32A580 → field header 4 2 = 1 → headerRangeOk (readHeader header) = false →
        exec (.startComplete header table) s = .next { s.begun with ctl := { s.ctl with starting := false, startError := .headerRange } }) ∧
      (s.Settled →
        exec (.hostReadFailure .start) s = .next { s.begun with ctl := { s.ctl with starting := false, startError := .busError } } ∧
        exec (.readTimeout .start) s = .next { s.begun with ctl := { s.ctl with starting := false, startError := .busError } }))

/-- A START whose checks pass writes the tags its records lack, every device half in ascending slot number and the whole Ready Map, lets each true engine condition
join its level, starts the Timebase, enters RUNNING and makes the notice test (R150, R152, R153, R158, R168, R172).
The ascending order of the tags, and of the words of the Ready Map, is the model's choice (log entry 29). -/
def Obligations.StartCompletes : Prop :=
  ∀ (s : State) (header : List Byte) (table : List (List Byte)) (h : Header) (l1 l2 : List Nat),
    s.ctl.starting = true → header.length = 4096 → table.length = 32 → (∀ b ∈ table, b.length = 96) →
    field header 0 4 = 0x7C32A580 → field header 4 2 = 1 → h = readHeader header → headerRangeOk h = true →
    l1 = (if s.index.fill = .declared ∧ h.fillLevel ≠ 0 then joinDescending h.fillLevel s.notice.levels else s.notice.levels) →
    l2 = (if s.index.error = true ∧ h.errorLevel ≠ 0 then joinDescending h.errorLevel l1 else l1) →
    ∃ (t : State) (ns : List HostWrite), exec (.startComplete header table) s = .next t ∧
      t.ctl = { s.ctl with engine := .running, startError := .none, starting := false, area := s.ctl.base.toNat } ∧
      t.header = h ∧
      t.time = { s.time with running := true, prescaler := h.prescalerReload, countdown := t.time.countdown } ∧
      ((∃ i, (s.slot i).state.isLive = true ∨ (s.slot i).state = .aborting) → t.time.countdown = h.activeInterval) ∧
      ((∀ i, (s.slot i).state.isLive = false ∧ (s.slot i).state ≠ .aborting) → t.time.countdown = h.quietInterval) ∧
      (∀ cell : ReqNo, t.requests.get cell =
        { s.requests.get cell with done := some ((s.requests.get cell).done.getD (requestTag (table.getD cell.val []))) }) ∧
      (∀ i, t.slot i = { s.slot i with shown := (s.slot i).consumed }) ∧
      t.port.lostReads = s.port.lostReads ∧
      t.port.posted = s.port.posted ++
        ((List.finRange 32).filterMap (fun cell =>
            if (s.requests.get cell).done.isNone then some (HostWrite.reqTag cell (requestTag (table.getD cell.val []))) else none) ++
          (List.finRange 1024).map (fun i => HostWrite.deviceHalf i (s.slot i).deviceHalf) ++
          (List.range 32).map (fun w => HostWrite.readyWord w (readyWord s.notice.ready w)) ++ ns).map (Posted.mk s.ctl.base.toNat) ∧
      (∀ m ms, l2 = m :: ms → s.notice.serving < m →
        t.notice = { s.notice with levels := ms, serving := m, last := m } ∧ ns = [.notice h.noticeAddress h.noticeWord]) ∧
      ((∀ m ms, l2 = m :: ms → m ≤ s.notice.serving) → t.notice = { s.notice with levels := l2 } ∧ ns = []) ∧
      t = { s with ctl := t.ctl, header := t.header, time := t.time, requests := t.requests, slots := t.slots, notice := t.notice, port := t.port }

/-- QUIESCE takes RUNNING to QUIESCING and is ignored in every other state.
The engine passes to STOPPED, its Timebase stopped and the remembered mark cleared, where it is QUIESCING and nothing of R173 remains, and only there; no slot's
context changes with it (R46, R152, R154, R170, R173).
That a sweep a tick has made due and a removal that an abort has asked for also keep it from STOPPED is the model's choice (log entries 8 and 24),
and so is that it waits for no sweep to end in QUIESCING (log entry 34). -/
def Obligations.QuiesceAndStop : Prop :=
  ∀ s : State, s.Settled →
    (s.ctl.engine = .running → exec .quiesce s = .next { s.begun with ctl := { s.ctl with engine := .quiescing } }) ∧
    (s.ctl.engine ≠ .running → exec .quiesce s = .next s.begun) ∧
    ∀ t, exec .enterStopped s = .next t ↔
      (s.ctl.engine = .quiescing ∧ s.sweep.flight = none ∧ (s.time.running = false ∨ s.time.countdown ≠ 0) ∧
        (∀ n : LaneNo, s.lanes.get n = { turn := none, read := none }) ∧
        s.lookups = [] ∧ s.index.firming = [] ∧ s.index.withdrawal = [] ∧ s.index.requests = [] ∧ s.removals = [] ∧
        (∀ o ∈ s.index.inflight, ∃ b, o.kind = .scan b) ∧ s.index.format = none ∧ s.index.writes = [] ∧
        (∀ cell : ReqNo, (s.requests.get cell).inflight = none) ∧ (∀ i, (s.slot i).emittable = none)) ∧
      t = { s.begun with
        ctl := { s.ctl with engine := .stopped }, time := { s.time with running := false },
        sweep := { s.sweep with remembered := false } }

/-- A write of the Exchange Base replaces the bytes it covers, in STOPPED with no START in progress, and is ignored at any other time.
A write to Identity, to Engine Status, to an unused offset of the window, or of an Engine Command value other than 1, 2 and 3, changes nothing (R160, R161). -/
def Obligations.RegisterWrites : Prop :=
  ∀ (s : State) (first : Fin 8) (data : List Byte) (offset : Nat) (value : BitVec 64),
    (s.ctl.engine = .stopped → s.ctl.starting = false → ∃ base : BitVec 64,
      exec (.exchangeBase first data) s = .next { s.begun with ctl := { s.ctl with base := base } } ∧
      ∀ i : Fin 8, base.extractLsb' (8 * i.val) 8 =
        if first.val ≤ i.val ∧ i.val < first.val + data.length then data.getD (i.val - first.val) 0
        else s.ctl.base.extractLsb' (8 * i.val) 8) ∧
    (s.ctl.engine ≠ .stopped ∨ s.ctl.starting = true → exec (.exchangeBase first data) s = .next s.begun) ∧
    (offset < 0x10 ∨ 0x14 ≤ offset ∧ offset < 0x18 ∨ 0x28 ≤ offset ∧ offset < 64 →
      exec (.registerWriteIgnored offset value) s = .next s.begun) ∧
    (value.toNat % 2 ^ 32 ≠ 1 → value.toNat % 2 ^ 32 ≠ 2 → value.toNat % 2 ^ 32 ≠ 3 →
      exec (.registerWriteIgnored 0x10 value) s = .next s.begun)

/-- In RUNNING and QUIESCING a write to Sweep Now starts a sweep at once over the flagged slots in ascending order, or is remembered while one is in flight; in
STOPPED and FAULTED it is ignored.
The sweep countdown at 0 starts a sweep likewise where none is in flight, and does nothing where one is (R153, R154, R155).
That a write meets the sweep that a tick has made due as started is the model's choice (log entry 8). -/
def Obligations.SweepsStart : Prop :=
  ∀ (s : State) (value : BitVec 32) (map : List Byte) (left : List SlotNo), s.Settled → map.length = 128 →
    left = (List.finRange 1024).filter (fun i => (map.getD (i.val / 8) 0).getLsbD (i.val % 8)) →
    (s.ctl.engine = .stopped ∨ s.ctl.engine = .faulted → exec (.sweepNow value map) s = .next s.begun) ∧
    (s.ctl.engine = .running ∨ s.ctl.engine = .quiescing →
      (s.sweep.flight.isSome = true → exec (.sweepNow value map) s = .next { s.begun with sweep := { s.sweep with remembered := true } }) ∧
      (s.sweep.flight = none → s.time.running = false ∨ s.time.countdown ≠ 0 →
        exec (.sweepNow value map) s = .next { s.begun with sweep := { s.sweep with flight := some (.slots left) } }) ∧
      (s.sweep.flight = none → s.time.running = true → s.time.countdown = 0 →
        exec (.sweepNow value map) s = .next { s.begun with sweep := { flight := some (.slots left), remembered := true } } ∧
        exec (.sweepCountdownExpiry map) s = .next { s.begun with sweep := { s.sweep with flight := some (.slots left) } }) ∧
      (s.sweep.flight.isSome = true → s.time.running = true → s.time.countdown = 0 → exec (.sweepCountdownExpiry map) s = .next s.begun))

/-! ### Notices (R132, R161 to R167) -/

/-- The conditions of a slot are decided by the table of R132, and those of level 0 are not recorded.
Where they differ from the condition set, one write carries the set, and behind it, where the slot's flag of the Ready Map changes, the word that holds the flag;
and the level of each condition that goes from false to true joins the pending level set.
Where they do not differ, nothing is written or joined (R132, R162, R163, R164, R165). -/
def Obligations.ConditionsAreHandedOn : Prop :=
  ∀ (s t : State) (i : SlotNo) (c : Slot) (recipe watch state : Prop) (m : Marks), c = s.slot i → t = s.refresh i →
    (recipe ↔ c.state ≠ .free ∧ (c.cls.recipeThreshold ≤ c.written - c.taken ∨
      (c.state = .settling ∨ c.state = .closed ∨ c.state = .aborted) ∧ c.taken < c.written)) →
    (watch ↔ c.state ≠ .free ∧ c.watch ≠ 0 ∧ c.watch ≤ c.safe) → (state ↔ c.state = .closed ∨ c.state = .aborted) →
    (m.recipe = true ↔ recipe ∧ c.cls.recipeLevel ≠ 0) → (m.watch = true ↔ watch ∧ c.cls.watchLevel ≠ 0) →
    (m.state = true ↔ state ∧ c.cls.stateLevel ≠ 0) →
    (c.marks = m → t = s) ∧
    (c.marks ≠ m →
      t = { s with slots := t.slots, notice := { s.notice with levels := t.notice.levels, ready := t.notice.ready }, port := t.port } ∧
      t.slot i = { c with marks := m } ∧ (∀ j, j ≠ i → t.slot j = s.slot j) ∧
      t.notice.ready.get i = (m.recipe || m.watch || m.state) ∧ (∀ j, j ≠ i → t.notice.ready.get j = s.notice.ready.get j) ∧
      (∀ l, l ∈ t.notice.levels ↔ l ∈ s.notice.levels ∨ m.recipe = true ∧ c.marks.recipe = false ∧ l = c.cls.recipeLevel ∨
        m.watch = true ∧ c.marks.watch = false ∧ l = c.cls.watchLevel ∨ m.state = true ∧ c.marks.state = false ∧ l = c.cls.stateLevel) ∧
      (s.mayWrite = true → s.Writes t (HostWrite.slotMarks i m ::
        if s.notice.ready.get i = (m.recipe || m.watch || m.state) then []
        else [.readyWord (i.val / 32) (readyWord t.notice.ready (i.val / 32))])) ∧
      (s.mayWrite = false → t.port = s.port))

/-- A level that joins the pending level set stands in it once, highest first.
At the end of an event that has added a level the notice test is made, after every write of the event: in RUNNING a highest level above the Serving Level is sent,
and becomes the Serving Level and the last notice level.
A write of the Serving Level holds the value, at most 7, and makes the same test against it (R161, R165, R166, R167).
That the test is made once for an event, at its end and behind every write of it, is the model's choice (log entry 25); that the port counts the writes of the last
event serves the resets (log entry 28). -/
def Obligations.LevelsAreSent : Prop :=
  ∀ (s t : State) (l : Nat) (ls : List Nat) (value : BitVec 32) (v : Nat) (sent : HostWrite), l ≠ 0 → ls = joinDescending l s.notice.levels →
    v = min value.toNat 7 → sent = .notice t.header.noticeAddress t.header.noticeWord →
    (s.joinLevel l = { s with notice := { s.notice with levels := ls } } ∧ s.joinLevel 0 = s ∧ (∀ x, x ∈ ls ↔ x = l ∨ x ∈ s.notice.levels) ∧
      (s.notice.levels.Pairwise (· > ·) → ls.Pairwise (· > ·))) ∧
    (∀ m ms, t.notice.levels ≠ s.notice.levels → t.ctl.engine = .running → t.notice.levels = m :: ms → t.notice.serving < m →
      (s.endEvent t).notice = { t.notice with levels := ms, serving := m, last := m } ∧ t.Writes (s.endEvent t) [sent]) ∧
    (t.notice.levels = s.notice.levels ∨ t.ctl.engine ≠ .running ∨ (∀ m ms, t.notice.levels = m :: ms → m ≤ t.notice.serving) →
      (s.endEvent t).notice = t.notice ∧ t.Writes (s.endEvent t) []) ∧
    s.endEvent t = { t with notice := (s.endEvent t).notice, port := (s.endEvent t).port } ∧
    (∀ ws, (s.endEvent t).port.posted = s.port.posted ++ ws → (s.endEvent t).port.recent = ws.length) ∧
    (t.Settled →
      (∀ m ms, t.ctl.engine = .running → t.notice.levels = m :: ms → v < m → ∃ u, exec (.servingLevel value) t = .next u ∧ t.Writes u [sent] ∧
        u = { t with notice := { t.notice with levels := ms, serving := m, last := m }, port := u.port }) ∧
      (t.ctl.engine ≠ .running ∨ (∀ m ms, t.notice.levels = m :: ms → m ≤ v) →
        exec (.servingLevel value) t = .next { t.begun with notice := { t.notice with serving := v } }))

/-! ### The Timebase (R41, R42, R152, R153) -/

/-- A tick loads the prescaler, counts modulo 2^32 and lowers the sweep countdown; in RUNNING it lowers the idle countdown of each ACTIVE slot that waits for the
host, and of no other (R41, R152, R153). -/
def Obligations.TickCounts : Prop :=
  ∀ s : State, s.Settled → s.time.running = true → ∃ t, exec .tick s = .next t ∧
    t = { s.begun with time := t.time, slots := t.slots } ∧
    t.time = { s.time with prescaler := s.header.prescalerReload, ticks := s.time.ticks + 1, countdown := s.time.countdown - 1 } ∧
    ∀ i,
      (s.ctl.engine = .running → (s.slot i).state = .active → (s.slot i).cls.idleLimit ≠ 0 → (s.slot i).chunker.finished = false →
        (s.slot i).finalDue = false → (s.slot i).headUsable = false → t.slot i = { s.slot i with idle := (s.slot i).idle - 1 }) ∧
      (s.ctl.engine ≠ .running ∨ (s.slot i).state ≠ .active ∨ (s.slot i).cls.idleLimit = 0 ∨ (s.slot i).chunker.finished = true ∨
        (s.slot i).finalDue = true ∨ (s.slot i).headUsable = true → t.slot i = s.slot i)

/-- An idle countdown that a tick has brought to 0 aborts the stream with reason IDLE; a slot that is no longer live is left as it is (R29, R42).
Every other event, but a reset and the commands of STOPPED, finds the expiries that are due taken, so that it meets those streams ABORTING; so a CLOSE or an ABORT of
such a slot is answered STATE.
That several due expiries are taken in ascending slot number is the model's choice (log entry 8), and so are that the Abort Reason is written before the Consumed
Offset and that the conditions are decided once, at the event's end (log entries 29 and 25). -/
def Obligations.IdleExpiryAborts : Prop :=
  (∀ (s : State) (i : SlotNo) (cell : ReqNo) (final : Nat) (tag : Tag) (rest : List TakenRequest),
    ((s.slot i).state.isLive = false → exec (.idleCountdownExpiry i) s = .next s.begun) ∧
    ((s.slot i).state.isLive = true → (s.slot i).cls.idleLimit ≠ 0 → (s.slot i).idle = 0 →
      (∃ t, exec (.idleCountdownExpiry i) s = .next t ∧ s.Aborts t i .idle ∧ t.sweep = s.sweep ∧ t.requests = s.requests ∧
        (t.slot i).marks = (t.slot i).marksDue ∧
        (s.mayWrite = true → ∃ ws, s.Writes t
          ([HostWrite.slotReason i (some .idle), .slotConsumed i (s.slot i).consumed, .slotState i .aborting] ++ ws)) ∧
        (s.mayWrite = false → t.port = s.begun.port) ∧
        ((∀ j, j < i → (s.slot j).idleDue = false) → s.settled = t.settled)) ∧
      ((∀ j, j ≠ i → (s.slot j).idleDue = false) → s.mayWrite = true → (s.requests.get cell).inflight = some tag →
        (s.sweep.flight = some (.requests ({ cell := cell, request := .close i.val final } :: rest)) →
          ∃ t ws, exec (.close cell) s = .next t ∧ s.Aborts t i .idle ∧ s.Answered t cell tag ws .state) ∧
        (s.sweep.flight = some (.requests ({ cell := cell, request := .abort i.val } :: rest)) →
          ∃ t ws, exec (.abort cell) s = .next t ∧ s.Aborts t i .idle ∧ s.Answered t cell tag ws .state)))) ∧
  ∀ (c : Instr) (s : State), s.settled.Settled ∧ (s.Settled → s.settled = s.begun) ∧ (takesNoExpiry c = false → exec c s = exec c s.settled)

/-! ### Sweeps (R40, R48 to R53, R82, R102, R125, R126, R129, R131, R151, R155, R156, R159) -/

/-- The next flagged slot is passed over where it is FREE or its Post Sequence equals its Seen Sequence; any other has its host half taken.
Stored Through and Recipe Taken are held at Recipe Written where read above it and ignored where read below the held value.
A raise of Stored Through replaces and writes the Safe Offset, by the end of the last entry below it, and issues a FIRM for each listed record below it, in list
order; the Watch Offset is the value read; the idle countdown of a live slot is loaded; and the Seen Sequence is the Post Sequence read, but for a live slot in
QUIESCING, whose cells are left too.
The writes of these are, in order, the Seen Sequence where it changes, the Safe Offset where Stored Through is raised, and where the slot comes to CLOSED or, by a raise
of Recipe Taken, to another open state, those of the change; with no raise no Safe Offset is written.
After the cells the conditions are handed on; only this slot's context is touched, and no Recipe Written (R40, R102, R125, R126, R129, R131, R132, R151, R155).
The order of these within the event is the model's choice, and so is that a slot passed over takes the command too (log entries 14 and 23). -/
def Obligations.SlotIsSwept : Prop :=
  ∀ (s : State) (i : SlotNo) (post : BitVec 32) (half : List Byte) (left : List SlotNo), s.Settled → s.sweep.flight = some (.slots (i :: left)) →
    (post = (s.slot i).seen ∨ (s.slot i).state = .free → exec (.slotHostHalfTaken i post half) s =
      .next { s.begun with sweep := { s.sweep with flight := some (.slots left) } }) ∧
    (post ≠ (s.slot i).seen → (s.slot i).state ≠ .free → half.length = 640 →
    ∃ t u : State, exec (.slotHostHalfTaken i post half) s = .next t ∧
      t = s.endEvent ((if s.ctl.engine = .running then (List.finRange 16).foldl (fun v n => v.takeCell i half n) u else u).refresh i) ∧
      (u.slot i).stored = (if (s.slot i).written < field half 0x008 6 then max (s.slot i).stored (s.slot i).written
        else max (s.slot i).stored (field half 0x008 6)) ∧
      (u.slot i).taken = (if (s.slot i).written < field half 0x010 6 then max (s.slot i).taken (s.slot i).written
        else max (s.slot i).taken (field half 0x010 6)) ∧
      (u.slot i).watch = field half 0x018 6 ∧
      (u.slot i).idle = (if (s.slot i).state.isLive then (s.slot i).cls.idleLimit else (s.slot i).idle) ∧
      (u.slot i).seen = (if s.ctl.engine = .quiescing ∧ (s.slot i).state.isLive = true then (s.slot i).seen else field32 half 0x000) ∧
      ((u.slot i).stored = (s.slot i).stored →
        (u.slot i).safe = (s.slot i).safe ∧ (u.slot i).extents = (s.slot i).extents ∧ u.index = s.index ∧ u.pool = s.pool ∧
        (u.slot i).inflight = (s.slot i).inflight ∧ (u.slot i).provList = (s.slot i).provList ∧ (u.slot i).provCount = (s.slot i).provCount) ∧
      ((s.slot i).stored < (u.slot i).stored →
        (∀ e es fs, (s.slot i).extents = es ++ e :: fs → (∀ x ∈ es ++ [e], x.ordinal < (u.slot i).stored) →
          (∀ x, fs.head? = some x → (u.slot i).stored ≤ x.ordinal) → (u.slot i).safe = e.stop ∧ (u.slot i).extents = fs) ∧
        ((∀ x, (s.slot i).extents.head? = some x → (u.slot i).stored ≤ x.ordinal) →
          (u.slot i).safe = (s.slot i).safe ∧ (u.slot i).extents = (s.slot i).extents) ∧
        ∀ below : Nat → Bool, (∀ r, below r = true ↔ ∃ p, s.record r = some p ∧ p.ordinal < (u.slot i).stored) →
          u.index = { s.index with firming := s.index.firming ++ (s.slot i).provList.filter below } ∧
          (u.slot i).inflight = (s.slot i).inflight + ((s.slot i).provList.filter below).length ∧
          (u.slot i).provList = (s.slot i).provList.filter (fun r => !below r) ∧
          (u.slot i).provCount = (s.slot i).provCount - ((s.slot i).provList.filter below).length ∧
          (∀ r p, s.record r = some p → r ∈ (s.slot i).provList → below r = true → u.record r = some { p with disp := .firming }) ∧
          ∀ r, r ∉ (s.slot i).provList ∨ below r = false → u.record r = s.record r) ∧
      (let closes : Prop := (s.slot i).stored < (u.slot i).stored ∧ (s.slot i).state = .settling ∧ (u.slot i).stored = (s.slot i).written ∧
          (u.slot i).inflight = 0
        let moves : Prop := (s.slot i).taken < (u.slot i).taken ∧ (s.slot i).state.isOpen = true ∧ (u.slot i).decided ≠ (s.slot i).state
        (closes → (u.slot i).state = .closed) ∧ (moves → (u.slot i).state = (u.slot i).decided) ∧
        (¬closes → ¬moves → (u.slot i).state = (s.slot i).state) ∧
        ∀ seen safe close move : List HostWrite, s.mayWrite = true →
          seen = (if s.ctl.engine = .quiescing ∧ (s.slot i).state.isLive = true then [] else [.slotSeen i (field32 half 0x000)]) →
          safe = (if (s.slot i).stored < (u.slot i).stored then [.slotSafe i (u.slot i).safe] else []) →
          (closes ∧ close = [.slotStats i (s.slot i).stats, .slotConsumed i (s.slot i).consumed, .slotState i .closed] ∨ ¬closes ∧ close = []) →
          (moves ∧ move = [.slotConsumed i (s.slot i).consumed, .slotState i (u.slot i).decided] ∨ ¬moves ∧ move = []) →
          s.Writes u (seen ++ safe ++ close ++ move)) ∧
      u.slot i = { s.slot i with
        stored := (u.slot i).stored, taken := (u.slot i).taken, watch := (u.slot i).watch, idle := (u.slot i).idle, seen := (u.slot i).seen,
        safe := (u.slot i).safe, extents := (u.slot i).extents, inflight := (u.slot i).inflight, provList := (u.slot i).provList,
        provCount := (u.slot i).provCount, state := (u.slot i).state, shown := (u.slot i).shown } ∧
      u = { s with
        sweep := { s.sweep with flight := some (.slots left) }, slots := u.slots, index := u.index, pool := u.pool, port := u.port } ∧
      (t.slot i).stored = (u.slot i).stored ∧ (t.slot i).taken = (u.slot i).taken ∧ (t.slot i).watch = (u.slot i).watch ∧
      (t.slot i).written = (s.slot i).written ∧ (t.slot i).safe = (u.slot i).safe ∧ (t.slot i).extents = (u.slot i).extents ∧
      (t.slot i).idle = (u.slot i).idle ∧ (t.slot i).seen = (u.slot i).seen ∧ t.index.firming = u.index.firming ∧
      (t.slot i).inflight = (u.slot i).inflight ∧ ((t.slot i).provList = (u.slot i).provList ∨ (t.slot i).provList = []) ∧
      (s.ctl.engine = .quiescing → (t.slot i).cells = (s.slot i).cells ∧ (t.slot i).feed = (s.slot i).feed) ∧
      (t.slot i).marks = (t.slot i).marksDue ∧ t.sweep = { s.sweep with flight := some (.slots left) } ∧
      (∀ j, j ≠ i → t.slot j = s.slot j ∧ u.slot j = s.slot j) ∧ t.mem = s.mem ∧ t.ctl = s.ctl ∧ t.header = s.header ∧ t.time = s.time ∧
      t.classes = s.classes ∧ t.requests = s.requests)

/-- In RUNNING the 16 cells of a host half are taken in ascending number, each against the context as the one before has left it.
A cell is passed over where its slot is no longer live, while it is queued, or where its Post Tag equals its done tag.
Any other is answered REFUSED, DONE for no bytes, or RESENT; aborts its stream with OVERRUN; or joins the Feed Queue in the order of Offset and cell number and becomes
queued, which may make the stream eligible, or abort it with GAP where it is the 16th and none is usable (R17, R43, R48, R49, R50, R51, R52, R53).
That the cells come after the control words, so that those of a stream which these have brought to CLOSED are passed over, is the model's choice (log entry 14). -/
def Obligations.CellsAreTaken : Prop :=
  (∀ (s : State) (i : SlotNo) (post : BitVec 32) (half : List Byte) (left : List SlotNo), s.Settled → s.ctl.engine = .running →
    s.sweep.flight = some (.slots (i :: left)) → post ≠ (s.slot i).seen → (s.slot i).state ≠ .free → half.length = 640 →
    ∃ u : State,
      (u.slot i).cells = (s.slot i).cells ∧ (u.slot i).feed = (s.slot i).feed ∧ (u.slot i).consumed = (s.slot i).consumed ∧
      (u.slot i).final = (s.slot i).final ∧ (u.slot i).stats = (s.slot i).stats ∧ (u.slot i).pending = (s.slot i).pending ∧
      ((s.slot i).state.isOpen = true → (u.slot i).state = (u.slot i).decided ∨ (u.slot i).state = (s.slot i).state) ∧ u.ctl = s.ctl ∧
      u.runList = s.runList ∧
      exec (.slotHostHalfTaken i post half) s =
        .next (s.endEvent (((List.finRange 16).foldl (fun v n => v.takeCell i half n) u).refresh i))) ∧
  ∀ (s t : State) (i : SlotNo) (half : List Byte) (n : CellNo) (g : Segment), t = s.takeCell i half n →
    g = { cell := n, addr := field half (0x080 + 32 * n.val) 8, offset := field half (0x080 + 32 * n.val + 0x08) 8,
          length := field half (0x080 + 32 * n.val + 0x10) 4, tag := tagAt half (0x080 + 32 * n.val + 0x14), count := 0 } →
    let c := s.slot i
    let passed : Prop := c.state.isLive = false ∨ (c.cells.get n).queued ≠ none ∨ g.tag = (c.cells.get n).done
    let refused : Prop := 1048576 < g.length ∨ 2 ^ 48 ≤ g.offset + g.length ∨ 2 ^ 64 < g.addr + g.length
    let answered (status : CellStatus) (stats : SlotStats) : Prop :=
      t = { s with slots := t.slots, port := t.port } ∧ (∀ j, j ≠ i → t.slot j = s.slot j) ∧
      t.slot i = { c with cells := c.cells.set n { done := g.tag, status := status, queued := none }, stats := stats } ∧
      (s.mayWrite = true → s.Writes t [.cellStatus i n status, .cellTag i n g.tag])
    (passed → t = s) ∧
    (¬passed → refused → answered .refused c.stats) ∧
    (¬passed → ¬refused → g.length = 0 → answered .done c.stats) ∧
    (¬passed → ¬refused → g.length ≠ 0 → g.offset + g.length ≤ c.consumed →
      answered .resent { c.stats with resent := min (c.stats.resent + g.length) (2 ^ 48 - 1) }) ∧
    (¬passed → ¬refused → g.length ≠ 0 → c.consumed < g.offset + g.length →
      (∀ f, c.final = some f → f < g.offset + g.length → s.Aborts t i .overrun) ∧
      ((∀ f, c.final = some f → g.offset + g.length ≤ f) →
        ∀ (as bs feed : List Segment), c.feed = as ++ bs → feed = as ++ g :: bs →
          (∀ x ∈ as, x.offset < g.offset ∨ x.offset = g.offset ∧ x.cell < n) →
          (∀ x, bs.head? = some x → g.offset < x.offset ∨ g.offset = x.offset ∧ n ≤ x.cell) →
          (feed.length = 16 → (∀ x, feed.head? = some x → c.consumed < x.offset) → s.Aborts t i .gap) ∧
          (feed.length ≠ 16 ∨ (∃ x, feed.head? = some x ∧ x.offset ≤ c.consumed) →
            t = { s with slots := t.slots, runList := t.runList } ∧ (∀ j, j ≠ i → t.slot j = s.slot j) ∧
            t.slot i = { c with feed := feed, cells := c.cells.set n { c.cells.get n with queued := some g.tag } } ∧
            t.runList = if (t.slot i).eligible = true ∧ i ∉ s.runList ∧ s.worked i = false then s.runList ++ [i] else s.runList)))

/-- The Request Table is read in RUNNING, when every flagged slot has been taken: each cell with no In-flight Tag whose post tag is not its Done Tag is taken, in
ascending cell number, with the kind and operands of the same read (R155, R156). -/
def Obligations.RequestTableIsRead : Prop :=
  ∀ (s : State) (table : List (List Byte)), s.Settled → s.ctl.engine = .running → s.sweep.flight = some (.slots []) →
    table.length = 32 → (∀ b ∈ table, b.length = 96) →
    ∃ t, exec (.requestTableRead table) s = .next t ∧ t = { s.begun with requests := t.requests, sweep := t.sweep } ∧
      t.sweep = { s.sweep with flight := some (.requests
        ((List.finRange 32).filterMap fun cell =>
          if (s.requests.get cell).inflight = none ∧ (s.requests.get cell).done ≠ some (tagAt (table.getD cell.val []) 1) then
            some { cell := cell, request := readRequest (table.getD cell.val []) }
          else none)) } ∧
      ∀ cell : ReqNo, t.requests.get cell =
        if (s.requests.get cell).inflight = none ∧ (s.requests.get cell).done ≠ some (tagAt (table.getD cell.val []) 1) then
          { s.requests.get cell with inflight := some (tagAt (table.getD cell.val []) 1) }
        else s.requests.get cell

/-- A sweep ends, with every request taken carried out, or in QUIESCING with every flagged slot taken.
The fill watch is evaluated by the table of R82 where the index is READY, the Consumed Offsets that differ from the ones last written are written and behind them
the live fields as they then stand, the countdown is loaded, and a remembered Sweep Now starts the next sweep (R46, R82, R153, R154, R159).
The ascending order of the Consumed Offsets is the model's choice (log entry 29), and so is that the index state is looked at when the sweep ends (log entry 33). -/
def Obligations.SweepEnds : Prop :=
  ∀ (s : State) (map : List Byte), s.Settled → s.mayWrite = true →
    (s.sweep.flight = some (.requests []) ∨ s.ctl.engine = .quiescing ∧ s.sweep.flight = some (.slots [])) → map.length = 128 →
    ∃ t ns, exec (.sweepEnd map) s = .next t ∧
      t = { s with
        time := { s.time with countdown := t.time.countdown }, sweep := t.sweep, slots := t.slots,
        index := { s.index with fill := t.index.fill, fillCount := t.index.fillCount }, notice := t.notice, port := t.port } ∧
      (s.index.state ≠ .ready → t.index = s.index ∧ t.notice = s.notice ∧ ns = []) ∧
      (∀ declare clear, declare = s.header.fillDeclare * 2 ^ (s.index.copy.k + 4) / 1024 →
        clear = s.header.fillClear * 2 ^ (s.index.copy.k + 4) / 1024 → s.index.state = .ready →
        (s.index.fill = .normal → declare ≤ s.index.occupancy → s.index.fillCount + 1 = 2 →
          t.index.fill = .declared ∧ t.index.fillCount = 0 ∧ t.notice = (s.raiseLevel s.header.fillLevel).notice ∧
            (s.raiseLevel s.header.fillLevel).port.posted = s.port.posted ++ ns.map (Posted.mk s.ctl.area)) ∧
        (s.index.fill = .normal → declare ≤ s.index.occupancy → s.index.fillCount + 1 ≠ 2 →
          t.index.fill = .normal ∧ t.index.fillCount = s.index.fillCount + 1 ∧ t.notice = s.notice ∧ ns = []) ∧
        (s.index.fill = .normal → s.index.occupancy < declare →
          t.index.fill = .normal ∧ t.index.fillCount = 0 ∧ t.notice = s.notice ∧ ns = []) ∧
        (s.index.fill = .declared → s.index.occupancy < clear → s.index.fillCount + 1 = 2 →
          t.index.fill = .normal ∧ t.index.fillCount = 0 ∧ t.notice = s.notice ∧ ns = []) ∧
        (s.index.fill = .declared → s.index.occupancy < clear → s.index.fillCount + 1 ≠ 2 →
          t.index.fill = .declared ∧ t.index.fillCount = s.index.fillCount + 1 ∧ t.notice = s.notice ∧ ns = []) ∧
        (s.index.fill = .declared → clear ≤ s.index.occupancy →
          t.index.fill = .declared ∧ t.index.fillCount = 0 ∧ t.notice = s.notice ∧ ns = [])) ∧
      s.Writes t (ns ++
        (List.finRange 1024).filterMap (fun i =>
          if (s.slot i).consumed = (s.slot i).shown then none else some (HostWrite.slotConsumed i (s.slot i).consumed)) ++
        [HostWrite.recordLive
          { engine := s.ctl.engine, fill := t.index.fill, last := t.notice.last, error := s.index.error, ticks := s.time.ticks,
            counter := s.index.counter, occupancy := s.index.occupancy }]) ∧
      (∀ i, t.slot i = { s.slot i with shown := (s.slot i).consumed }) ∧
      ((∃ i, (s.slot i).state.isLive = true ∨ (s.slot i).state = .aborting) → t.time.countdown = s.header.activeInterval) ∧
      ((∀ i, (s.slot i).state.isLive = false ∧ (s.slot i).state ≠ .aborting) → t.time.countdown = s.header.quietInterval) ∧
      (s.sweep.remembered = false → t.sweep = { flight := none, remembered := false }) ∧
      (s.sweep.remembered = true → t.sweep =
        { flight := some (.slots ((List.finRange 1024).filter fun i => (map.getD (i.val / 8) 0).getLsbD (i.val % 8))), remembered := false })

/-! ### Requests (R13, R33 to R39, R44, R86, R138, R141, R143, R146, R156, R157) -/

/-- A FORMAT that fails a check of R86 is answered with its status and changes nothing else; one that passes makes the index FORMATTING and the fill watch NORMAL
with count 0, clears the copy's valid marker and issues the first descriptor write, and is not answered yet (R82, R86, step 1 of R87). -/
def Obligations.FormatRequest : Prop :=
  ∀ (s : State) (cell : ReqNo) (k start : Nat) (epoch : BitVec 32) (tag : Tag) (rest : List TakenRequest),
    s.AtRequest cell (.format k start epoch) tag rest →
    (s.index.state = .formatting ∨ s.index.state = .scanning →
      ∃ t, exec (.format cell) s = .next t ∧ s.Answered t cell tag [] .busy ∧ s.OnlyAnswered t rest) ∧
    (s.index.state = .unformatted ∨ s.index.state = .ready →
      (k < 12 ∨ 24 < k ∨ 2 ^ 40 ≤ start →
        ∃ t, exec (.format cell) s = .next t ∧ s.Answered t cell tag [] .range ∧ s.OnlyAnswered t rest) ∧
      (12 ≤ k → k ≤ 24 → start < 2 ^ 40 →
        ((∃ i, (s.slot i).state ≠ .free) →
          ∃ t, exec (.format cell) s = .next t ∧ s.Answered t cell tag [] .state ∧ s.OnlyAnswered t rest) ∧
        ((∀ i, (s.slot i).state = .free) →
          exec (.format cell) s = .next { s.begun with
            sweep := { s.sweep with flight := some (.requests rest) }
            index := { s.index with
              state := .formatting, fill := .normal, fillCount := 0, copy := { s.index.copy with valid := false }
              format := some { cell := cell, k := k, counterStart := start, epochStart := epoch, cleared := false }
              writes := s.index.writes ++ [{ desc := { s.index.copy with valid := false }, use := .formatStart }] } })))

/-- A SET_CLASS whose values meet every constraint of R13 replaces the class as a whole and makes it valid, and is answered DONE; any other is answered RANGE and
leaves the Class Table (R13). -/
def Obligations.SetClassRequest : Prop :=
  ∀ (s : State) (cell : ReqNo) (c : ClassRequest) (tag : Tag) (rest : List TakenRequest) (ok : Prop), s.AtRequest cell (.setClass c) tag rest →
    (ok ↔ c.cls ≤ 7 ∧ (256 ≤ c.min ∧ c.min ≤ 32768) ∧ c.max ≤ 65536 ∧ c.min ≤ c.normal ∧ c.normal ≤ c.max ∧ c.sstrict ≤ 24 ∧ c.sloose ≤ c.sstrict ∧
      (c.policy = 0 ∨ c.policy = 1) ∧ (1 ≤ c.provisionalLimit ∧ c.provisionalLimit ≤ 512) ∧ (1 ≤ c.recipeThreshold ∧ c.recipeThreshold ≤ 65536) ∧
      c.recipeLevel ≤ 7 ∧ c.watchLevel ≤ 7 ∧ c.stateLevel ≤ 7) →
    (¬ok → ∃ t, exec (.setClass cell) s = .next t ∧ s.Answered t cell tag [] .range ∧ s.OnlyAnswered t rest) ∧
    (ok → ∀ n : Fin 8, n.val = c.cls → ∃ t, exec (.setClass cell) s = .next t ∧ s.Answered t cell tag [] .done ∧
      State.OnlyAnswered { s with classes := (s.classes.set n (some
        { min := c.min, normal := c.normal, max := c.max, sstrict := c.sstrict, sloose := c.sloose, policy := if c.policy = 0 then .always else .yield,
          provisionalLimit := c.provisionalLimit, idleLimit := c.idleLimit, recipeThreshold := c.recipeThreshold, recipeLevel := c.recipeLevel,
          watchLevel := c.watchLevel, stateLevel := c.stateLevel })) } t rest)

/-- An OPEN that passes its checks replaces the slot's context as the last column of R24 gives it, with the class as it then stands and the tags and Post Sequence
read, writes the device half in the order of R35, and is answered DONE.
One that fails a check is answered with the status of the first that fails, in the order index state, slot number, FREE, class, recipe area, and changes nothing in
the Context Store (R14, R24, R33, R34, R35, R46, R47, R67).
That the slot number comes after the index state and before FREE is deduced (log entry 17); that the cells are written in ascending number is the model's choice (log
entry 29). -/
def Obligations.OpenRequest : Prop :=
  (∀ (s : State) (cell : ReqNo) (half : List Byte) (i : SlotNo) (n : Fin 8) (cls : ChunkClass) (start addr size : Nat) (tag : Tag)
      (rest : List TakenRequest),
      s.AtRequest cell (.openStream i.val n.val start addr size) tag rest → s.index.state = .ready → (s.slot i).state = .free →
      s.classes.get n = some cls → 64 ≤ size → size ≤ 65536 → addr % 64 = 0 → addr + 64 * size ≤ 2 ^ 64 → half.length = 640 →
      ∃ t, exec (.openStream cell half) s = .next t ∧
        s.Answered t cell tag
          ((List.finRange 16).flatMap (fun m => [HostWrite.cellStatus i m .done, HostWrite.cellTag i m (tagAt half (0x080 + 32 * m.val + 0x14))]) ++
            [.slotSeen i (field32 half 0x000), .slotConsumed i start, .slotSafe i start, .slotWritten i 0, .slotFinal i none,
              .slotMarks i { recipe := false, watch := false, state := false },
              .slotStats i { bytes := 0, resent := 0, chunks := 0, dupChunks := 0, dupBytes := 0, unindexed := 0, holds := 0 },
              .slotState i .active]) .done ∧
        State.OnlyAnswered { s with slots := (s.slots.set i
          { state := .active, reason := none, cls := cls, start := start, consumed := start, final := none, safe := start, watch := 0,
            chunker := { hash := 0, len := 0, window := [], fed := [], check := 0xFFFFFFFF, nextOrdinal := 0, finished := false },
            feed := [], pending := [], provList := [], provCount := 0, areaAddr := addr, areaSize := size, written := 0, taken := 0, stored := 0,
            seen := field32 half 0x000, idle := cls.idleLimit, inflight := 0, marks := { recipe := false, watch := false, state := false },
            stats := { bytes := 0, resent := 0, chunks := 0, dupChunks := 0, dupBytes := 0, unindexed := 0, holds := 0 }, extents := [],
            cells := Vector.ofFn fun m : Fin 16 => { done := tagAt half (0x080 + 32 * m.val + 0x14), status := .done, queued := none },
            shown := start }) } t rest) ∧
  ∀ (s : State) (cell : ReqNo) (half : List Byte) (slot cls start addr size : Nat) (tag : Tag) (rest : List TakenRequest) (status : Status),
    s.AtRequest cell (.openStream slot cls start addr size) tag rest →
    (s.index.state = .unformatted ∧ status = .unformatted ∨
      (s.index.state = .formatting ∨ s.index.state = .scanning) ∧ status = .busy ∨
      s.index.state = .ready ∧
        (1024 ≤ slot ∧ status = .range ∨
          ∃ i : SlotNo, i.val = slot ∧
            ((s.slot i).state ≠ .free ∧ status = .state ∨
              (s.slot i).state = .free ∧ status = .range ∧
                (8 ≤ cls ∨ (∃ n : Fin 8, n.val = cls ∧ s.classes.get n = none) ∨ size < 64 ∨ 65536 < size ∨ addr % 64 ≠ 0 ∨
                  2 ^ 64 < addr + 64 * size)))) →
    ∃ t, exec (.openStream cell half) s = .next t ∧ s.Answered t cell tag [] status ∧ s.OnlyAnswered t rest

/-- A CLOSE that passes its checks records and writes the Final Offset and is answered DONE, and the stream goes on by the cases of R37: finished at once with no
byte open, and then SETTLING or CLOSED with nothing pending; on the Run List with a final chunk due and room; else as it was.
The slot joins the tail of the Run List where it is eligible, not on it, and worked by no lane, and the Run List is as it was in every other case.
One that fails a check of R36 is answered with the status of the first that fails, and changes nothing (R8, R17, R27, R28, R33, R36, R37). -/
def Obligations.CloseRequest : Prop :=
  (∀ (s : State) (cell : ReqNo) (i : SlotNo) (final : Nat) (tag : Tag) (rest : List TakenRequest),
      s.AtRequest cell (.close i.val final) tag rest → (s.slot i).state.isOpen = true → (s.slot i).final = none →
      (s.slot i).consumed ≤ final → (∀ g ∈ (s.slot i).feed, g.offset + g.length ≤ final) → (s.slot i).chunker.finished = false →
      ∃ t ws, exec (.close cell) s = .next t ∧ s.Answered t cell tag (HostWrite.slotFinal i (some final) :: ws) .done ∧
        t.slot i = { s.slot i with
          final := some final, state := (t.slot i).state, chunker := (t.slot i).chunker, marks := (t.slot i).marks, shown := (t.slot i).shown } ∧
        t = { s with
          sweep := { s.sweep with flight := some (.requests rest) }, requests := t.requests, port := t.port, notice := t.notice, slots := t.slots,
          runList := t.runList } ∧
        (t.slot i).marks = (t.slot i).marksDue ∧ (∀ j, j ≠ i → t.slot j = s.slot j) ∧
        t.runList = (if (t.slot i).eligible = true ∧ i ∉ s.runList ∧ s.worked i = false then s.runList ++ [i] else s.runList) ∧
        ((s.slot i).consumed = final → (s.slot i).chunker.len = 0 →
          (t.slot i).chunker = { (s.slot i).chunker with finished := true } ∧ t.runList = s.runList ∧
          ((s.slot i).pending ≠ [] → (t.slot i).state = (s.slot i).state) ∧
          ((s.slot i).pending = [] →
            (t.slot i).state = if (s.slot i).stored = (s.slot i).written ∧ (s.slot i).inflight = 0 then .closed else .settling)) ∧
        ((s.slot i).consumed = final → 0 < (s.slot i).chunker.len →
          (t.slot i).chunker = (s.slot i).chunker ∧ (t.slot i).state = (s.slot i).state ∧
          ((s.slot i).pending.length < 8 → i ∈ t.runList ∨ s.worked i = true)) ∧
        ((s.slot i).consumed < final → (t.slot i).chunker = (s.slot i).chunker ∧ (t.slot i).state = (s.slot i).state)) ∧
  ∀ (s : State) (cell : ReqNo) (slot final : Nat) (tag : Tag) (rest : List TakenRequest) (status : Status),
    s.AtRequest cell (.close slot final) tag rest →
    (1024 ≤ slot ∧ status = .range ∨
      ∃ i : SlotNo, i.val = slot ∧
        ((s.slot i).state.isOpen = false ∧ status = .state ∨
          (s.slot i).state.isOpen = true ∧
            ((∃ f, (s.slot i).final = some f ∧ status = if f = final then .existing else .conflict) ∨
              (s.slot i).final = none ∧ status = .range ∧
                (final < (s.slot i).consumed ∨ ∃ g ∈ (s.slot i).feed, final < g.offset + g.length)))) →
    ∃ t, exec (.close cell) s = .next t ∧ s.Answered t cell tag [] status ∧ s.OnlyAnswered t rest

/-- An ABORT takes a slot that is ACTIVE, HELD, STALLED or SETTLING into ABORTING with reason REQUESTED, or through it to ABORTED, the device half written before
the answer DONE; in any other state it is answered STATE, and for a slot number above 1,023 RANGE, with no effect (R29, R30, R32, R33, R38, R132).
That the Abort Reason is written before the Consumed Offset, and the conditions decided once, is the model's choice (log entries 25 and 29). -/
def Obligations.AbortRequest : Prop :=
  ∀ (s : State) (cell : ReqNo) (slot : Nat) (tag : Tag) (rest : List TakenRequest), s.AtRequest cell (.abort slot) tag rest →
    (1024 ≤ slot → ∃ t, exec (.abort cell) s = .next t ∧ s.Answered t cell tag [] .range ∧ s.OnlyAnswered t rest) ∧
    ∀ i : SlotNo, i.val = slot →
      ((s.slot i).state.isLive = false →
        ∃ t, exec (.abort cell) s = .next t ∧ s.Answered t cell tag [] .state ∧ s.OnlyAnswered t rest) ∧
      ((s.slot i).state.isLive = true →
        ∃ t ws, exec (.abort cell) s = .next t ∧ s.Aborts t i .requested ∧ t.sweep = { s.sweep with flight := some (.requests rest) } ∧
          (t.slot i).marks = (t.slot i).marksDue ∧
          s.Answered t cell tag
            ([.slotReason i (some .requested), .slotConsumed i (s.slot i).consumed, .slotState i .aborting] ++ ws) .done)

/-- A RELEASE frees a slot that is CLOSED or ABORTED: the reason and Final Offset become absent and the condition set all false, and these and the State are
written before the answer DONE, the other counters and the statistics standing; an ABORTING slot is answered BUSY, any other STATE, and a slot number above 1,023
RANGE, with no effect (R33, R39, R46, R128, R163, R164).
The order of the two absences and the Consumed Offset is the model's choice (log entry 29). -/
def Obligations.ReleaseRequest : Prop :=
  ∀ (s : State) (cell : ReqNo) (slot : Nat) (tag : Tag) (rest : List TakenRequest), s.AtRequest cell (.release slot) tag rest →
    (1024 ≤ slot → ∃ t, exec (.release cell) s = .next t ∧ s.Answered t cell tag [] .range ∧ s.OnlyAnswered t rest) ∧
    ∀ i : SlotNo, i.val = slot →
      ((s.slot i).state = .aborting → ∃ t, exec (.release cell) s = .next t ∧ s.Answered t cell tag [] .busy ∧ s.OnlyAnswered t rest) ∧
      ((s.slot i).state = .free ∨ (s.slot i).state.isLive = true →
        ∃ t, exec (.release cell) s = .next t ∧ s.Answered t cell tag [] .state ∧ s.OnlyAnswered t rest) ∧
      ((s.slot i).state = .closed ∨ (s.slot i).state = .aborted →
        ∃ t ws, exec (.release cell) s = .next t ∧
          s.Answered t cell tag
            ([.slotReason i none, .slotFinal i none, .slotConsumed i (s.slot i).consumed, .slotState i .free,
              .slotMarks i { recipe := false, watch := false, state := false }] ++ ws) .done ∧
          (ws = if s.notice.ready.get i = true then [.readyWord (i.val / 32) (readyWord t.notice.ready (i.val / 32))] else []) ∧
          State.OnlyAnswered { s with
            notice := { s.notice with ready := s.notice.ready.set i false }
            slots := (s.slots.set i { s.slot i with
              state := .free, reason := none, final := none, extents := [], marks := { recipe := false, watch := false, state := false },
              shown := (s.slot i).consumed }) } t rest)

/-- A SEED, a RETIRE and a SET_EPOCH are refused by the index state; a SEED also for a length or a number out of range, a SET_EPOCH with RANGE and the current epoch
where its value is below it; each is answered at once with nothing changed.
A SEED or RETIRE that passes joins the tail of the requests source and is not answered yet; a SET_EPOCH that passes replaces the copy's epoch and issues a descriptor
write behind those issued before it (R67, R79, R137, R138, R141, R143).
The Reserved Through that this write carries behind an outstanding reservation is deduced (log entry 15). -/
def Obligations.MaintenanceRequests : Prop :=
  (∀ (s : State) (cell : ReqNo) (d : Digest) (number length : Nat) (check fence : BitVec 32) (tag : Tag) (rest : List TakenRequest),
      (s.AtRequest cell (.seed d number length check) tag rest →
        (∀ status, s.index.state = .unformatted ∧ status = .unformatted ∨ (s.index.state = .formatting ∨ s.index.state = .scanning) ∧ status = .busy ∨
            s.index.state = .ready ∧ (length = 0 ∨ 65536 < length ∨ s.index.counter ≤ number) ∧ status = .range →
          ∃ t, exec (.seed cell) s = .next t ∧ s.Answered t cell tag [] status ∧ s.OnlyAnswered t rest) ∧
        (s.index.state = .ready → 1 ≤ length → length ≤ 65536 → number < s.index.counter →
          exec (.seed cell) s = .next { s.begun with
            sweep := { s.sweep with flight := some (.requests rest) }
            index := { s.index with requests := s.index.requests ++
              [.seed { cell := cell, digest := d, number := number, length := length, check := check }] } })) ∧
      (s.AtRequest cell (.retire d number fence) tag rest →
        (∀ status, s.index.state = .unformatted ∧ status = .unformatted ∨ (s.index.state = .formatting ∨ s.index.state = .scanning) ∧ status = .busy →
          ∃ t, exec (.retire cell) s = .next t ∧ s.Answered t cell tag [] status ∧ s.OnlyAnswered t rest) ∧
        (s.index.state = .ready →
          exec (.retire cell) s = .next { s.begun with
            sweep := { s.sweep with flight := some (.requests rest) }
            index := { s.index with requests := s.index.requests ++ [.retire { cell := cell, digest := d, number := number, fence := fence }] } }))) ∧
  ∀ (s : State) (cell : ReqNo) (value : BitVec 32) (tag : Tag) (rest : List TakenRequest), s.AtRequest cell (.setEpoch value) tag rest →
    (∀ status, s.index.state = .unformatted ∧ status = .unformatted ∨ (s.index.state = .formatting ∨ s.index.state = .scanning) ∧ status = .busy →
      ∃ t, exec (.setEpoch cell) s = .next t ∧ s.Answered t cell tag [] status ∧ s.OnlyAnswered t rest) ∧
    (s.index.state = .ready → value < s.index.copy.epoch →
      ∃ t, exec (.setEpoch cell) s = .next t ∧ s.Answered t cell tag [.reqResult cell (.epoch s.index.copy.epoch)] .range ∧ s.OnlyAnswered t rest) ∧
    (s.index.state = .ready → s.index.copy.epoch ≤ value → ∃ reserved,
      exec (.setEpoch cell) s = .next { s.begun with
        sweep := { s.sweep with flight := some (.requests rest) }
        index := { s.index with
          copy := { s.index.copy with epoch := value }
          writes := s.index.writes ++
            [{ desc := { s.index.copy with epoch := value, reserved := reserved }, use := .epoch cell value }] } } ∧
      ((∀ w ∈ s.index.writes, w.use ≠ .reserve) → reserved = s.index.copy.reserved) ∧
      ∀ w ws vs, s.index.writes = ws ++ w :: vs → (∀ v ∈ ws, v.use ≠ .reserve) → w.use = .reserve → reserved = w.desc.reserved)

/-- A SNAPSHOT of a slot writes its seven statistics as they stand and is answered DONE, or STATE for a FREE slot; of neither a slot nor the engine, RANGE; one of
the engine writes the ten engine statistics, makes the ERROR condition false and is answered DONE; and a cell of an unknown kind is answered UNKNOWN
(R44, R146, R156). -/
def Obligations.SnapshotRequests : Prop :=
  ∀ (s : State) (cell : ReqNo) (target : Nat) (tag : Tag) (rest : List TakenRequest),
    (s.AtRequest cell (.snapshot target) tag rest →
      (1024 ≤ target → target ≠ 0xFFFF → ∃ t, exec (.snapshotSlot cell) s = .next t ∧ s.Answered t cell tag [] .range ∧ s.OnlyAnswered t rest) ∧
      (∀ i : SlotNo, i.val = target →
        ((s.slot i).state = .free → ∃ t, exec (.snapshotSlot cell) s = .next t ∧ s.Answered t cell tag [] .state ∧ s.OnlyAnswered t rest) ∧
        ((s.slot i).state ≠ .free →
          ∃ t, exec (.snapshotSlot cell) s = .next t ∧ s.Answered t cell tag [.slotStats i (s.slot i).stats] .done ∧ s.OnlyAnswered t rest)) ∧
      (target = 0xFFFF →
        ∃ t, exec (.snapshotEngine cell) s = .next t ∧ s.Answered t cell tag [.recordStats s.index.stats] .done ∧
          State.OnlyAnswered { s with index := { s.index with error := false } } t rest)) ∧
    ∀ kind, s.AtRequest cell (.unknown kind) tag rest →
      ∃ t, exec (.unknownRequest cell) s = .next t ∧ s.Answered t cell tag [] .unknown ∧ s.OnlyAnswered t rest

/-! ### Chunks and lanes (R2 to R9, R15 to R21, R26, R50, R54, R55, R57, R61) -/

/-- The boundary test takes the rows of R4 in their order: none below Min, forced at Max, strict below Normal, loose from Normal on (R4). -/
def Obligations.BoundaryTest : Prop :=
  ∀ (c : ChunkClass) (len : Nat) (hash : BitVec 32),
    (len < c.min → boundary c len hash = false) ∧
    (c.min ≤ len → len = c.max → boundary c len hash = true) ∧
    (c.min ≤ len → len ≠ c.max → len < c.normal → (boundary c len hash = true ↔ hash.toNat < 2 ^ (32 - c.sstrict))) ∧
    (c.min ≤ len → len ≠ c.max → c.normal ≤ len → (boundary c len hash = true ↔ hash.toNat < 2 ^ (32 - c.sloose)))

/-- A byte that ends a chunk appends the pending chunk with its ordinal, offset, length, digest and check word, puts its lookup at the tail of the Lookup Queue and
begins the next chunk; at the Final Offset the Finished mark is set.
One that ends no chunk leaves the open chunk with the byte in it, but at the Final Offset, where the open chunk is the final chunk, made in the same way, and the
Finished mark is set (R2, R6, R7, R8, R21).
The digest is a free value of the chunk's bytes (log entry 1). -/
def Obligations.BoundaryMakesAPendingChunk : Prop :=
  ∀ (s t : State) (i : SlotNo) (b : Byte) (h : Chunker) (p : PendingChunk), h = (s.slot i).chunker.take b → t = s.chunkByte i b →
    p = { ordinal := h.nextOrdinal, offset := (s.slot i).consumed + 1 - h.len, length := h.len, digest := Config.digest h.fed.reverse,
          check := h.check, cond := .looking } →
    (t.slot i).consumed = (s.slot i).consumed + 1 ∧
    (t.slot i).stats = { (s.slot i).stats with bytes := min ((s.slot i).stats.bytes + 1) (2 ^ 48 - 1) } ∧
    (boundary (s.slot i).cls h.len h.hash = true ∨
        (s.slot i).final = some ((s.slot i).consumed + 1) ∧ (s.slot i).pending.length < 8 →
      (t.slot i).pending = (s.slot i).pending ++ [p] ∧
      t.lookups = s.lookups ++ [{ slot := i, ordinal := p.ordinal, digest := p.digest, length := p.length, check := p.check }] ∧
      (t.slot i).chunker =
        { hash := 0, len := 0, window := [], fed := [], check := 0xFFFFFFFF, nextOrdinal := h.nextOrdinal + 1,
          finished := h.finished || decide ((s.slot i).final = some ((s.slot i).consumed + 1)) }) ∧
    (boundary (s.slot i).cls h.len h.hash = false → (s.slot i).final ≠ some ((s.slot i).consumed + 1) →
      (t.slot i).pending = (s.slot i).pending ∧ t.lookups = s.lookups ∧ (t.slot i).chunker = h)

/-- The state of an open slot is decided by the head of its pending chunk list and the room in its recipe area, and every step keeps every open slot in the state so
decided (R26). -/
def Obligations.OpenStateIsDecided : Prop :=
  (∀ c : Slot,
    (∀ p ps r, c.pending = p :: ps → p.cond = .held r → c.decided = .held) ∧
    (∀ p ps v n k, c.pending = p :: ps → p.cond = .resolved v n k → c.written - c.taken = c.areaSize → c.decided = .stalled) ∧
    (∀ p ps v n k, c.pending = p :: ps → p.cond = .resolved v n k → c.written - c.taken ≠ c.areaSize → c.decided = .active) ∧
    (∀ p ps, c.pending = p :: ps → p.cond = .looking → c.decided = .active) ∧ (c.pending = [] → c.decided = .active)) ∧
  ∀ s t : State, step s = .next t → s.StatesDecided → t.StatesDecided

/-- An idle lane takes the head of the Run List.
A stream no longer eligible is passed over; for one with its next byte at hand the lane begins a turn and the first read is issued; a final chunk that is due is
made, without a byte, and the turn is over (R7, R8, R17, R18, R19, R54). -/
def Obligations.LaneTakesASlot : Prop :=
  ∀ (s : State) (n : LaneNo) (i : SlotNo) (rest : List SlotNo), s.Settled → s.mayWrite = true → s.lanes.get n = { turn := none, read := none } →
    s.runList = i :: rest →
    ((s.slot i).eligible = false → exec (.laneTakesSlot n) s = .next { s.begun with runList := rest }) ∧
    (∀ g gs, (s.slot i).eligible = true → (s.slot i).feed = g :: gs → g.offset ≤ (s.slot i).consumed → (s.slot i).final ≠ some (s.slot i).consumed →
      exec (.laneTakesSlot n) s = .next { s.begun with
        runList := rest
        lanes := s.lanes.set n { turn := some { slot := i, count := 0 }, read := (some
          { cell := g.cell, addr := g.addr + ((s.slot i).consumed - g.offset),
            length := min 4096 (min (g.offset + g.length - (s.slot i).consumed) 262144) }) } }) ∧
    ((s.slot i).eligible = true → (s.slot i).final = some (s.slot i).consumed → 0 < (s.slot i).chunker.len →
      ∃ t p, exec (.laneTakesSlot n) s = .next t ∧
        p = { ordinal := (s.slot i).chunker.nextOrdinal, offset := (s.slot i).consumed - (s.slot i).chunker.len, length := (s.slot i).chunker.len,
              digest := Config.digest (s.slot i).chunker.fed.reverse, check := (s.slot i).chunker.check, cond := .looking } ∧
        t.slot i = { s.slot i with
          pending := (s.slot i).pending ++ [p], state := (t.slot i).decided, shown := (t.slot i).shown
          chunker := { hash := 0, len := 0, window := [], fed := [], check := 0xFFFFFFFF, nextOrdinal := p.ordinal + 1, finished := true } } ∧
        t = { s with
          runList := rest, slots := t.slots, port := t.port
          lookups := s.lookups ++ [{ slot := i, ordinal := p.ordinal, digest := p.digest, length := p.length, check := p.check }] } ∧
        ∀ j, j ≠ i → t.slot j = s.slot j)

/-- The bytes of a read go to its turn's stream in order, one at a time through the chunker, until the read is used up or one of the ends of R19 has come: 8 pending
chunks, the Finished mark, 262,144 bytes in the turn, or no usable segment.
The Consumed Offset and the Bytes Consumed statistic count them, the chunks found are appended with their lookups, and no other slot, nor the index, is touched.
At each byte the segments whose end is reached leave the Feed Queue and are answered in their order, DONE where a byte was taken from them and RESENT where none was.
After the read the next one is issued from the head segment, or the turn ends at one of those ends; the slot then joins the tail of the Run List where it is still
eligible, not on it, and worked by no other lane, and the Run List is as it was in every other case.
A read that completes after its turn has ended, or that no block takes, gives its bytes to no stream (R2, R6, R17, R19, R20, R21, R43, R50, R54, R55, R57,
R61). -/
def Obligations.ReadFeedsTheTurn : Prop :=
  (∀ (s : State) (n : LaneNo) (i : SlotNo) (count : Nat) (r : SegRead) (data : List Byte), s.Settled →
    (s.lanes.get n = { turn := some { slot := i, count := count }, read := some r } → data.length = r.length →
      ∃ t m ps, ∃ u : Nat → State, exec (.segmentReadComplete (.lane n) data) s = .next t ∧ m ≤ data.length ∧
        u 0 = { s.begun with lanes := s.lanes.set n { turn := some { slot := i, count := count }, read := none } } ∧
        (∀ k b, k < m → data[k]? = some b → u (k + 1) = (u k).takeByte n { slot := i, count := count + k } r.cell b) ∧
        (∀ k, k ≤ m → (k < m ∨ m < data.length) →
          (k < m ↔ ((u k).slot i).state.isOpen = true ∧ ((u k).slot i).chunker.finished = false ∧ ((u k).slot i).pending.length < 8 ∧
            count + k < 262144 ∧ ∃ g gs, ((u k).slot i).feed = g :: gs ∧ g.offset ≤ ((u k).slot i).consumed)) ∧
        t = s.endEvent ((u m).continueTurn n) ∧
        (t.slot i).consumed = (s.slot i).consumed + m ∧
        (t.slot i).stats.bytes = (if m = 0 then (s.slot i).stats.bytes else min ((s.slot i).stats.bytes + m) (2 ^ 48 - 1)) ∧
        (t.slot i).pending = (s.slot i).pending ++ ps ∧ (∀ p ∈ ps, p.cond = .looking) ∧
        t.lookups = s.lookups ++ ps.map (fun p => { slot := i, ordinal := p.ordinal, digest := p.digest, length := p.length, check := p.check }) ∧
        (∀ j, j ≠ i → t.slot j = s.slot j) ∧
        t = { s with slots := t.slots, lanes := t.lanes, runList := t.runList, lookups := t.lookups, port := t.port } ∧
        ((t.lanes.get n).turn = none ↔ (t.slot i).state.isOpen = false ∨ (t.slot i).chunker.finished = true ∨ 8 ≤ (t.slot i).pending.length ∨
          262144 ≤ count + m ∨ ∀ g gs, (t.slot i).feed = g :: gs → (t.slot i).consumed < g.offset) ∧
        t.runList = (if (t.lanes.get n).turn = none ∧ (t.slot i).eligible = true ∧ i ∉ s.runList ∧ t.worked i = false then s.runList ++ [i]
          else s.runList) ∧
        ((t.lanes.get n).turn ≠ none → ∀ g gs, (t.slot i).feed = g :: gs → t.lanes.get n =
          { turn := some { slot := i, count := count + m }, read := (some
            { cell := g.cell, addr := g.addr + ((t.slot i).consumed - g.offset),
              length := min 4096 (min (g.offset + g.length - (t.slot i).consumed) (262144 - (count + m))) }) })) ∧
    (s.lanes.get n = { turn := none, read := some r } → data.length = r.length →
      exec (.segmentReadComplete (.lane n) data) s = .next { s.begun with lanes := s.lanes.set n { turn := none, read := none } }) ∧
    (s.port.lostReads ≠ 0 →
      exec (.segmentReadComplete .lost data) s = .next { s with port := { s.port with lostReads := s.port.lostReads - 1, recent := 0 } })) ∧
  ∀ (s t v : State) (n : LaneNo) (turn : Turn) (cell : CellNo) (b : Byte) (feed gone : List Segment),
    t = s.takeByte n turn cell b → v = s.chunkByte turn.slot b → (s.slot turn.slot).ListsOk →
    feed = (s.slot turn.slot).feed.map (fun g => if g.cell = cell then { g with count := g.count + 1 } else g) →
    gone = feed.filter (fun g => decide (g.offset + g.length ≤ (s.slot turn.slot).consumed + 1)) →
    t = { v with slots := t.slots, lanes := v.lanes.set n { v.lanes.get n with turn := some { turn with count := turn.count + 1 } }, port := t.port } ∧
    (∀ j, j ≠ turn.slot → t.slot j = v.slot j) ∧
    t.slot turn.slot = { v.slot turn.slot with
      feed := feed.filter (fun g => decide ((s.slot turn.slot).consumed + 1 < g.offset + g.length)), cells := (t.slot turn.slot).cells
      stats := { (v.slot turn.slot).stats with
        resent := gone.foldl (fun x g => min (x + (g.length - g.count)) (2 ^ 48 - 1)) (v.slot turn.slot).stats.resent } } ∧
    (∀ g ∈ gone, (t.slot turn.slot).cells.get g.cell = { done := g.tag, status := if g.count = 0 then .resent else .done, queued := none }) ∧
    (∀ m : CellNo, (∀ g ∈ gone, g.cell ≠ m) → (t.slot turn.slot).cells.get m = (s.slot turn.slot).cells.get m) ∧
    (v.mayWrite = true → v.Writes t (gone.flatMap fun g =>
      [HostWrite.cellStatus turn.slot g.cell (if g.count = 0 then .resent else .done), .cellTag turn.slot g.cell g.tag]))

/-- A byte goes through steps 1 to 5 of R3: the length, the byte that leaves a full window, the rolling hash, the running digest and the check register, which
takes the byte by the eight shifts of R9.
One byte that ends neither a chunk, nor a segment, nor the stream changes the chunker, the Consumed Offset, its statistic and the segment's count, and the next
read begins at the byte after it (R2, R3, R9, R43, R54, R55). -/
def Obligations.OneByteIsTaken : Prop :=
  (∀ (h : Chunker) (b x : Byte) (w : List Byte),
      (h.window.length = 32 ∧ h.window = x :: w ∨ h.window.length ≠ 32 ∧ x = 0 ∧ w = h.window) →
      h.take b = { h with
        len := h.len + 1, window := w ++ [b], hash := h.hash * 0x6F4A7C15 + b.setWidth 32 - x.setWidth 32 * BitVec.ofNat 32 (0x6F4A7C15 ^ 32)
        fed := b :: h.fed
        check := (List.range 8).foldl (fun r _ => if r.getLsbD 31 then (r <<< 1) ^^^ 0x1EDC6F41#32 else r <<< 1)
          (h.check ^^^ (b.setWidth 32 <<< 24)) }) ∧
  ∀ (s : State) (n : LaneNo) (i : SlotNo) (count : Nat) (r : SegRead) (b : Byte) (c : Slot) (h : Chunker) (g : Segment) (gs : List Segment),
    s.lanes.get n = { turn := some { slot := i, count := count }, read := some r } → r.length = 1 → s.Settled → c = s.slot i → h = c.chunker.take b →
    c.state.isOpen = true → c.chunker.finished = false → c.pending.length < 8 → count + 1 < 262144 → c.feed = g :: gs → g.offset ≤ c.consumed →
    (∀ x ∈ c.feed, c.consumed + 1 < x.offset + x.length) → boundary c.cls h.len h.hash = false → c.final ≠ some (c.consumed + 1) →
    exec (.segmentReadComplete (.lane n) [b]) s = .next { s.begun with
      slots := (s.slots.set i { c with
        consumed := c.consumed + 1, chunker := h, stats := { c.stats with bytes := min (c.stats.bytes + 1) (2 ^ 48 - 1) }
        feed := c.feed.map fun x => if x.cell = r.cell then { x with count := x.count + 1 } else x })
      lanes := (s.lanes.set n { turn := some { slot := i, count := count + 1 }, read := (some
        { cell := g.cell, addr := g.addr + (c.consumed + 1 - g.offset),
          length := min 4096 (min (g.offset + g.length - (c.consumed + 1)) (262144 - (count + 1))) }) }) }

/-- A failed read, by a completion error or a timeout alike, makes an engine that is not FAULTED so, with cause HOST_MEMORY: the Timebase stops, the remembered mark
is cleared, the sweep ends without its end, every lane ends its turn, and nothing is written; in FAULTED the first cause stands, and a read of before a reset is
taken by no block (R23, R58, R152, R154, R155, R174, R175). -/
def Obligations.FailedReadFaults : Prop :=
  ∀ (s : State) (id : ReadId), s.Settled →
    ((∃ n r, id = .lane n ∧ (s.lanes.get n).read = some r) ∨ (id = .sweep ∧ ∃ left, s.sweep.flight = some (.slots left)) ∨
        (id = .openHalf ∧ s.openReading = true) →
      ∃ t, exec (.hostReadFailure id) s = .next t ∧ exec (.readTimeout id) s = .next t ∧ t.port.posted = s.port.posted ∧ t.slots = s.slots ∧
        t = { s with ctl := t.ctl, time := t.time, sweep := t.sweep, lanes := t.lanes, runList := t.runList, port := t.port } ∧
        (s.ctl.engine ≠ .faulted →
          t.ctl = { s.ctl with engine := .faulted, faultCause := .hostMemory, starting := false } ∧
          t.time = { s.time with running := false } ∧ t.sweep = { flight := none, remembered := false } ∧
          ∀ n : LaneNo, (t.lanes.get n).turn = none) ∧
        (s.ctl.engine = .faulted → t.ctl = s.ctl ∧ t.time = s.time)) ∧
    (id = .lost → s.port.lostReads ≠ 0 →
      exec (.hostReadFailure id) s = .next { s with port := { s.port with lostReads := s.port.lostReads - 1, recent := 0 } } ∧
      exec (.readTimeout id) s = .next { s with port := { s.port with lostReads := s.port.lostReads - 1, recent := 0 } })

/-! ### The index (R68 to R81, R87, R91, R95, R99 to R113, R139, R141) -/

/-- With fewer than 64 operations in flight the arbiter accepts the oldest operation of the first source, in cyclic order from its pointer, that has one waiting and
may be accepted from; the operation goes into flight behind the others, a lookup counting one for its stream, and the pointer moves past its source
(R10, R31, R68, R69, R71, R72, R91). -/
def Obligations.ArbiterAccepts : Prop :=
  ∀ (s : State) (waits : Source → Prop) (a : Source) (as bs : List Source), s.Settled → s.index.inflight.length < 64 →
    (waits .lanes ↔ s.lookups ≠ []) → (waits .firming ↔ s.index.firming ≠ []) → (waits .withdrawal ↔ s.index.withdrawal ≠ []) →
    (waits .requests ↔ s.index.requests ≠ []) → (waits .scan ↔ s.index.state = .scanning ∧ s.index.scanNext < 2 ^ s.index.copy.k) →
    (∃ ps qs, [Source.lanes, .firming, .withdrawal, .requests, .scan] = ps ++ s.index.pointer :: qs ∧ s.index.pointer :: qs ++ ps = as ++ a :: bs) →
    (∀ x ∈ as, ¬(waits x ∧ (s.mayWrite = true ∨ x = .scan))) → waits a → (s.mayWrite = true ∨ a = .scan) →
    (∀ l ls, a = .lanes → s.lookups = l :: ls → exec .operationAccepted s = .next { s.begun with
      lookups := ls
      slots := (s.slots.set l.slot { s.slot l.slot with inflight := (s.slot l.slot).inflight + 1 })
      index := { s.index with
        pointer := .firming, inflight := s.index.inflight ++ [{ kind := .lookup l, bucket := bucketOf s.index.copy.k l.digest, halt := none }] } }) ∧
    (∀ r rs p, a = .firming → s.index.firming = r :: rs → s.record r = some p → exec .operationAccepted s = .next { s.begun with
      index := { s.index with
        firming := rs, pointer := .withdrawal, inflight := s.index.inflight ++ [{ kind := .firm r, bucket := p.bucket, halt := none }] } }) ∧
    (∀ r rs p, a = .withdrawal → s.index.withdrawal = r :: rs → s.record r = some p → exec .operationAccepted s = .next { s.begun with
      index := { s.index with
        withdrawal := rs, pointer := .requests, inflight := s.index.inflight ++ [{ kind := .withdraw r, bucket := p.bucket, halt := none }] } }) ∧
    (∀ o os, a = .requests → s.index.requests = .seed o :: os → exec .operationAccepted s = .next { s.begun with
      index := { s.index with
        requests := os, pointer := .scan
        inflight := s.index.inflight ++ [{ kind := .seed o, bucket := bucketOf s.index.copy.k o.digest, halt := none }] } }) ∧
    (∀ o os, a = .requests → s.index.requests = .retire o :: os → exec .operationAccepted s = .next { s.begun with
      index := { s.index with
        requests := os, pointer := .scan
        inflight := s.index.inflight ++ [{ kind := .retire o, bucket := bucketOf s.index.copy.k o.digest, halt := none }] } }) ∧
    (a = .scan → exec .operationAccepted s = .next { s.begun with
      index := { s.index with
        scanNext := s.index.scanNext + 1, pointer := .lanes
        inflight := s.index.inflight ++ [{ kind := .scan s.index.scanNext, bucket := s.index.scanNext, halt := none }] } })

/-- An operation whose bucket has one wrong way goes on as if the way had been good, or EMPTY, when it began.
A correctable way is counted; an uncorrectable one is written EMPTY and counted, sets the ERROR condition, and lowers occupancy outside SCANNING where it held an
entry.
The record of a PROVISIONAL entry so lost leaves its owner's list and becomes free where it was LIVE, and is LOST where a FIRM or WITHDRAW was issued for it; its
waiters of ABORTING streams are discarded, and the others, with numbers at hand, resolved UNINDEXED with BUCKET_FULL under fresh numbers in list order
(R72, R83, R84, R100, R105, R113).
Of waiters, the statement is about lists without repeats and ABORTING streams whose in-flight count covers their waiters (R31, R98). -/
def Obligations.WrongWaysAreDealtWith : Prop :=
  ∀ (s s' : State) (key : OpKey) (op : Op) (c : Vector Ecc 16 → Instr) (w : WayNo), s.Settled → readyOp key s.index.inflight = some op →
    ((∃ i o, key = .lookup i o ∧ c = .lookupInsertComplete i o) ∨ (∃ r, key = .firm r ∧ c = .firmComplete r) ∨
      (∃ r, key = .withdraw r ∧ c = .withdrawComplete r) ∨ (∃ cell, key = .seed cell ∧ c = .seedComplete cell) ∨
      (∃ cell, key = .retire cell ∧ c = .retireComplete cell) ∨ (∃ b, key = .scan b ∧ c = .scanComplete b)) →
    s' = State.joinLevel { s.begun with
      mem := { s.mem with ways := tableErase s.mem.ways (wayKey op.bucket w) }
      index := { s.index with
        error := true, stats := { s.index.stats with uncorrected := min (s.index.stats.uncorrected + 1) (2 ^ 32 - 1) }
        occupancy := if s.entry op.bucket w ≠ none ∧ s.index.state ≠ .scanning then s.index.occupancy - 1 else s.index.occupancy } }
      (if s.index.error then 0 else s.header.errorLevel) →
    let clean : Vector Ecc 16 := Vector.replicate 16 .clean
    let lost := exec (c (clean.set w .uncorrectable)) s
    exec (c (clean.set w .correctable)) s = exec (c clean) { s with
      index := { s.index with stats := { s.index.stats with corrected := min (s.index.stats.corrected + 1) (2 ^ 32 - 1) } } } ∧
    exec (c clean) s = .next (s.endEvent (s.begun.carryOut op clean)) ∧
    ((∀ e, s.entry op.bucket w = some e → e.state = .firm ∨ s.index.state = .scanning) → lost = .next (s.endEvent (s'.carryOut op clean))) ∧
    (∀ e i o r p, s.entry op.bucket w = some e → e.state = .provisional i o → s.index.state ≠ .scanning → s.recordAt op.bucket w = some (r, p) →
      s.Canonical →
      (p.waiters = [] → p.disp = .live → lost = .next (s.endEvent (State.carryOut { s' with
          slots := (s.slots.set p.owner { s.slot p.owner with
            provList := (s.slot p.owner).provList.filter (fun q => q != r)
            provCount := (s.slot p.owner).provCount - (s.slot p.owner).provList.count r })
          pool := tableErase s.pool r } op clean))) ∧
      (p.waiters = [] → p.disp ≠ .live →
        lost = .next (s.endEvent (State.carryOut { s' with pool := tablePut s.pool r { p with disp := .lost } } op clean))) ∧
      ∀ ws, ws = p.waiters.filter (fun v => (s.slot v.slot).state != .aborting) → p.waiters.Nodup → (∀ v ∈ ws, (s.slot v.slot).state.isOpen = true) →
        (∀ v ∈ p.waiters, (s.slot v.slot).state = .aborting →
        p.waiters.countP (fun x => x.slot == v.slot) ≤ (s.slot v.slot).inflight) →
        s.index.counter + ws.length ≤ s.index.copy.reserved →
        ∃ u : State, lost = .next (s.endEvent (u.carryOut op clean)) ∧ u.mem = s'.mem ∧
          u.index = { s'.index with counter := s.index.counter + ws.length } ∧
          u.record r = (if p.disp = .live then none else some { p with disp := .lost, waiters := [] }) ∧ (∀ q, q ≠ r → u.record q = s.record q) ∧
          u.removals = s.removals.filter (fun m => !p.waiters.contains m.waiter) ∧
          (∀ j, (s.slot j).state.isOpen = true → (u.slot j).pending = (s.slot j).pending.map (fun x =>
            if ws.contains { slot := j, ordinal := x.ordinal } then
              { x with cond := .resolved .unindexed (s.index.counter + ws.idxOf { slot := j, ordinal := x.ordinal }) .bucketFull } else x)) ∧
          (∀ j, (u.slot j).inflight = (s.slot j).inflight - p.waiters.countP (fun v => v.slot == j)) ∧
          (∀ j, (s.slot j).state = .aborting → (∃ v ∈ p.waiters, v.slot = j) →
            (u.slot j).state = if (u.slot j).inflight = 0 then .aborted else .aborting) ∧
          (∀ j, (u.slot j).provList = if p.disp = .live ∧ j = p.owner then (s.slot j).provList.filter (fun q => q != r) else (s.slot j).provList) ∧
          ∀ j, (∀ v ∈ p.waiters, v.slot ≠ j) → (p.disp = .live → j ≠ p.owner) → u.slot j = s.slot j)

/-- A LOOKUP_INSERT that matches an entry, its bucket clean.
A FIRM equal entry, or a PROVISIONAL equal one that the stream itself owns and has not given up, gives DUP with the entry's number; any other equal one makes the
chunk HELD, a waiter at the tail of the entry's record; an unequal one gives CONFLICT under a fresh number and sets ERROR.
An equal entry takes the current epoch, and an unequal one is left as it was.
The lookup is counted, and a CONFLICT in Conflicts too, and no other statistic changes.
Where the stream is ABORTING the outcome is dropped, its number is not used again, a waiter is placed and removed at once, and the stream's count falls by one, to
ABORTED at 0 (R31, R32, R43, R73, R75, R76, R77, R99, R145). -/
def Obligations.LookupMatches : Prop :=
  ∀ (s : State) (l : Lookup) (op : Op) (w : WayNo) (e : Entry) (i : SlotNo), i = l.slot → s.Settled → s.HandedOn →
    readyOp (.lookup i l.ordinal) s.index.inflight = some op → op.kind = .lookup l → s.findDigest op.bucket l.digest = some (w, e) →
    (s.slot i).state.isOpen = true ∨ (s.slot i).state = .aborting →
    let c := Instr.lookupInsertComplete i l.ordinal (Vector.replicate 16 .clean)
    let stats : EngineStats := { s.index.stats with lookups := min (s.index.stats.lookups + 1) (2 ^ 48 - 1) }
    let counted (t : State) : Prop :=
      (∀ j, j ≠ i → t.slot j = s.slot j) ∧ t.index.inflight = s.index.inflight.eraseP (fun o => o.kind.key == .lookup i l.ordinal) ∧
      t.index.occupancy = s.index.occupancy ∧
      (∀ b v, wayKey b v ≠ wayKey op.bucket w → t.entry b v = s.entry b v)
    let dropped (t : State) : Prop :=
      (t.slot i).pending = (s.slot i).pending ∧ (t.slot i).inflight = (s.slot i).inflight - 1 ∧ (t.slot i).stats = (s.slot i).stats ∧
      (t.slot i).state = if (s.slot i).inflight ≤ 1 then .aborted else .aborting
    let taken (t : State) (cond : ChunkCond) : Prop :=
      counted t ∧ t.pool = s.pool ∧ ((s.slot i).state = .aborting → dropped t) ∧
      ((s.slot i).state.isOpen = true → (t.slot i).inflight = (s.slot i).inflight - 1 ∧
        (t.slot i).pending = (s.slot i).pending.map (fun p => if p.ordinal = l.ordinal then { p with cond := cond } else p))
    (e.length = l.length → e.check = l.check →
      (e.state = .firm ∨ (∃ o r p, e.state = .provisional i o ∧ s.recordAt op.bucket w = some (r, p) ∧ p.disp ≠ .withdrawing) →
        ∃ t, exec c s = .next t ∧ taken t (.resolved .dup e.number .none) ∧ t.index.stats = stats ∧
          t.entry op.bucket w = some { e with lastHit := s.index.copy.epoch } ∧ t.index.counter = s.index.counter) ∧
      (∀ owner o r p, e.state = .provisional owner o → s.recordAt op.bucket w = some (r, p) → s.record r = some p →
          (owner ≠ i ∨ p.disp = .withdrawing) →
        ∃ t, exec c s = .next t ∧ counted t ∧ t.index.stats = stats ∧ t.entry op.bucket w = some { e with lastHit := s.index.copy.epoch } ∧
          t.index.counter = s.index.counter ∧ ((s.slot i).state = .aborting → dropped t ∧ t.pool = s.pool) ∧
          ((s.slot i).state.isOpen = true → (t.slot i).inflight = (s.slot i).inflight ∧
            (t.slot i).pending = (s.slot i).pending.map (fun p => if p.ordinal = l.ordinal then { p with cond := .held r } else p) ∧
            (t.slot i).stats.holds = min ((s.slot i).stats.holds + 1) (2 ^ 48 - 1) ∧
            t.record r = some { p with waiters := p.waiters ++ [{ slot := i, ordinal := l.ordinal }] } ∧
            ∀ q, q ≠ r → t.record q = s.record q))) ∧
    (e.length ≠ l.length ∨ e.check ≠ l.check → s.index.counter < s.index.copy.reserved →
      ∃ t, exec c s = .next t ∧ taken t (.resolved .conflict s.index.counter .none) ∧ t.mem = s.mem ∧
        t.index.counter = s.index.counter + 1 ∧ t.index.error = true ∧
        t.index.stats = { stats with conflicts := min (s.index.stats.conflicts + 1) (2 ^ 48 - 1) })

/-- A LOOKUP_INSERT that misses, its bucket clean and a number at hand.
With no EMPTY way it is UNINDEXED with BUCKET_FULL; else, for a YIELD class with the fill watch DECLARED, with FILL_YIELD; else, with no free record or the
stream at its Provisional Limit, with PROVISIONAL_LIMIT; and otherwise NEW, the lowest EMPTY way written PROVISIONAL for it, a LIVE record naming the way, and the
record in its ordinal position on the stream's list.
The lookup is counted, in Bucket Full, Fill Yields or Inserts too where it comes to that, and no other statistic changes.
Where the stream is ABORTING the outcome is dropped and its count falls by one, to ABORTED at 0, and the record of an entry just inserted is given up for withdrawal
(R31, R32, R74, R75, R76, R77, R81, R94, R95, R106).
Which free record is granted is the model's choice (log entry 10). -/
def Obligations.LookupMisses : Prop :=
  ∀ (s : State) (l : Lookup) (op : Op) (i : SlotNo), i = l.slot → s.Settled → s.HandedOn →
    readyOp (.lookup i l.ordinal) s.index.inflight = some op → op.kind = .lookup l → s.findDigest op.bucket l.digest = none →
    (s.slot i).state.isOpen = true ∨ (s.slot i).state = .aborting → s.index.counter < s.index.copy.reserved → s.Canonical →
    let c := Instr.lookupInsertComplete i l.ordinal (Vector.replicate 16 .clean)
    let stats : EngineStats := { s.index.stats with lookups := min (s.index.stats.lookups + 1) (2 ^ 48 - 1) }
    let taken (t : State) (cond : ChunkCond) : Prop :=
      (t.slot i).inflight = (s.slot i).inflight - 1 ∧
      ((s.slot i).state.isOpen = true →
        (t.slot i).pending = (s.slot i).pending.map (fun p => if p.ordinal = l.ordinal then { p with cond := cond } else p)) ∧
      ((s.slot i).state = .aborting → (t.slot i).pending = (s.slot i).pending ∧
        (t.slot i).state = if (s.slot i).inflight ≤ 1 then .aborted else .aborting) ∧
      (∀ j, j ≠ i → t.slot j = s.slot j) ∧ t.index.inflight = s.index.inflight.eraseP (fun o => o.kind.key == .lookup i l.ordinal) ∧
      t.index.counter = s.index.counter + 1
    let unindexed (cause : Cause) (counts : EngineStats) : Prop :=
      ∃ t, exec c s = .next t ∧ taken t (.resolved .unindexed s.index.counter cause) ∧ t.index.stats = counts ∧ t.mem = s.mem ∧ t.pool = s.pool ∧
        t.index.occupancy = s.index.occupancy ∧ t.index.withdrawal = s.index.withdrawal ∧ (t.slot i).provList = (s.slot i).provList ∧
        (t.slot i).provCount = (s.slot i).provCount
    ((∀ w, s.entry op.bucket w ≠ none) →
      unindexed .bucketFull { stats with bucketFull := min (s.index.stats.bucketFull + 1) (2 ^ 48 - 1) }) ∧
    (∀ w, s.entry op.bucket w = none → (∀ v, v < w → s.entry op.bucket v ≠ none) →
      ((s.slot i).cls.policy = .yield → s.index.fill = .declared →
        unindexed .fillYield { stats with fillYields := min (s.index.stats.fillYields + 1) (2 ^ 48 - 1) }) ∧
      ((s.slot i).cls.policy = .always ∨ s.index.fill = .normal →
        ((s.slot i).cls.provisionalLimit ≤ (s.slot i).provCount ∨ s.pool.length = 16384 → unindexed .provisionalLimit stats) ∧
        ((s.slot i).provCount < (s.slot i).cls.provisionalLimit → s.pool.length < 16384 →
          ∃ t r, exec c s = .next t ∧ taken t (.resolved .new s.index.counter .none) ∧ r < 16384 ∧ s.record r = none ∧
            t.record r = some { bucket := op.bucket, way := w, owner := i, ordinal := l.ordinal, waiters := []
                                disp := if (s.slot i).state.isOpen then .live else .withdrawing } ∧
            (∀ q, q ≠ r → t.record q = s.record q) ∧
            ((s.slot i).state.isOpen = true → (t.slot i).provCount = (s.slot i).provCount + 1 ∧ t.index.withdrawal = s.index.withdrawal ∧
              ∃ as bs, (s.slot i).provList = as ++ bs ∧ (t.slot i).provList = as ++ r :: bs ∧
                (∀ q ∈ as, ∀ p, s.record q = some p → p.ordinal < l.ordinal) ∧
                ∀ q p, bs.head? = some q → s.record q = some p → l.ordinal ≤ p.ordinal) ∧
            ((s.slot i).state = .aborting → (t.slot i).provCount = (s.slot i).provCount ∧ (t.slot i).provList = (s.slot i).provList ∧
              t.index.withdrawal = s.index.withdrawal ++ [r]) ∧
            t.entry op.bucket w = some
              { state := .provisional i l.ordinal, digest := l.digest, number := s.index.counter, length := l.length, check := l.check,
                lastHit := s.index.copy.epoch } ∧
            (∀ b v, wayKey b v ≠ wayKey op.bucket w → t.entry b v = s.entry b v) ∧
            t.index.occupancy = s.index.occupancy + 1 ∧ t.index.stats = { stats with inserts := min (s.index.stats.inserts + 1) (2 ^ 48 - 1) })))

/-- An allocation that finds the counter at Reserved Through waits, and one reservation write of 4,096 more, at most 2^40, is issued unless one is outstanding; the
operation halts, holding its bucket: a lookup for any of its uses of a number, the walk of a WITHDRAW at a waiter, and the loss of an entry at a waiter.
At 2^40 the numbers are exhausted: a lookup's stream is aborted with reason NUMBERS, or, ABORTING already, keeps its reason and loses its count, and the lookup is counted; a waiter of a walk
or of a loss has its stream so aborted and is discarded; with no waiter left a walk empties the way, and the operation that found the loss goes on
(R70, R74, R75, R76, R77, R78, R80, R110, R111, R113).
That a lookup found in CONFLICT has set no ERROR while it waits is the model's choice (log entry 31), and so is that the ways above a lost one are still to be checked
while its waiters are dealt with (log entry 30).
That the record is LOST in that time whatever its disposition, a LIVE one too, is deduced (log entry 9). -/
def Obligations.AllocationsMeetTheReserve : Prop :=
  ∀ (s : State) (key : OpKey) (op : Op) (os qs : List Op), s.Settled → s.HandedOn → readyOp key s.index.inflight = some op →
    s.index.inflight = os ++ op :: qs → (∀ x ∈ os, x.kind.key ≠ key) → s.index.counter = s.index.copy.reserved →
    let clean : Vector Ecc 16 := Vector.replicate 16 .clean
    let counted : EngineStats := { s.index.stats with lookups := min (s.index.stats.lookups + 1) (2 ^ 48 - 1) }
    let halted (x : IndexUnit) (h : Halt) : IndexUnit := { x with
      inflight := os ++ { op with halt := some h } :: qs, waiting := s.index.waiting ++ [key]
      writes := if s.index.writes.any (fun w => w.use == .reserve) then s.index.writes
        else s.index.writes ++ [{ desc := { s.index.copy with reserved := min (s.index.copy.reserved + 4096) (2 ^ 40) }, use := .reserve }] }
    (∀ l use, key = .lookup l.slot l.ordinal → op.kind = .lookup l →
      (use = .conflict ∧ (∃ w e, s.findDigest op.bucket l.digest = some (w, e) ∧ (e.length ≠ l.length ∨ e.check ≠ l.check)) ∨
        s.findDigest op.bucket l.digest = none ∧
          (use = .bucketFull ∧ (∀ w, s.entry op.bucket w ≠ none) ∨
            (∃ w, s.entry op.bucket w = none) ∧
              (use = .fillYield ∧ (s.slot l.slot).cls.policy = .yield ∧ s.index.fill = .declared ∨
                use = .insert ∧ ((s.slot l.slot).cls.policy = .always ∨ s.index.fill = .normal)))) →
      (s.index.counter < 2 ^ 40 →
        exec (.lookupInsertComplete l.slot l.ordinal clean) s = .next { s.begun with index := halted s.index (.number use) }) ∧
      (s.index.counter = 2 ^ 40 →
        ((s.slot l.slot).state.isOpen = true →
          ∃ t, exec (.lookupInsertComplete l.slot l.ordinal clean) s = .next t ∧ (t.slot l.slot).reason = some .numbers ∧
            (t.slot l.slot).state = (if (s.slot l.slot).inflight ≤ 1 then .aborted else .aborting) ∧
            (t.slot l.slot).pending = [] ∧ (t.slot l.slot).feed = [] ∧ (t.slot l.slot).provList = [] ∧
            (t.slot l.slot).inflight = (s.slot l.slot).inflight - 1 ∧ t.mem = s.mem ∧ t.index.counter = s.index.counter ∧ t.index.stats = counted ∧
            t.index.inflight = os ++ qs ∧ t.index.withdrawal = s.index.withdrawal ++ (s.slot l.slot).provList ∧
            ∀ j, j ≠ l.slot → t.slot j = s.slot j) ∧
        ((s.slot l.slot).state = .aborting →
          ∃ t, exec (.lookupInsertComplete l.slot l.ordinal clean) s = .next t ∧ (t.slot l.slot).reason = (s.slot l.slot).reason ∧
            (t.slot l.slot).state = (if (s.slot l.slot).inflight ≤ 1 then .aborted else .aborting) ∧
            (t.slot l.slot).inflight = (s.slot l.slot).inflight - 1 ∧ t.mem = s.mem ∧ t.index.counter = s.index.counter ∧ t.index.stats = counted ∧
            t.index.inflight = os ++ qs ∧ ∀ j, j ≠ l.slot → t.slot j = s.slot j))) ∧
    (∀ r p e w ws, key = .withdraw r → op.kind = .withdraw r → s.record r = some p → p.disp ≠ .lost → s.entry p.bucket p.way = some e →
      p.waiters.filter (fun v => (s.slot v.slot).state != .aborting) = w :: ws →
      (∀ v ∈ p.waiters, (s.slot v.slot).state = .aborting →
        p.waiters.countP (fun x => x.slot == v.slot) ≤ (s.slot v.slot).inflight) →
      (s.index.counter < 2 ^ 40 →
        ∃ t, exec (.withdrawComplete r clean) s = .next t ∧ t.index = halted s.index (.walk r w) ∧ t.mem = s.mem ∧
          t.record r = some { p with waiters := w :: ws } ∧ (∀ q, q ≠ r → t.record q = s.record q) ∧
          (∀ j, (t.slot j).inflight = (s.slot j).inflight -
            if (s.slot j).state = .aborting then p.waiters.countP (fun v => v.slot == j) else 0) ∧
          ∀ j, (s.slot j).state ≠ .aborting → t.slot j = s.slot j) ∧
      (s.index.counter = 2 ^ 40 → p.waiters = [w] → (s.slot w.slot).state.isOpen = true → s.Canonical →
        ∃ t, exec (.withdrawComplete r clean) s = .next t ∧ (t.slot w.slot).reason = some .numbers ∧
          (t.slot w.slot).state = (if (s.slot w.slot).inflight ≤ 1 then .aborted else .aborting) ∧ (t.slot w.slot).pending = [] ∧
          (t.slot w.slot).inflight = (s.slot w.slot).inflight - 1 ∧ t.entry p.bucket p.way = none ∧ t.record r = none ∧
          t.index.counter = s.index.counter ∧ t.index.inflight = os ++ qs ∧ t.index.occupancy = s.index.occupancy - 1 ∧
          t.index.withdrawal = s.index.withdrawal ++ (s.slot w.slot).provList ∧
          t.index.stats.withdrawals = min (s.index.stats.withdrawals + 1) (2 ^ 48 - 1) ∧ ∀ j, j ≠ w.slot → t.slot j = s.slot j)) ∧
    (∀ (c : Vector Ecc 16 → Instr) (w : WayNo) (e : Entry) (i : SlotNo) (o r : Nat) (p : PoolRecord) (v : Waiter) (ws : List Waiter),
      ((∃ i o, key = .lookup i o ∧ c = .lookupInsertComplete i o) ∨ (∃ r, key = .firm r ∧ c = .firmComplete r) ∨
      (∃ r, key = .withdraw r ∧ c = .withdrawComplete r) ∨ (∃ cell, key = .seed cell ∧ c = .seedComplete cell) ∨
      (∃ cell, key = .retire cell ∧ c = .retireComplete cell) ∨ (∃ b, key = .scan b ∧ c = .scanComplete b)) →
      s.entry op.bucket w = some e → e.state = .provisional i o → s.index.state ≠ .scanning → s.recordAt op.bucket w = some (r, p) →
      p.waiters.filter (fun v => (s.slot v.slot).state != .aborting) = v :: ws →
      (∀ v ∈ p.waiters, (s.slot v.slot).state = .aborting →
        p.waiters.countP (fun x => x.slot == v.slot) ≤ (s.slot v.slot).inflight) →
      (s.index.counter < 2 ^ 40 →
      ∃ t, exec (c (clean.set w .uncorrectable)) s = .next t ∧
        t.index = { halted s.index (.loss r (p.disp == .live) v (((List.finRange 16).filter fun x => decide (w < x)).map fun x => (x, .clean))) with
          error := true, stats := { s.index.stats with uncorrected := min (s.index.stats.uncorrected + 1) (2 ^ 32 - 1) }
          occupancy := s.index.occupancy - 1 } ∧
        t.record r = some { p with disp := .lost, waiters := v :: ws } ∧ (∀ q, q ≠ r → t.record q = s.record q) ∧
        t.mem = { s.mem with ways := tableErase s.mem.ways (wayKey op.bucket w) } ∧
        (∀ j, (t.slot j).pending = (s.slot j).pending) ∧
        ∀ j, (s.slot j).state ≠ .aborting → (p.disp = .live → j ≠ p.owner) → t.slot j = s.slot j) ∧
      (s.index.counter = 2 ^ 40 → p.waiters = [v] → (s.slot v.slot).state.isOpen = true → r ∉ (s.slot v.slot).provList → s.Canonical →
        ∃ u : State, exec (c (clean.set w .uncorrectable)) s = .next (s.endEvent (u.carryOut op clean)) ∧
          u.index = { s.index with
            error := true, stats := { s.index.stats with uncorrected := min (s.index.stats.uncorrected + 1) (2 ^ 32 - 1) }
            occupancy := s.index.occupancy - 1, withdrawal := s.index.withdrawal ++ (s.slot v.slot).provList } ∧
          u.mem = { s.mem with ways := tableErase s.mem.ways (wayKey op.bucket w) } ∧
          u.record r = (if p.disp = .live then none else some { p with disp := .lost, waiters := [] }) ∧
          (∀ q, q ≠ r → q ∉ (s.slot v.slot).provList → u.record q = s.record q) ∧
          (u.slot v.slot).reason = some .numbers ∧
          (u.slot v.slot).state = (if (s.slot v.slot).inflight ≤ 1 then .aborted else .aborting) ∧ (u.slot v.slot).pending = [] ∧
          (u.slot v.slot).feed = [] ∧ (u.slot v.slot).provList = [] ∧ (u.slot v.slot).inflight = (s.slot v.slot).inflight - 1 ∧
          ∀ j, j ≠ v.slot → (p.disp = .live → j ≠ p.owner) → u.slot j = s.slot j))

/-- A FIRM, its bucket clean, writes its way FIRM and nothing else of the entry, resolves every waiter of an open stream as DUP with the entry's number, frees the
record and gives its owner's count back, which may bring a SETTLING owner to CLOSED and an ABORTING one to ABORTED; of a LOST record it writes no way
(R28, R31, R32, R76, R100, R103). -/
def Obligations.FirmCompletes : Prop :=
  ∀ (s : State) (r : Nat) (op : Op) (p : PoolRecord), s.Settled → s.HandedOn → readyOp (.firm r) s.index.inflight = some op → op.kind = .firm r →
    s.record r = some p → s.Canonical →
    let c := Instr.firmComplete r (Vector.replicate 16 .clean)
    let ended (t : State) : Prop :=
      ((s.slot p.owner).state = .settling → (t.slot p.owner).state =
        if (s.slot p.owner).stored = (s.slot p.owner).written ∧ (t.slot p.owner).inflight = 0 then .closed else .settling) ∧
      ((s.slot p.owner).state = .aborting → (t.slot p.owner).state = if (t.slot p.owner).inflight = 0 then .aborted else .aborting) ∧
      t.index.inflight = s.index.inflight.eraseP (fun o => o.kind.key == .firm r) ∧ t.record r = none ∧ (∀ q, q ≠ r → t.record q = s.record q) ∧
      t.index.occupancy = s.index.occupancy ∧ t.index.counter = s.index.counter
    (∀ e, p.disp ≠ .lost → s.entry p.bucket p.way = some e →
      ∃ t, exec c s = .next t ∧ ended t ∧ t.entry p.bucket p.way = some { e with state := .firm } ∧
        (∀ b v, wayKey b v ≠ wayKey p.bucket p.way → t.entry b v = s.entry b v) ∧
        t.index.stats.firms = min (s.index.stats.firms + 1) (2 ^ 48 - 1) ∧
        (∀ j, (t.slot j).inflight = (s.slot j).inflight - p.waiters.countP (fun w => w.slot == j) - (if j = p.owner then 1 else 0)) ∧
        (∀ j, (s.slot j).state.isOpen = true → (t.slot j).pending = (s.slot j).pending.map (fun x =>
          if p.waiters.contains { slot := j, ordinal := x.ordinal } then { x with cond := .resolved .dup e.number .none } else x)) ∧
        ∀ j, j ≠ p.owner → (∀ w ∈ p.waiters, w.slot ≠ j) → t.slot j = s.slot j) ∧
    (p.disp = .lost →
      ∃ t, exec c s = .next t ∧ ended t ∧ t.mem = s.mem ∧ t.index.stats = s.index.stats ∧
        (t.slot p.owner).inflight = (s.slot p.owner).inflight - 1 ∧ ∀ j, j ≠ p.owner → t.slot j = s.slot j)

/-- A WITHDRAW, its bucket clean, that finds no new owner: its waiters of ABORTING streams are discarded, the others, each at its Provisional Limit, passed over in
list order as UNINDEXED with PROVISIONAL_LIMIT under fresh numbers, and at the end of the list the way is written EMPTY, occupancy falls, the record becomes free and
the withdrawal is counted.
Of a LOST record it frees the record and nothing else (R31, R32, R76, R81, R100, R107, R109, R110).
Of waiters, the statement is about lists without repeats and ABORTING streams whose in-flight count covers their waiters (R31, R98). -/
def Obligations.WithdrawWithoutOwner : Prop :=
  ∀ (s : State) (r : Nat) (op : Op) (p : PoolRecord) (ws : List Waiter), s.Settled → s.HandedOn →
    readyOp (.withdraw r) s.index.inflight = some op → op.kind = .withdraw r → s.record r = some p → s.Canonical →
    ws = p.waiters.filter (fun v => (s.slot v.slot).state != .aborting) →
    let c := Instr.withdrawComplete r (Vector.replicate 16 .clean)
    let others := s.index.inflight.eraseP (fun o => o.kind.key == .withdraw r)
    let emptied (counter : Nat) : IndexUnit := { s.index with
      counter := counter, occupancy := s.index.occupancy - 1, inflight := others
      stats := { s.index.stats with withdrawals := min (s.index.stats.withdrawals + 1) (2 ^ 48 - 1) } }
    (p.disp ≠ .lost → (∃ e, s.entry p.bucket p.way = some e) →
      (p.waiters = [] → exec c s = .next { s.begun with
        mem := { s.mem with ways := tableErase s.mem.ways (wayKey p.bucket p.way) }
        pool := tableErase s.pool r
        index := emptied s.index.counter }) ∧
      (p.waiters.Nodup → (∀ v ∈ ws, (s.slot v.slot).state.isOpen = true ∧ (s.slot v.slot).cls.provisionalLimit ≤ (s.slot v.slot).provCount) →
        (∀ v ∈ p.waiters, (s.slot v.slot).state = .aborting →
        p.waiters.countP (fun x => x.slot == v.slot) ≤ (s.slot v.slot).inflight) →
        s.index.counter + ws.length ≤ s.index.copy.reserved →
        ∃ t, exec c s = .next t ∧ t.mem = { s.mem with ways := tableErase s.mem.ways (wayKey p.bucket p.way) } ∧ t.pool = tableErase s.pool r ∧
          t.index = emptied (s.index.counter + ws.length) ∧
          t.removals = s.removals.filter (fun m => !p.waiters.contains m.waiter) ∧
          (∀ j, (s.slot j).state.isOpen = true → (t.slot j).pending = (s.slot j).pending.map (fun x =>
            if ws.contains { slot := j, ordinal := x.ordinal } then
              { x with cond := .resolved .unindexed (s.index.counter + ws.idxOf { slot := j, ordinal := x.ordinal }) .provisionalLimit } else x)) ∧
          (∀ j, (t.slot j).inflight = (s.slot j).inflight - p.waiters.countP (fun v => v.slot == j)) ∧
          (∀ j, (s.slot j).state = .aborting → (∃ v ∈ p.waiters, v.slot = j) →
            (t.slot j).state = if (t.slot j).inflight = 0 then .aborted else .aborting) ∧
          ∀ j, (∀ v ∈ p.waiters, v.slot ≠ j) → t.slot j = s.slot j)) ∧
    (p.disp = .lost → exec c s = .next { s.begun with pool := tableErase s.pool r, index := { s.index with inflight := others } })

/-- A WITHDRAW, its bucket clean, passes the entry to the first waiter whose stream is open and below its Provisional Limit: waiters of ABORTING streams are discarded,
and those before it, at their limit, passed over as UNINDEXED with PROVISIONAL_LIMIT, each under a fresh number.
The entry and the record take the new owner, the entry its fresh number and the current epoch; the waiter is resolved NEW and its slot's later waiters DUP with the
number; the others stay in their order; and the takeover and the withdrawal are counted (R31, R32, R76, R100, R107, R108, R109).
Of waiters, the statement is about lists without repeats and ABORTING streams whose in-flight count covers their waiters (R31, R98). -/
def Obligations.WithdrawPassesTheEntryOn : Prop :=
  ∀ (s : State) (r : Nat) (op : Op) (p : PoolRecord) (e : Entry) (w : Waiter) (as ws left : List Waiter) (i : SlotNo) (n : Nat), i = w.slot →
    s.Settled → s.HandedOn → readyOp (.withdraw r) s.index.inflight = some op → op.kind = .withdraw r → s.record r = some p → p.disp ≠ .lost →
    s.entry p.bucket p.way = some e → p.waiters.Nodup →
    p.waiters.filter (fun v => (s.slot v.slot).state != .aborting) = as ++ w :: ws →
    (∀ v ∈ p.waiters, (s.slot v.slot).state = .aborting →
      p.waiters.countP (fun x => x.slot == v.slot) ≤ (s.slot v.slot).inflight) →
    (∀ v ∈ as, (s.slot v.slot).state.isOpen = true ∧ (s.slot v.slot).cls.provisionalLimit ≤ (s.slot v.slot).provCount) →
    (s.slot i).state.isOpen = true → (s.slot i).provCount < (s.slot i).cls.provisionalLimit → n = s.index.counter + as.length →
    n < s.index.copy.reserved → left = ws.filter (fun v => v.slot != i) →
    ∃ t, exec (.withdrawComplete r (Vector.replicate 16 .clean)) s = .next t ∧
      t.entry p.bucket p.way = some { e with state := .provisional i w.ordinal, number := n, lastHit := s.index.copy.epoch } ∧
      (∀ b v, wayKey b v ≠ wayKey p.bucket p.way → t.entry b v = s.entry b v) ∧
      t.record r = some { p with owner := i, ordinal := w.ordinal, disp := .live, waiters := left } ∧
      (∀ q, q ≠ r → t.record q = s.record q) ∧
      (∀ j, (s.slot j).state.isOpen = true → (t.slot j).pending = (s.slot j).pending.map (fun x =>
        if as.contains { slot := j, ordinal := x.ordinal } then
          { x with cond := .resolved .unindexed (s.index.counter + as.idxOf { slot := j, ordinal := x.ordinal }) .provisionalLimit }
        else if j = i ∧ x.ordinal = w.ordinal then { x with cond := .resolved .new n .none }
        else if j = i ∧ ws.contains { slot := i, ordinal := x.ordinal } then { x with cond := .resolved .dup n .none } else x)) ∧
      (∀ j, (t.slot j).inflight =
        (s.slot j).inflight - (p.waiters.countP (fun v => v.slot == j) - left.countP (fun v => v.slot == j))) ∧
      (∀ j, (s.slot j).state = .aborting → (∃ v ∈ p.waiters, v.slot = j) →
        (t.slot j).state = if (t.slot j).inflight = 0 then .aborted else .aborting) ∧
      (∃ xs ys, (s.slot i).provList = xs ++ ys ∧ (t.slot i).provList = xs ++ r :: ys ∧
        (∀ q ∈ xs, q ≠ r → ∀ o, s.record q = some o → o.ordinal < w.ordinal) ∧
        ∀ q o, ys.head? = some q → q ≠ r → s.record q = some o → w.ordinal ≤ o.ordinal) ∧
      (t.slot i).provCount = (s.slot i).provCount + 1 ∧
      (∀ j, j ≠ i → (∀ v ∈ p.waiters, v.slot ≠ j) → t.slot j = s.slot j) ∧
      t.index = { s.index with
        counter := n + 1, inflight := s.index.inflight.eraseP (fun o => o.kind.key == .withdraw r)
        stats := { s.index.stats with
          takeovers := min (s.index.stats.takeovers + 1) (2 ^ 48 - 1), withdrawals := min (s.index.stats.withdrawals + 1) (2 ^ 48 - 1) } }

/-- The removal of a waiter that an abort asked for takes the waiter off its record's list and gives its stream's count back, an ABORTING slot whose count it brings
to 0 becoming ABORTED; where another event has taken the waiter off, it finds nothing to remove (R31, R32, R101).
That a removal which no abort has asked for changes nothing is the model's choice (log entry 24). -/
def Obligations.WaiterIsRemoved : Prop :=
  ∀ (s : State) (i : SlotNo) (o : Nat) (w : Waiter) (left : List Removal), s.Settled → w = { slot := i, ordinal := o } →
    left = s.removals.filter (fun m => m.waiter != w) →
    (∀ m p, s.removals.find? (fun m => m.waiter == w) = some m → s.record m.record = some p → w ∈ p.waiters → (s.slot i).state = .aborting →
      ∃ t, exec (.waiterRemoval i o) s = .next t ∧
        t.record m.record = some { p with waiters := p.waiters.filter fun v => v != w } ∧
        (∀ q, q ≠ m.record → t.record q = s.record q) ∧ t.removals = left ∧ (∀ j, j ≠ i → t.slot j = s.slot j) ∧ t.index = s.index ∧ t.mem = s.mem ∧
        (t.slot i).inflight = (s.slot i).inflight - 1 ∧ (t.slot i).state = if (s.slot i).inflight ≤ 1 then .aborted else .aborting) ∧
    (∀ m, s.removals.find? (fun m => m.waiter == w) = some m →
      (s.record m.record = none ∨ (∃ p, s.record m.record = some p ∧ w ∉ p.waiters) ∨ (s.slot i).state ≠ .aborting) →
      exec (.waiterRemoval i o) s = .next { s.begun with removals := left }) ∧
    (s.removals.find? (fun m => m.waiter == w) = none → exec (.waiterRemoval i o) s = .next s.begun)

/-- A SEED carried out at a clean bucket is decided by the first row of R139 that applies, and answered with its status and result operands (R76, R81, R136, R139).
That a PROVISIONAL entry gives BUSY whatever its length and check word is the model's choice (log entry 32). -/
def Obligations.SeedCompletes : Prop :=
  ∀ (s : State) (o : SeedOp) (op : Op) (tag : Tag), s.Settled → s.HandedOn → readyOp (.seed o.cell) s.index.inflight = some op → op.kind = .seed o → s.mayWrite = true →
    (s.requests.get o.cell).inflight = some tag →
    let c := Instr.seedComplete o.cell (Vector.replicate 16 .clean)
    let done (mem : IndexMemory) (index : IndexUnit) (result : List HostWrite) (status : Status) : Prop :=
      ∃ t, exec c s = .next t ∧ s.Answered t o.cell tag result status ∧
        t = { s with
          mem := mem, index := { index with inflight := s.index.inflight.eraseP (fun x => x.kind.key == .seed o.cell) }
          requests := t.requests, port := t.port, notice := (s.raiseLevel s.header.requestLevel).notice }
    (∀ w e, s.findDigest op.bucket o.digest = some (w, e) →
      (e.state ≠ .firm → done s.mem s.index [] .busy) ∧
      (e.state = .firm → e.number = o.number → e.length = o.length → e.check = o.check →
        done { s.mem with ways := tablePut s.mem.ways (wayKey op.bucket w) { e with lastHit := s.index.copy.epoch } } s.index [] .existing) ∧
      (e.state = .firm → e.number ≠ o.number ∨ e.length ≠ o.length ∨ e.check ≠ o.check →
        done s.mem s.index [.reqResult o.cell (.seedConflict e.number e.length e.check)] .conflict)) ∧
    (s.findDigest op.bucket o.digest = none →
      ((∀ w, s.entry op.bucket w ≠ none) → done s.mem s.index [] .full) ∧
      ∀ w, s.entry op.bucket w = none → (∀ v, v < w → s.entry op.bucket v ≠ none) →
        done
          { s.mem with ways := (tablePut s.mem.ways (wayKey op.bucket w)
            { state := .firm, digest := o.digest, number := o.number, length := o.length, check := o.check, lastHit := s.index.copy.epoch }) }
          { s.index with
            occupancy := s.index.occupancy + 1, stats := { s.index.stats with inserts := min (s.index.stats.inserts + 1) (2 ^ 48 - 1) } }
          [] .done)

/-- A RETIRE carried out at a clean bucket is decided by the first row of R141 that applies, and answered with its status and result operands (R81, R141). -/
def Obligations.RetireCompletes : Prop :=
  ∀ (s : State) (o : RetireOp) (op : Op) (tag : Tag), s.Settled → s.HandedOn → readyOp (.retire o.cell) s.index.inflight = some op → op.kind = .retire o → s.mayWrite = true →
    (s.requests.get o.cell).inflight = some tag →
    let c := Instr.retireComplete o.cell (Vector.replicate 16 .clean)
    let done (mem : IndexMemory) (occupancy : Nat) (result : List HostWrite) (status : Status) : Prop :=
      ∃ t, exec c s = .next t ∧ s.Answered t o.cell tag result status ∧
        t = { s with
          mem := mem
          index := { s.index with
            occupancy := occupancy, inflight := s.index.inflight.eraseP (fun x => x.kind.key == .retire o.cell) }
          requests := t.requests, port := t.port, notice := (s.raiseLevel s.header.requestLevel).notice }
    (s.findDigest op.bucket o.digest = none → done s.mem s.index.occupancy [] .absent) ∧
    ∀ w e, s.findDigest op.bucket o.digest = some (w, e) →
      (e.state ≠ .firm → done s.mem s.index.occupancy [] .busy) ∧
      (e.state = .firm → e.number ≠ o.number → done s.mem s.index.occupancy [.reqResult o.cell (.retireConflict e.number)] .conflict) ∧
      (e.state = .firm → e.number = o.number →
        (o.fence ≤ e.lastHit → done s.mem s.index.occupancy [.reqResult o.cell (.epoch e.lastHit)] .inUse) ∧
        (e.lastHit < o.fence →
          done { s.mem with ways := tableErase s.mem.ways (wayKey op.bucket w) } (s.index.occupancy - 1) [] .done))

/-- A SCAN of a clean bucket writes its PROVISIONAL ways EMPTY and counts its FIRM ways, and the Scan Position rises; the SCAN that brings it to 2^k makes the index
READY with the fill watch NORMAL and count 0 (R91, R160).
That the Scan Position tells the last SCAN is the model's choice (log entry 11). -/
def Obligations.ScanCompletes : Prop :=
  ∀ (s : State) (b : Nat) (op : Op) (last : Bool), s.Settled → s.HandedOn → readyOp (.scan b) s.index.inflight = some op → op.kind = .scan b →
    s.Canonical → (last = true ↔ s.index.state = .scanning ∧ s.index.scanPosition + 1 = 2 ^ s.index.copy.k) →
    ∃ t, exec (.scanComplete b (Vector.replicate 16 .clean)) s = .next t ∧
      t = { s.begun with mem := { s.mem with ways := t.mem.ways }, index := t.index } ∧
      (∀ w, t.entry b w = match s.entry b w with
        | some e => if e.state = .firm then some e else none
        | none => none) ∧
      (∀ b' w, b' ≠ b → t.entry b' w = s.entry b' w) ∧
      t.index = { s.index with
        occupancy := s.index.occupancy + (List.finRange 16).countP (fun w => ((s.entry b w).map fun e => e.state) == some EntryState.firm)
        scanPosition := s.index.scanPosition + 1, inflight := s.index.inflight.eraseP (fun o => o.kind.key == .scan b)
        state := if last then .ready else s.index.state
        fill := if last then .normal else s.index.fill
        fillCount := if last then 0 else s.index.fillCount }

/-- The oldest descriptor write, found whole at its read-back, is made and leaves the list.
A reservation raises the copy's Reserved Through and lets what waited go on with the counter's number: a lookup is, by R74, NEW, UNINDEXED or CONFLICT by what it waited for,
its outcome dropped where its stream is ABORTING, and it is counted; a walk goes on at the waiter it halted at, each waiter examined with a number of its own as its
stream stands then, one ABORTING being discarded and one at its Provisional Limit passed over as UNINDEXED with PROVISIONAL_LIMIT, to the takeover by the first that
is neither or to the end of the list; and a loss resolves its waiters UNINDEXED with BUCKET_FULL
under numbers in list order, one whose stream has become ABORTING being discarded, and its operation goes on at its bucket.
A SET_EPOCH is answered DONE with its value, by R143; by R87 a FORMAT's last makes the index READY with its counter, occupancy 0 and the fill watch NORMAL, and is answered DONE with
the new generation.
A correctable descriptor is counted, by R83, and then treated alike.
A read-back that finds the descriptor uncorrectable makes the engine FAULTED with cause INDEX_DESCRIPTOR, by R174; the write is not complete, and no later one is carried
out (R73, R75, R76, R77, R78, R79, R108, R109, R110, R111, R113, R145).
It is said of a lookup, a walk or a loss that waits alone; the order among several that wait is log entry 13.
That the number allocated for a waiter which has left the list by then names no chunk is the model's choice (log entry 12).
That a lookup in CONFLICT which waited sets the ERROR condition when its number is allocated, and had not set it when it was decided, is the model's choice (log
entry 31): R145 fits the decision too, and a host that looks in between can tell the two apart.
Which free record is granted is the model's choice (log entry 10).
That an uncorrectable one is not counted and does not set the ERROR condition is deduced (log entry 18). -/
def Obligations.DescriptorWriteCompletes : Prop :=
  (∀ (s : State) (w : DescWrite) (ws : List DescWrite), s.Settled → s.HandedOn → s.index.writeFailed = false → s.index.writes = w :: ws →
      exec (.descriptorWriteComplete .correctable) s = exec (.descriptorWriteComplete .clean)
        { s with index := { s.index with stats := { s.index.stats with corrected := min (s.index.stats.corrected + 1) (2 ^ 32 - 1) } } } ∧
      (w.use = .formatStart → exec (.descriptorWriteComplete .clean) s = .next { s.begun with
        mem := { s.mem with desc := w.desc }, index := { s.index with writes := ws } }) ∧
      (w.use = .reserve → s.index.waiting = [] → exec (.descriptorWriteComplete .clean) s = .next { s.begun with
        mem := { s.mem with desc := w.desc }
        index := { s.index with writes := ws, copy := { s.index.copy with reserved := w.desc.reserved } } }) ∧
      (∀ l op use, w.use = .reserve → s.index.waiting = [.lookup l.slot l.ordinal] →
        s.index.inflight.find? (fun o => o.kind.key == .lookup l.slot l.ordinal) = some op → op.kind = .lookup l →
        op.halt = some (.number use) → s.index.counter < w.desc.reserved →
        (s.slot l.slot).state.isOpen = true ∨ (s.slot l.slot).state = .aborting →
        let stats : EngineStats := { s.index.stats with lookups := min (s.index.stats.lookups + 1) (2 ^ 48 - 1) }
        let taken (t : State) (cond : ChunkCond) (counts : EngineStats) : Prop :=
          exec (.descriptorWriteComplete .clean) s = .next t ∧ t.mem.desc = w.desc ∧ t.index.writes = ws ∧ t.index.waiting = [] ∧
          t.index.copy = { s.index.copy with reserved := w.desc.reserved } ∧ t.index.counter = s.index.counter + 1 ∧
          t.index.inflight = s.index.inflight.eraseP (fun o => o.kind.key == .lookup l.slot l.ordinal) ∧
          t.index.stats = counts ∧
          t.index.error = (s.index.error || decide (use = .conflict)) ∧
          ((s.slot l.slot).state.isOpen = true →
            (t.slot l.slot).pending = (s.slot l.slot).pending.map (fun p => if p.ordinal = l.ordinal then { p with cond := cond } else p)) ∧
          ((s.slot l.slot).state = .aborting → (t.slot l.slot).pending = (s.slot l.slot).pending ∧
            (t.slot l.slot).state = if (s.slot l.slot).inflight ≤ 1 then .aborted else .aborting) ∧
          (t.slot l.slot).inflight = (s.slot l.slot).inflight - 1 ∧ ∀ j, j ≠ l.slot → t.slot j = s.slot j
        let unplaced (cond : ChunkCond) (counts : EngineStats) : Prop :=
          ∃ t, taken t cond counts ∧ t.mem.ways = s.mem.ways ∧ t.pool = s.pool ∧ t.index.occupancy = s.index.occupancy ∧
            t.index.withdrawal = s.index.withdrawal ∧ (t.slot l.slot).provList = (s.slot l.slot).provList ∧
            (t.slot l.slot).provCount = (s.slot l.slot).provCount
        (use = .conflict → unplaced (.resolved .conflict s.index.counter .none)
          { stats with conflicts := min (s.index.stats.conflicts + 1) (2 ^ 48 - 1) }) ∧
        (use = .bucketFull ∨ use = .insert ∧ (∀ v, s.entry op.bucket v ≠ none) → unplaced (.resolved .unindexed s.index.counter .bucketFull)
          { stats with bucketFull := min (s.index.stats.bucketFull + 1) (2 ^ 48 - 1) }) ∧
        (use = .fillYield → unplaced (.resolved .unindexed s.index.counter .fillYield)
          { stats with fillYields := min (s.index.stats.fillYields + 1) (2 ^ 48 - 1) }) ∧
        ∀ v, use = .insert → s.Canonical → s.entry op.bucket v = none → (∀ x, x < v → s.entry op.bucket x ≠ none) →
          ((s.slot l.slot).cls.provisionalLimit ≤ (s.slot l.slot).provCount ∨ s.pool.length = 16384 →
            unplaced (.resolved .unindexed s.index.counter .provisionalLimit) stats) ∧
          ((s.slot l.slot).provCount < (s.slot l.slot).cls.provisionalLimit → s.pool.length < 16384 →
            ∃ t r, taken t (.resolved .new s.index.counter .none)
                { stats with inserts := min (s.index.stats.inserts + 1) (2 ^ 48 - 1) } ∧ r < 16384 ∧ s.record r = none ∧
              t.record r = some { bucket := op.bucket, way := v, owner := l.slot, ordinal := l.ordinal, waiters := []
                                  disp := if (s.slot l.slot).state.isOpen then .live else .withdrawing } ∧
              (∀ q, q ≠ r → t.record q = s.record q) ∧
              ((s.slot l.slot).state.isOpen = true → (t.slot l.slot).provCount = (s.slot l.slot).provCount + 1 ∧
                t.index.withdrawal = s.index.withdrawal ∧
                ∃ as bs, (s.slot l.slot).provList = as ++ bs ∧ (t.slot l.slot).provList = as ++ r :: bs ∧
                  (∀ q ∈ as, ∀ p, s.record q = some p → p.ordinal < l.ordinal) ∧
                  ∀ q p, bs.head? = some q → s.record q = some p → l.ordinal ≤ p.ordinal) ∧
              ((s.slot l.slot).state = .aborting → (t.slot l.slot).provCount = (s.slot l.slot).provCount ∧
                (t.slot l.slot).provList = (s.slot l.slot).provList ∧ t.index.withdrawal = s.index.withdrawal ++ [r]) ∧
              t.entry op.bucket v = some
                { state := .provisional l.slot l.ordinal, digest := l.digest, number := s.index.counter, length := l.length, check := l.check,
                  lastHit := s.index.copy.epoch } ∧
              (∀ b x, wayKey b x ≠ wayKey op.bucket v → t.entry b x = s.entry b x) ∧
              t.index.occupancy = s.index.occupancy + 1)) ∧
      (∀ (r : Nat) (p : PoolRecord) (e : Entry) (op : Op) (h : Waiter) (as rest : List Waiter) (base : Nat), w.use = .reserve →
        s.index.waiting = [.withdraw r] → s.index.inflight.find? (fun o => o.kind.key == .withdraw r) = some op → op.halt = some (.walk r h) →
        s.record r = some p → s.entry p.bucket p.way = some e → p.waiters.Nodup → p.waiters = as ++ rest →
        p.waiters.head? = some h ∧ base = s.index.counter ∨ h ∉ p.waiters ∧ base = s.index.counter + 1 →
        (∀ x ∈ as, (s.slot x.slot).state = .aborting ∨
          (s.slot x.slot).state.isOpen = true ∧ (s.slot x.slot).cls.provisionalLimit ≤ (s.slot x.slot).provCount) →
        s.index.counter < w.desc.reserved → base + as.length ≤ w.desc.reserved →
        let stats : EngineStats := { s.index.stats with withdrawals := min (s.index.stats.withdrawals + 1) (2 ^ 48 - 1) }
        let others : IndexUnit := { s.index with
          writes := ws, waiting := [], copy := { s.index.copy with reserved := w.desc.reserved }
          inflight := s.index.inflight.eraseP (fun o => o.kind.key == .withdraw r) }
        let passed (j : SlotNo) (x : PendingChunk) : PendingChunk :=
          if as.contains { slot := j, ordinal := x.ordinal } then
            { x with cond := .resolved .unindexed (base + as.idxOf { slot := j, ordinal := x.ordinal }) .provisionalLimit }
          else x
        let walked (t : State) (left : List Waiter) : Prop :=
          exec (.descriptorWriteComplete .clean) s = .next t ∧ t.mem.desc = w.desc ∧
          (∀ b y, wayKey b y ≠ wayKey p.bucket p.way → t.entry b y = s.entry b y) ∧ (∀ q, q ≠ r → t.record q = s.record q) ∧
          (∀ j, (t.slot j).inflight = (s.slot j).inflight - (p.waiters.countP (fun x => x.slot == j) - left.countP (fun x => x.slot == j))) ∧
          ∀ j, (s.slot j).state = .aborting → (t.slot j).pending = (s.slot j).pending ∧
            ((∃ x ∈ as, x.slot = j) → (t.slot j).state = if (t.slot j).inflight = 0 then .aborted else .aborting)
        (rest = [] → s.Canonical →
          ∃ t, walked t [] ∧ t.entry p.bucket p.way = none ∧ t.record r = none ∧
            t.index = { others with counter := base + as.length, occupancy := s.index.occupancy - 1, stats := stats } ∧
            (∀ j, (s.slot j).state.isOpen = true → (t.slot j).pending = (s.slot j).pending.map (passed j)) ∧
            ∀ j, (∀ x ∈ as, x.slot ≠ j) → t.slot j = s.slot j) ∧
        ∀ v vs left i n, rest = v :: vs → i = v.slot → (s.slot i).state.isOpen = true →
          (s.slot i).provCount < (s.slot i).cls.provisionalLimit → n = base + as.length → n < w.desc.reserved →
          left = vs.filter (fun x => x.slot != i) →
          ∃ t, walked t left ∧
            t.entry p.bucket p.way = some { e with state := .provisional i v.ordinal, number := n, lastHit := s.index.copy.epoch } ∧
            t.record r = some { p with owner := i, ordinal := v.ordinal, disp := .live, waiters := left } ∧
            t.index = { others with
              counter := n + 1, stats := { stats with takeovers := min (s.index.stats.takeovers + 1) (2 ^ 48 - 1) } } ∧
            (t.slot i).provCount = (s.slot i).provCount + 1 ∧
            (∃ xs ys, (s.slot i).provList = xs ++ ys ∧ (t.slot i).provList = xs ++ r :: ys ∧
              (∀ q ∈ xs, q ≠ r → ∀ o, s.record q = some o → o.ordinal < v.ordinal) ∧
              ∀ q o, ys.head? = some q → q ≠ r → s.record q = some o → v.ordinal ≤ o.ordinal) ∧
            (∀ j, (s.slot j).state.isOpen = true → (t.slot j).pending = (s.slot j).pending.map (fun x =>
              if j = i ∧ x.ordinal = v.ordinal then { x with cond := .resolved .new n .none }
              else if j = i ∧ vs.contains { slot := i, ordinal := x.ordinal } then { x with cond := .resolved .dup n .none }
              else passed j x)) ∧
            ∀ j, j ≠ i → (∀ x ∈ as, x.slot ≠ j) → t.slot j = s.slot j) ∧
      (∀ key op r live p v vs rest, w.use = .reserve → s.index.waiting = [key] → s.index.inflight.find? (fun o => o.kind.key == key) = some op →
        op.halt = some (.loss r live v rest) → (∀ x ∈ rest, x.2 = .clean) → s.record r = some p → p.waiters = v :: vs → p.waiters.Nodup →
        (s.slot v.slot).state.isOpen = true ∨ (s.slot v.slot).state = .aborting → (∀ x ∈ vs, (s.slot x.slot).state.isOpen = true) →
        s.index.counter + p.waiters.length ≤ w.desc.reserved → s.Canonical →
        ∃ u : State, exec (.descriptorWriteComplete .clean) s = .next (s.endEvent (State.settleOp key (u.runBody op)).refreshAll) ∧
          u.mem = { s.mem with desc := w.desc } ∧
          u.index = { s.index with
            writes := ws, waiting := [], counter := s.index.counter + p.waiters.length
            copy := { s.index.copy with reserved := w.desc.reserved } } ∧
          u.record r = (if live = true then none else some { p with waiters := [] }) ∧ (∀ q, q ≠ r → u.record q = s.record q) ∧
          u.removals = s.removals.filter (fun m => !p.waiters.contains m.waiter) ∧
          (∀ j, (s.slot j).state.isOpen = true → (u.slot j).pending = (s.slot j).pending.map (fun x =>
            if p.waiters.contains { slot := j, ordinal := x.ordinal } then
              { x with cond := .resolved .unindexed (s.index.counter + p.waiters.idxOf { slot := j, ordinal := x.ordinal }) .bucketFull }
            else x)) ∧
          (∀ j, (u.slot j).inflight = (s.slot j).inflight - p.waiters.countP (fun x => x.slot == j)) ∧
          ((s.slot v.slot).state = .aborting → (u.slot v.slot).pending = (s.slot v.slot).pending ∧
            (u.slot v.slot).state = if (s.slot v.slot).inflight ≤ 1 then .aborted else .aborting) ∧
          ∀ j, (∀ x ∈ p.waiters, x.slot ≠ j) → u.slot j = s.slot j) ∧
      (∀ cell value tag, w.use = .epoch cell value → s.mayWrite = true → (s.requests.get cell).inflight = some tag →
        ∃ t, exec (.descriptorWriteComplete .clean) s = .next t ∧ s.Answered t cell tag [.reqResult cell (.epoch value)] .done ∧
          t = { s with
            mem := { s.mem with desc := w.desc }, index := { s.index with writes := ws }, requests := t.requests, port := t.port
            notice := (s.raiseLevel s.header.requestLevel).notice }) ∧
      (∀ j tag, w.use = .formatDone → s.index.format = some j → s.mayWrite = true → (s.requests.get j.cell).inflight = some tag →
        ∃ t, exec (.descriptorWriteComplete .clean) s = .next t ∧
          s.Answered t j.cell tag [.reqResult j.cell (.generation w.desc.generation)] .done ∧
          t = { s with
            mem := { s.mem with desc := w.desc }
            index := { s.index with
              writes := ws, state := .ready, counter := j.counterStart, occupancy := 0, fill := .normal, fillCount := 0, format := none }
            requests := t.requests, port := t.port, notice := (s.raiseLevel s.header.requestLevel).notice })) ∧
  ∀ (s : State) (w : DescWrite) (ws : List DescWrite), s.Settled → s.index.writeFailed = false → s.index.writes = w :: ws → s.ctl.engine ≠ .faulted →
    ∃ t, exec (.descriptorWriteComplete .uncorrectable) s = .next t ∧
      t.ctl = { s.ctl with engine := .faulted, faultCause := .indexDescriptor, starting := false } ∧ t.time = { s.time with running := false } ∧
      t.sweep = { flight := none, remembered := false } ∧ (∀ n : LaneNo, (t.lanes.get n).turn = none) ∧
      t.index = { s.index with writeFailed := true } ∧ t.port.posted = s.port.posted ∧ t.slots = s.slots ∧ t.notice = s.notice ∧
      ∀ ecc, exec (.descriptorWriteComplete ecc) t = .fault .noDescriptorWrite

/-- When all that a FORMAT waits for has completed, its own first write included, every way of the new buckets is written EMPTY, and the new descriptor, of the next
generation, replaces the copy and is written (steps 1 to 4 of R87).
That the first write is among what it waits for is deduced (log entry 20). -/
def Obligations.FormatClears : Prop :=
  ∀ (s : State) (j : FormatJob) (d : Descriptor), s.Settled → s.index.format = some j → j.cleared = false → s.index.inflight = [] → s.lookups = [] →
    s.index.firming = [] → s.index.withdrawal = [] → s.index.requests = [] → s.index.writes = [] →
    d = { valid := true, k := j.k, reserved := j.counterStart, epoch := j.epochStart, generation := s.index.copy.generation + 1 } →
    ∃ t, exec .formatClear s = .next t ∧ t = { s.begun with mem := { s.mem with ways := t.mem.ways }, index := t.index } ∧
      t.index = { s.index with
        copy := d, writes := [{ desc := d, use := .formatDone }], format := some { j with cleared := true } } ∧
      (∀ b w, b < 2 ^ j.k → t.entry b w = none) ∧ ∀ b w, 2 ^ j.k ≤ b → t.entry b w = s.entry b w

/-! ### Recipes (R117 to R119) -/

/-- An emission writes the head's recipe entry at its position in the circular area and behind it Recipe Written, takes the head off, joins its end offset to the
Extent List and counts it; the state is then that of the new head, or SETTLING or CLOSED for a finished stream with nothing left.
A slot so made eligible joins the tail of the Run List where it is not on it and no lane works it (R17, R26, R27, R28, R43, R117, R118, R119, R128). -/
def Obligations.EmissionWritesTheHead : Prop :=
  ∀ (s : State) (i : SlotNo) (c : Slot) (p : PendingChunk) (ps : List PendingChunk) (v : Verdict) (number : Nat) (cause : Cause),
    c = s.slot i → s.Settled → s.mayWrite = true → c.state = .active → c.pending = p :: ps → p.cond = .resolved v number cause →
    c.written - c.taken < c.areaSize →
    ∃ t ws, exec (.emission i) s = .next t ∧
      s.Writes t
        ([HostWrite.recipe (c.areaAddr + 64 * (p.ordinal % c.areaSize))
            { ordinal := p.ordinal, offset := p.offset, length := p.length, verdict := v, number := number, cause := cause, check := p.check,
              digest := p.digest }, .slotWritten i (c.written + 1)] ++ ws) ∧
      (t.slot i).marks = (t.slot i).marksDue ∧
      t.slot i = { c with
        pending := ps, written := c.written + 1, extents := c.extents ++ [{ ordinal := p.ordinal, stop := p.offset + p.length }]
        stats := (t.slot i).stats, state := (t.slot i).state, marks := (t.slot i).marks, shown := (t.slot i).shown } ∧
      (t.slot i).stats = { c.stats with
        chunks := min (c.stats.chunks + 1) (2 ^ 48 - 1)
        dupChunks := if v = .dup then min (c.stats.dupChunks + 1) (2 ^ 48 - 1) else c.stats.dupChunks
        dupBytes := if v = .dup then min (c.stats.dupBytes + p.length) (2 ^ 48 - 1) else c.stats.dupBytes
        unindexed := if v = .unindexed ∨ v = .conflict then min (c.stats.unindexed + 1) (2 ^ 48 - 1) else c.stats.unindexed } ∧
      (c.chunker.finished = true → ps = [] →
        (t.slot i).state = if c.stored = c.written + 1 ∧ c.inflight = 0 then .closed else .settling) ∧
      (c.chunker.finished = false ∨ ps ≠ [] → (t.slot i).state = (t.slot i).decided) ∧
      t.runList = (if (t.slot i).eligible = true ∧ i ∉ s.runList ∧ s.worked i = false then s.runList ++ [i] else s.runList) ∧
      t = { s with slots := t.slots, runList := t.runList, notice := t.notice, port := t.port } ∧ ∀ j, j ≠ i → t.slot j = s.slot j

/-! ### Stops -/

/-- An event that its rule does not let arise in a state stops with a fault of its own name (R18, R42, R54, R58, R69, R70, R79, R87, R119, R152 to R156, R170,
R173).
That a command so misplaced stops is the model's choice (log entry 5).
That removals asked for keep ENTER_STOPPED from arising is the model's choice (log entry 24), and that any descriptor write, a FORMAT's own first included, keeps
FORMAT_CLEAR from arising is deduced (log entry 20). -/
def Obligations.EventsOutOfPlaceStop : Prop :=
  ∀ s : State, s.Settled →
    (s.time.running = false → exec .tick s = .fault .timebaseStopped) ∧
    (∀ map, s.time.countdown ≠ 0 ∨ s.time.running = false ∨ s.mayWrite = false →
      exec (.sweepCountdownExpiry map) s = .fault .countdownRunning) ∧
    (∀ header table, s.ctl.starting = false → exec (.startComplete header table) s = .fault .noStart) ∧
    (s.ctl.engine ≠ .quiescing ∨ s.sweep.flight.isSome = true ∨ s.index.writes ≠ [] ∨ s.removals ≠ [] → exec .enterStopped s = .fault .notDrained) ∧
    (∀ i, (s.slot i).state.isLive = true → exec (.idleCountdownExpiry i) s = .fault .countdownRunning) ∧
    (∀ i post half, s.sweep.flight = none → exec (.slotHostHalfTaken i post half) s = .fault .noSweep) ∧
    (∀ i j left post half, s.sweep.flight = some (.slots (j :: left)) → i ≠ j → exec (.slotHostHalfTaken i post half) s = .fault .slotNotDue) ∧
    (∀ table, s.sweep.flight = none ∨ s.ctl.engine ≠ .running ∧ s.sweep.flight = some (.slots []) ∨
        (∃ j left, s.sweep.flight = some (.slots (j :: left))) → exec (.requestTableRead table) s = .fault .noSweep) ∧
    (∀ map, s.sweep.flight = none ∨ (∃ j left, s.sweep.flight = some (.slots (j :: left))) ∨ (∃ x xs, s.sweep.flight = some (.requests (x :: xs))) →
      exec (.sweepEnd map) s = .fault .noSweep) ∧
    (∀ cell half c, s.sweep.flight = none →
      c ∈ [Instr.format cell, .setClass cell, .openStream cell half, .close cell, .abort cell, .release cell, .seed cell, .retire cell, .setEpoch cell,
        .snapshotSlot cell, .snapshotEngine cell, .unknownRequest cell] → exec c s = .fault .notNextRequest) ∧
    (∀ n, s.mayWrite = false ∨ (s.lanes.get n).turn.isSome = true ∨ (s.lanes.get n).read.isSome = true ∨ s.runList = [] →
      exec (.laneTakesSlot n) s = .fault .noLaneWork) ∧
    (∀ n data, (s.lanes.get n).read = none →
      exec (.segmentReadComplete (.lane n) data) s = .fault .noRead ∧ exec (.hostReadFailure (.lane n)) s = .fault .noRead ∧
        exec (.readTimeout (.lane n)) s = .fault .noRead) ∧
    (64 ≤ s.index.inflight.length → exec .operationAccepted s = .fault .nothingToAccept) ∧
    (∀ key ecc c, readyOp key s.index.inflight = none →
      ((∃ i o, key = .lookup i o ∧ c = .lookupInsertComplete i o ecc) ∨ (∃ r, key = .firm r ∧ c = .firmComplete r ecc) ∨
        (∃ r, key = .withdraw r ∧ c = .withdrawComplete r ecc) ∨ (∃ cell, key = .seed cell ∧ c = .seedComplete cell ecc) ∨
        (∃ cell, key = .retire cell ∧ c = .retireComplete cell ecc) ∨ (∃ b, key = .scan b ∧ c = .scanComplete b ecc)) →
      exec c s = .fault .notReady) ∧
    (∀ ecc, s.index.writes = [] ∨ s.index.writeFailed = true → exec (.descriptorWriteComplete ecc) s = .fault .noDescriptorWrite) ∧
    (s.index.format = none ∨ s.index.writes ≠ [] → exec .formatClear s = .fault .noFormat) ∧
    (∀ i, s.mayWrite = false ∨ (s.slot i).state ≠ .active ∨ (s.slot i).pending = [] → exec (.emission i) s = .fault .noEmission)


/-! ### What every step keeps -/

/-- The state after a cold reset meets every law that the statements below say is kept. -/
def Obligations.ResetMeetsTheLaws : Prop :=
  State.reset.Canonical ∧ State.reset.index.inflight.length ≤ 64 ∧ State.reset.CountsOk ∧ State.reset.ControlOk ∧ State.reset.StatesDecided ∧
  State.reset.ListsOk ∧ State.reset.PoolOk ∧ State.reset.NumbersOk ∧ State.reset.NoticesOk ∧ State.reset.ShownOk ∧ State.reset.Settled

/-- Every step keeps the sparse stores in canonical form, the Provisional Pool within its 16,384 records, and at most 64 operations in flight; and the Chunk Counter
at most Reserved Through and that at most 2^40, but for the counter of an index being formatted, with at most one reservation write outstanding, which does not lower
it (R68, R77, R78, R86, R87, R93). -/
def Obligations.StoresAndNumbersStayLawful : Prop :=
  ∀ s t : State, step s = .next t →
    (s.Canonical → t.Canonical) ∧ (s.index.inflight.length ≤ 64 → t.index.inflight.length ≤ 64) ∧ (s.NumbersOk → t.NumbersOk)

/-- Every step keeps, of every slot: Stored Through and Recipe Taken as held at most Recipe Written, the untaken entries within the recipe area, at most 8 pending
chunks, and Start Offset, Safe Offset and Consumed Offset in their order; and but at a reset neither the Safe Offset nor Recipe Written of a slot that is not FREE
ever decreases (R20, R127, R130). -/
def Obligations.CountersStayLawful : Prop :=
  ∀ s t : State, step s = .next t → s.CountsOk → t.CountsOk ∧
    ((∀ c ∈ s.pending.head?, isReset c = false) → ∀ i, (s.slot i).state ≠ .free →
      (s.slot i).safe ≤ (t.slot i).safe ∧ (s.slot i).written ≤ (t.slot i).written)

/-- Every step keeps: a START in progress in STOPPED only, a fault cause in FAULTED only, the Timebase running in RUNNING and QUIESCING only, a sweep in flight or
remembered there only, and an idle expiry due in RUNNING only (R41, R42, R152, R154, R170, R174). -/
def Obligations.ControlStaysLawful : Prop :=
  ∀ s t : State, step s = .next t → s.ControlOk → t.ControlOk

/-- Every step keeps each slot on the Run List at most once and off it while a lane works it, at most one lane at a slot, and of each slot: the order of its Feed
Queue, a cell queued exactly while its segment stands there, no segment that the Consumed Offset has passed, and the provisional list within the provisional count
within the bound Provisional Limit (R15, R17, R47, R51, R57, R94). -/
def Obligations.ListsStayLawful : Prop :=
  ∀ s t : State, step s = .next t → s.ListsOk → t.ListsOk

/-- Every step keeps the laws of the Provisional Pool: a FIRM and a WITHDRAW name a FIRMING and a WITHDRAWING record (or one since LOST), each at most once; a
provisional list holds its own stream's LIVE records, once and in ordinal order; every HELD pending chunk of an open stream is a waiter on the list of a record in use;
and a LOST record has waiters only while they are being dealt with (R70, R93, R96, R98, R103, R104, R107, R113). -/
def Obligations.PoolStaysLawful : Prop :=
  ∀ s t : State, step s = .next t → s.Canonical → s.PoolOk → t.PoolOk

/-- Every step hands on the conditions it changes: each condition set and the Ready Map hold the marks of R132, and a level stands pending once, and in RUNNING only
behind a notice of its own or a higher level (R132, R162, R163, R164, R165, R166). -/
def Obligations.NoticesStayHandedOn : Prop :=
  ∀ s t : State, step s = .next t → s.NoticesOk → t.NoticesOk

/-- In RUNNING and QUIESCING the host sees what the engine holds: after every step, the writes in their order leave every item of every device half but the Consumed
Offset and the statistics as the Context Store holds it, those two as last written, and every word of the Ready Map as the Notice Unit holds it
(R35, R43, R46, R50, R159, R163, R164, R172). -/
def Obligations.EngineShowsWhatItHolds : Prop :=
  ∀ s t : State, step s = .next t → s.ShownOk → t.ShownOk

/-- In FAULTED no command but a reset changes the engine's control state, its Timebase or its Class Table, or writes anything to host memory (R13, R46, R152, R168,
R170, R174). -/
def Obligations.FaultedIsSilent : Prop :=
  ∀ (c : Instr) (s t : State), s.ctl.engine = .faulted → s.ControlOk → isReset c = false → exec c s = .next t →
    t.ctl = s.ctl ∧ t.time = s.time ∧ t.classes = s.classes ∧ t.port.posted = s.port.posted

/-- A command that is no reset only adds writes, none of them in STOPPED or FAULTED but those of a START, and each is of bytes of the Exchange Area that the engine
owns, of one entry of an ACTIVE stream's recipe area, or of the Notice Word at the Notice Address (R46, R117, R148, R149, R164, R168).
A reset adds none, and drops from the last of them those not yet issued; what a command leaves for a reset to drop is among its own writes, so that a message or a
write of an earlier command stands (R169; log entry 28). -/
def Obligations.EngineWritesItsOwn : Prop :=
  ∀ (c : Instr) (s t : State), exec c s = .next t →
    (isReset c = true → t.port.recent = 0 ∧ ∃ n, s.port.posted.length - s.port.recent ≤ n ∧ t.port.posted = s.port.posted.take n) ∧
    (isReset c = false →
      ∃ ws : List Posted, t.port.posted = s.port.posted ++ ws ∧ t.port.recent ≤ ws.length ∧ ((s.mayWrite = false ∧ ∀ h b, c ≠ .startComplete h b) → ws = []) ∧
        ∀ w ∈ ws, w.area = t.ctl.area ∧
          (w.write.inArea = true ∧ w.area ≤ w.write.addr w.area ∧
              (∀ n, n < w.write.bytes.length → engineOwns (w.write.addr w.area - w.area + n) = true) ∨
            (∃ (i : SlotNo) (e : RecipeEntry) (n : Nat), w.write = .recipe ((s.slot i).areaAddr + 64 * n) e ∧ n < (s.slot i).areaSize ∧
              (s.slot i).state = .active ∧ w.write.bytes.length = 64) ∨
            w.write = .notice t.header.noticeAddress t.header.noticeWord))
end

