-- ==== Sys2Proof/Laws/State.lean ====
section
/-! SUPPORT. What each update of a state leaves alone, field by field, and what reading a slot, a lane or a port gives after one. -/

set_option Elab.async false

namespace Sys2Proof.Machine

variable (s : State)

@[simp] theorem State.setSlot_pending (i : SlotNo) (c : Slot) : (s.setSlot i c).pending = s.pending := rfl
@[simp] theorem State.setSlot_ctl (i : SlotNo) (c : Slot) : (s.setSlot i c).ctl = s.ctl := rfl
@[simp] theorem State.setSlot_header (i : SlotNo) (c : Slot) : (s.setSlot i c).header = s.header := rfl
@[simp] theorem State.setSlot_time (i : SlotNo) (c : Slot) : (s.setSlot i c).time = s.time := rfl
@[simp] theorem State.setSlot_sweep (i : SlotNo) (c : Slot) : (s.setSlot i c).sweep = s.sweep := rfl
@[simp] theorem State.setSlot_requests (i : SlotNo) (c : Slot) : (s.setSlot i c).requests = s.requests := rfl
@[simp] theorem State.setSlot_classes (i : SlotNo) (c : Slot) : (s.setSlot i c).classes = s.classes := rfl
@[simp] theorem State.setSlot_lanes (i : SlotNo) (c : Slot) : (s.setSlot i c).lanes = s.lanes := rfl
@[simp] theorem State.setSlot_runList (i : SlotNo) (c : Slot) : (s.setSlot i c).runList = s.runList := rfl
@[simp] theorem State.setSlot_lookups (i : SlotNo) (c : Slot) : (s.setSlot i c).lookups = s.lookups := rfl
@[simp] theorem State.setSlot_index (i : SlotNo) (c : Slot) : (s.setSlot i c).index = s.index := rfl
@[simp] theorem State.setSlot_mem (i : SlotNo) (c : Slot) : (s.setSlot i c).mem = s.mem := rfl
@[simp] theorem State.setSlot_pool (i : SlotNo) (c : Slot) : (s.setSlot i c).pool = s.pool := rfl
@[simp] theorem State.setSlot_removals (i : SlotNo) (c : Slot) : (s.setSlot i c).removals = s.removals := rfl
@[simp] theorem State.setSlot_notice (i : SlotNo) (c : Slot) : (s.setSlot i c).notice = s.notice := rfl
@[simp] theorem State.setSlot_port (i : SlotNo) (c : Slot) : (s.setSlot i c).port = s.port := rfl

@[simp] theorem State.postAlways_pending (ws : List HostWrite) : (s.postAlways ws).pending = s.pending := rfl
@[simp] theorem State.postAlways_ctl (ws : List HostWrite) : (s.postAlways ws).ctl = s.ctl := rfl
@[simp] theorem State.postAlways_header (ws : List HostWrite) : (s.postAlways ws).header = s.header := rfl
@[simp] theorem State.postAlways_time (ws : List HostWrite) : (s.postAlways ws).time = s.time := rfl
@[simp] theorem State.postAlways_sweep (ws : List HostWrite) : (s.postAlways ws).sweep = s.sweep := rfl
@[simp] theorem State.postAlways_requests (ws : List HostWrite) : (s.postAlways ws).requests = s.requests := rfl
@[simp] theorem State.postAlways_classes (ws : List HostWrite) : (s.postAlways ws).classes = s.classes := rfl
@[simp] theorem State.postAlways_slots (ws : List HostWrite) : (s.postAlways ws).slots = s.slots := rfl
@[simp] theorem State.postAlways_lanes (ws : List HostWrite) : (s.postAlways ws).lanes = s.lanes := rfl
@[simp] theorem State.postAlways_runList (ws : List HostWrite) : (s.postAlways ws).runList = s.runList := rfl
@[simp] theorem State.postAlways_lookups (ws : List HostWrite) : (s.postAlways ws).lookups = s.lookups := rfl
@[simp] theorem State.postAlways_index (ws : List HostWrite) : (s.postAlways ws).index = s.index := rfl
@[simp] theorem State.postAlways_mem (ws : List HostWrite) : (s.postAlways ws).mem = s.mem := rfl
@[simp] theorem State.postAlways_pool (ws : List HostWrite) : (s.postAlways ws).pool = s.pool := rfl
@[simp] theorem State.postAlways_removals (ws : List HostWrite) : (s.postAlways ws).removals = s.removals := rfl
@[simp] theorem State.postAlways_notice (ws : List HostWrite) : (s.postAlways ws).notice = s.notice := rfl

@[simp] theorem State.setLane_pending (n : LaneNo) (l : Lane) : (s.setLane n l).pending = s.pending := rfl
@[simp] theorem State.setLane_ctl (n : LaneNo) (l : Lane) : (s.setLane n l).ctl = s.ctl := rfl
@[simp] theorem State.setLane_header (n : LaneNo) (l : Lane) : (s.setLane n l).header = s.header := rfl
@[simp] theorem State.setLane_time (n : LaneNo) (l : Lane) : (s.setLane n l).time = s.time := rfl
@[simp] theorem State.setLane_sweep (n : LaneNo) (l : Lane) : (s.setLane n l).sweep = s.sweep := rfl
@[simp] theorem State.setLane_requests (n : LaneNo) (l : Lane) : (s.setLane n l).requests = s.requests := rfl
@[simp] theorem State.setLane_classes (n : LaneNo) (l : Lane) : (s.setLane n l).classes = s.classes := rfl
@[simp] theorem State.setLane_slots (n : LaneNo) (l : Lane) : (s.setLane n l).slots = s.slots := rfl
@[simp] theorem State.setLane_runList (n : LaneNo) (l : Lane) : (s.setLane n l).runList = s.runList := rfl
@[simp] theorem State.setLane_lookups (n : LaneNo) (l : Lane) : (s.setLane n l).lookups = s.lookups := rfl
@[simp] theorem State.setLane_index (n : LaneNo) (l : Lane) : (s.setLane n l).index = s.index := rfl
@[simp] theorem State.setLane_mem (n : LaneNo) (l : Lane) : (s.setLane n l).mem = s.mem := rfl
@[simp] theorem State.setLane_pool (n : LaneNo) (l : Lane) : (s.setLane n l).pool = s.pool := rfl
@[simp] theorem State.setLane_removals (n : LaneNo) (l : Lane) : (s.setLane n l).removals = s.removals := rfl
@[simp] theorem State.setLane_notice (n : LaneNo) (l : Lane) : (s.setLane n l).notice = s.notice := rfl
@[simp] theorem State.setLane_port (n : LaneNo) (l : Lane) : (s.setLane n l).port = s.port := rfl

@[simp] theorem State.setRecord_pending (r : Nat) (p : PoolRecord) : (s.setRecord r p).pending = s.pending := rfl
@[simp] theorem State.setRecord_ctl (r : Nat) (p : PoolRecord) : (s.setRecord r p).ctl = s.ctl := rfl
@[simp] theorem State.setRecord_header (r : Nat) (p : PoolRecord) : (s.setRecord r p).header = s.header := rfl
@[simp] theorem State.setRecord_time (r : Nat) (p : PoolRecord) : (s.setRecord r p).time = s.time := rfl
@[simp] theorem State.setRecord_sweep (r : Nat) (p : PoolRecord) : (s.setRecord r p).sweep = s.sweep := rfl
@[simp] theorem State.setRecord_requests (r : Nat) (p : PoolRecord) : (s.setRecord r p).requests = s.requests := rfl
@[simp] theorem State.setRecord_classes (r : Nat) (p : PoolRecord) : (s.setRecord r p).classes = s.classes := rfl
@[simp] theorem State.setRecord_slots (r : Nat) (p : PoolRecord) : (s.setRecord r p).slots = s.slots := rfl
@[simp] theorem State.setRecord_lanes (r : Nat) (p : PoolRecord) : (s.setRecord r p).lanes = s.lanes := rfl
@[simp] theorem State.setRecord_runList (r : Nat) (p : PoolRecord) : (s.setRecord r p).runList = s.runList := rfl
@[simp] theorem State.setRecord_lookups (r : Nat) (p : PoolRecord) : (s.setRecord r p).lookups = s.lookups := rfl
@[simp] theorem State.setRecord_index (r : Nat) (p : PoolRecord) : (s.setRecord r p).index = s.index := rfl
@[simp] theorem State.setRecord_mem (r : Nat) (p : PoolRecord) : (s.setRecord r p).mem = s.mem := rfl
@[simp] theorem State.setRecord_removals (r : Nat) (p : PoolRecord) : (s.setRecord r p).removals = s.removals := rfl
@[simp] theorem State.setRecord_notice (r : Nat) (p : PoolRecord) : (s.setRecord r p).notice = s.notice := rfl
@[simp] theorem State.setRecord_port (r : Nat) (p : PoolRecord) : (s.setRecord r p).port = s.port := rfl

@[simp] theorem State.freeRecord_pending (r : Nat) : (s.freeRecord r).pending = s.pending := rfl
@[simp] theorem State.freeRecord_ctl (r : Nat) : (s.freeRecord r).ctl = s.ctl := rfl
@[simp] theorem State.freeRecord_header (r : Nat) : (s.freeRecord r).header = s.header := rfl
@[simp] theorem State.freeRecord_time (r : Nat) : (s.freeRecord r).time = s.time := rfl
@[simp] theorem State.freeRecord_sweep (r : Nat) : (s.freeRecord r).sweep = s.sweep := rfl
@[simp] theorem State.freeRecord_requests (r : Nat) : (s.freeRecord r).requests = s.requests := rfl
@[simp] theorem State.freeRecord_classes (r : Nat) : (s.freeRecord r).classes = s.classes := rfl
@[simp] theorem State.freeRecord_slots (r : Nat) : (s.freeRecord r).slots = s.slots := rfl
@[simp] theorem State.freeRecord_lanes (r : Nat) : (s.freeRecord r).lanes = s.lanes := rfl
@[simp] theorem State.freeRecord_runList (r : Nat) : (s.freeRecord r).runList = s.runList := rfl
@[simp] theorem State.freeRecord_lookups (r : Nat) : (s.freeRecord r).lookups = s.lookups := rfl
@[simp] theorem State.freeRecord_index (r : Nat) : (s.freeRecord r).index = s.index := rfl
@[simp] theorem State.freeRecord_mem (r : Nat) : (s.freeRecord r).mem = s.mem := rfl
@[simp] theorem State.freeRecord_removals (r : Nat) : (s.freeRecord r).removals = s.removals := rfl
@[simp] theorem State.freeRecord_notice (r : Nat) : (s.freeRecord r).notice = s.notice := rfl
@[simp] theorem State.freeRecord_port (r : Nat) : (s.freeRecord r).port = s.port := rfl

@[simp] theorem State.editStats_pending (f : EngineStats → EngineStats) : (s.editStats f).pending = s.pending := rfl
@[simp] theorem State.editStats_ctl (f : EngineStats → EngineStats) : (s.editStats f).ctl = s.ctl := rfl
@[simp] theorem State.editStats_header (f : EngineStats → EngineStats) : (s.editStats f).header = s.header := rfl
@[simp] theorem State.editStats_time (f : EngineStats → EngineStats) : (s.editStats f).time = s.time := rfl
@[simp] theorem State.editStats_sweep (f : EngineStats → EngineStats) : (s.editStats f).sweep = s.sweep := rfl
@[simp] theorem State.editStats_requests (f : EngineStats → EngineStats) : (s.editStats f).requests = s.requests := rfl
@[simp] theorem State.editStats_classes (f : EngineStats → EngineStats) : (s.editStats f).classes = s.classes := rfl
@[simp] theorem State.editStats_slots (f : EngineStats → EngineStats) : (s.editStats f).slots = s.slots := rfl
@[simp] theorem State.editStats_lanes (f : EngineStats → EngineStats) : (s.editStats f).lanes = s.lanes := rfl
@[simp] theorem State.editStats_runList (f : EngineStats → EngineStats) : (s.editStats f).runList = s.runList := rfl
@[simp] theorem State.editStats_lookups (f : EngineStats → EngineStats) : (s.editStats f).lookups = s.lookups := rfl
@[simp] theorem State.editStats_mem (f : EngineStats → EngineStats) : (s.editStats f).mem = s.mem := rfl
@[simp] theorem State.editStats_pool (f : EngineStats → EngineStats) : (s.editStats f).pool = s.pool := rfl
@[simp] theorem State.editStats_removals (f : EngineStats → EngineStats) : (s.editStats f).removals = s.removals := rfl
@[simp] theorem State.editStats_notice (f : EngineStats → EngineStats) : (s.editStats f).notice = s.notice := rfl
@[simp] theorem State.editStats_port (f : EngineStats → EngineStats) : (s.editStats f).port = s.port := rfl

@[simp] theorem State.issueWrite_pending (d : Descriptor) (u : WriteFor) : (s.issueWrite d u).pending = s.pending := rfl
@[simp] theorem State.issueWrite_ctl (d : Descriptor) (u : WriteFor) : (s.issueWrite d u).ctl = s.ctl := rfl
@[simp] theorem State.issueWrite_header (d : Descriptor) (u : WriteFor) : (s.issueWrite d u).header = s.header := rfl
@[simp] theorem State.issueWrite_time (d : Descriptor) (u : WriteFor) : (s.issueWrite d u).time = s.time := rfl
@[simp] theorem State.issueWrite_sweep (d : Descriptor) (u : WriteFor) : (s.issueWrite d u).sweep = s.sweep := rfl
@[simp] theorem State.issueWrite_requests (d : Descriptor) (u : WriteFor) : (s.issueWrite d u).requests = s.requests := rfl
@[simp] theorem State.issueWrite_classes (d : Descriptor) (u : WriteFor) : (s.issueWrite d u).classes = s.classes := rfl
@[simp] theorem State.issueWrite_slots (d : Descriptor) (u : WriteFor) : (s.issueWrite d u).slots = s.slots := rfl
@[simp] theorem State.issueWrite_lanes (d : Descriptor) (u : WriteFor) : (s.issueWrite d u).lanes = s.lanes := rfl
@[simp] theorem State.issueWrite_runList (d : Descriptor) (u : WriteFor) : (s.issueWrite d u).runList = s.runList := rfl
@[simp] theorem State.issueWrite_lookups (d : Descriptor) (u : WriteFor) : (s.issueWrite d u).lookups = s.lookups := rfl
@[simp] theorem State.issueWrite_mem (d : Descriptor) (u : WriteFor) : (s.issueWrite d u).mem = s.mem := rfl
@[simp] theorem State.issueWrite_pool (d : Descriptor) (u : WriteFor) : (s.issueWrite d u).pool = s.pool := rfl
@[simp] theorem State.issueWrite_removals (d : Descriptor) (u : WriteFor) : (s.issueWrite d u).removals = s.removals := rfl
@[simp] theorem State.issueWrite_notice (d : Descriptor) (u : WriteFor) : (s.issueWrite d u).notice = s.notice := rfl
@[simp] theorem State.issueWrite_port (d : Descriptor) (u : WriteFor) : (s.issueWrite d u).port = s.port := rfl

@[simp] theorem State.writeEntry_pending (b : Nat) (w : WayNo) (e : Entry) : (s.writeEntry b w e).pending = s.pending := rfl
@[simp] theorem State.writeEntry_ctl (b : Nat) (w : WayNo) (e : Entry) : (s.writeEntry b w e).ctl = s.ctl := rfl
@[simp] theorem State.writeEntry_header (b : Nat) (w : WayNo) (e : Entry) : (s.writeEntry b w e).header = s.header := rfl
@[simp] theorem State.writeEntry_time (b : Nat) (w : WayNo) (e : Entry) : (s.writeEntry b w e).time = s.time := rfl
@[simp] theorem State.writeEntry_sweep (b : Nat) (w : WayNo) (e : Entry) : (s.writeEntry b w e).sweep = s.sweep := rfl
@[simp] theorem State.writeEntry_requests (b : Nat) (w : WayNo) (e : Entry) : (s.writeEntry b w e).requests = s.requests := rfl
@[simp] theorem State.writeEntry_classes (b : Nat) (w : WayNo) (e : Entry) : (s.writeEntry b w e).classes = s.classes := rfl
@[simp] theorem State.writeEntry_slots (b : Nat) (w : WayNo) (e : Entry) : (s.writeEntry b w e).slots = s.slots := rfl
@[simp] theorem State.writeEntry_lanes (b : Nat) (w : WayNo) (e : Entry) : (s.writeEntry b w e).lanes = s.lanes := rfl
@[simp] theorem State.writeEntry_runList (b : Nat) (w : WayNo) (e : Entry) : (s.writeEntry b w e).runList = s.runList := rfl
@[simp] theorem State.writeEntry_lookups (b : Nat) (w : WayNo) (e : Entry) : (s.writeEntry b w e).lookups = s.lookups := rfl
@[simp] theorem State.writeEntry_index (b : Nat) (w : WayNo) (e : Entry) : (s.writeEntry b w e).index = s.index := rfl
@[simp] theorem State.writeEntry_pool (b : Nat) (w : WayNo) (e : Entry) : (s.writeEntry b w e).pool = s.pool := rfl
@[simp] theorem State.writeEntry_removals (b : Nat) (w : WayNo) (e : Entry) : (s.writeEntry b w e).removals = s.removals := rfl
@[simp] theorem State.writeEntry_notice (b : Nat) (w : WayNo) (e : Entry) : (s.writeEntry b w e).notice = s.notice := rfl
@[simp] theorem State.writeEntry_port (b : Nat) (w : WayNo) (e : Entry) : (s.writeEntry b w e).port = s.port := rfl

@[simp] theorem State.emptyWay_pending (b : Nat) (w : WayNo) : (s.emptyWay b w).pending = s.pending := rfl
@[simp] theorem State.emptyWay_ctl (b : Nat) (w : WayNo) : (s.emptyWay b w).ctl = s.ctl := rfl
@[simp] theorem State.emptyWay_header (b : Nat) (w : WayNo) : (s.emptyWay b w).header = s.header := rfl
@[simp] theorem State.emptyWay_time (b : Nat) (w : WayNo) : (s.emptyWay b w).time = s.time := rfl
@[simp] theorem State.emptyWay_sweep (b : Nat) (w : WayNo) : (s.emptyWay b w).sweep = s.sweep := rfl
@[simp] theorem State.emptyWay_requests (b : Nat) (w : WayNo) : (s.emptyWay b w).requests = s.requests := rfl
@[simp] theorem State.emptyWay_classes (b : Nat) (w : WayNo) : (s.emptyWay b w).classes = s.classes := rfl
@[simp] theorem State.emptyWay_slots (b : Nat) (w : WayNo) : (s.emptyWay b w).slots = s.slots := rfl
@[simp] theorem State.emptyWay_lanes (b : Nat) (w : WayNo) : (s.emptyWay b w).lanes = s.lanes := rfl
@[simp] theorem State.emptyWay_runList (b : Nat) (w : WayNo) : (s.emptyWay b w).runList = s.runList := rfl
@[simp] theorem State.emptyWay_lookups (b : Nat) (w : WayNo) : (s.emptyWay b w).lookups = s.lookups := rfl
@[simp] theorem State.emptyWay_index (b : Nat) (w : WayNo) : (s.emptyWay b w).index = s.index := rfl
@[simp] theorem State.emptyWay_pool (b : Nat) (w : WayNo) : (s.emptyWay b w).pool = s.pool := rfl
@[simp] theorem State.emptyWay_removals (b : Nat) (w : WayNo) : (s.emptyWay b w).removals = s.removals := rfl
@[simp] theorem State.emptyWay_notice (b : Nat) (w : WayNo) : (s.emptyWay b w).notice = s.notice := rfl
@[simp] theorem State.emptyWay_port (b : Nat) (w : WayNo) : (s.emptyWay b w).port = s.port := rfl

@[simp] theorem State.queueMaint_pending (o : MaintOp) : (s.queueMaint o).pending = s.pending := rfl
@[simp] theorem State.queueMaint_ctl (o : MaintOp) : (s.queueMaint o).ctl = s.ctl := rfl
@[simp] theorem State.queueMaint_header (o : MaintOp) : (s.queueMaint o).header = s.header := rfl
@[simp] theorem State.queueMaint_time (o : MaintOp) : (s.queueMaint o).time = s.time := rfl
@[simp] theorem State.queueMaint_sweep (o : MaintOp) : (s.queueMaint o).sweep = s.sweep := rfl
@[simp] theorem State.queueMaint_requests (o : MaintOp) : (s.queueMaint o).requests = s.requests := rfl
@[simp] theorem State.queueMaint_classes (o : MaintOp) : (s.queueMaint o).classes = s.classes := rfl
@[simp] theorem State.queueMaint_slots (o : MaintOp) : (s.queueMaint o).slots = s.slots := rfl
@[simp] theorem State.queueMaint_lanes (o : MaintOp) : (s.queueMaint o).lanes = s.lanes := rfl
@[simp] theorem State.queueMaint_runList (o : MaintOp) : (s.queueMaint o).runList = s.runList := rfl
@[simp] theorem State.queueMaint_lookups (o : MaintOp) : (s.queueMaint o).lookups = s.lookups := rfl
@[simp] theorem State.queueMaint_mem (o : MaintOp) : (s.queueMaint o).mem = s.mem := rfl
@[simp] theorem State.queueMaint_pool (o : MaintOp) : (s.queueMaint o).pool = s.pool := rfl
@[simp] theorem State.queueMaint_removals (o : MaintOp) : (s.queueMaint o).removals = s.removals := rfl
@[simp] theorem State.queueMaint_notice (o : MaintOp) : (s.queueMaint o).notice = s.notice := rfl
@[simp] theorem State.queueMaint_port (o : MaintOp) : (s.queueMaint o).port = s.port := rfl

@[simp] theorem State.startSweep_pending (map : List Byte) : (s.startSweep map).pending = s.pending := rfl
@[simp] theorem State.startSweep_ctl (map : List Byte) : (s.startSweep map).ctl = s.ctl := rfl
@[simp] theorem State.startSweep_header (map : List Byte) : (s.startSweep map).header = s.header := rfl
@[simp] theorem State.startSweep_time (map : List Byte) : (s.startSweep map).time = s.time := rfl
@[simp] theorem State.startSweep_requests (map : List Byte) : (s.startSweep map).requests = s.requests := rfl
@[simp] theorem State.startSweep_classes (map : List Byte) : (s.startSweep map).classes = s.classes := rfl
@[simp] theorem State.startSweep_slots (map : List Byte) : (s.startSweep map).slots = s.slots := rfl
@[simp] theorem State.startSweep_lanes (map : List Byte) : (s.startSweep map).lanes = s.lanes := rfl
@[simp] theorem State.startSweep_runList (map : List Byte) : (s.startSweep map).runList = s.runList := rfl
@[simp] theorem State.startSweep_lookups (map : List Byte) : (s.startSweep map).lookups = s.lookups := rfl
@[simp] theorem State.startSweep_index (map : List Byte) : (s.startSweep map).index = s.index := rfl
@[simp] theorem State.startSweep_mem (map : List Byte) : (s.startSweep map).mem = s.mem := rfl
@[simp] theorem State.startSweep_pool (map : List Byte) : (s.startSweep map).pool = s.pool := rfl
@[simp] theorem State.startSweep_removals (map : List Byte) : (s.startSweep map).removals = s.removals := rfl
@[simp] theorem State.startSweep_notice (map : List Byte) : (s.startSweep map).notice = s.notice := rfl
@[simp] theorem State.startSweep_port (map : List Byte) : (s.startSweep map).port = s.port := rfl

@[simp] theorem State.failStart_pending (e : StartError) : (s.failStart e).pending = s.pending := rfl
@[simp] theorem State.failStart_header (e : StartError) : (s.failStart e).header = s.header := rfl
@[simp] theorem State.failStart_time (e : StartError) : (s.failStart e).time = s.time := rfl
@[simp] theorem State.failStart_sweep (e : StartError) : (s.failStart e).sweep = s.sweep := rfl
@[simp] theorem State.failStart_requests (e : StartError) : (s.failStart e).requests = s.requests := rfl
@[simp] theorem State.failStart_classes (e : StartError) : (s.failStart e).classes = s.classes := rfl
@[simp] theorem State.failStart_slots (e : StartError) : (s.failStart e).slots = s.slots := rfl
@[simp] theorem State.failStart_lanes (e : StartError) : (s.failStart e).lanes = s.lanes := rfl
@[simp] theorem State.failStart_runList (e : StartError) : (s.failStart e).runList = s.runList := rfl
@[simp] theorem State.failStart_lookups (e : StartError) : (s.failStart e).lookups = s.lookups := rfl
@[simp] theorem State.failStart_index (e : StartError) : (s.failStart e).index = s.index := rfl
@[simp] theorem State.failStart_mem (e : StartError) : (s.failStart e).mem = s.mem := rfl
@[simp] theorem State.failStart_pool (e : StartError) : (s.failStart e).pool = s.pool := rfl
@[simp] theorem State.failStart_removals (e : StartError) : (s.failStart e).removals = s.removals := rfl
@[simp] theorem State.failStart_notice (e : StartError) : (s.failStart e).notice = s.notice := rfl
@[simp] theorem State.failStart_port (e : StartError) : (s.failStart e).port = s.port := rfl

@[simp] theorem State.begun_pending : s.begun.pending = s.pending := rfl
@[simp] theorem State.begun_ctl : s.begun.ctl = s.ctl := rfl
@[simp] theorem State.begun_header : s.begun.header = s.header := rfl
@[simp] theorem State.begun_time : s.begun.time = s.time := rfl
@[simp] theorem State.begun_sweep : s.begun.sweep = s.sweep := rfl
@[simp] theorem State.begun_requests : s.begun.requests = s.requests := rfl
@[simp] theorem State.begun_classes : s.begun.classes = s.classes := rfl
@[simp] theorem State.begun_slots : s.begun.slots = s.slots := rfl
@[simp] theorem State.begun_lanes : s.begun.lanes = s.lanes := rfl
@[simp] theorem State.begun_runList : s.begun.runList = s.runList := rfl
@[simp] theorem State.begun_lookups : s.begun.lookups = s.lookups := rfl
@[simp] theorem State.begun_index : s.begun.index = s.index := rfl
@[simp] theorem State.begun_mem : s.begun.mem = s.mem := rfl
@[simp] theorem State.begun_pool : s.begun.pool = s.pool := rfl
@[simp] theorem State.begun_removals : s.begun.removals = s.removals := rfl
@[simp] theorem State.begun_notice : s.begun.notice = s.notice := rfl
@[simp] theorem State.begun_posted : s.begun.port.posted = s.port.posted := rfl
@[simp] theorem State.begun_lostReads : s.begun.port.lostReads = s.port.lostReads := rfl
@[simp] theorem State.begun_recent : s.begun.port.recent = 0 := rfl
@[simp] theorem State.begun_slot (i : SlotNo) : s.begun.slot i = s.slot i := rfl
@[simp] theorem State.issued_recent (t : State) : (s.issued t).port.recent = t.port.posted.length - s.port.posted.length := rfl
@[simp] theorem State.begun_begun : s.begun.begun = s.begun := rfl

@[simp] theorem State.issued_pending (t : State) : (s.issued t).pending = t.pending := rfl
@[simp] theorem State.issued_ctl (t : State) : (s.issued t).ctl = t.ctl := rfl
@[simp] theorem State.issued_header (t : State) : (s.issued t).header = t.header := rfl
@[simp] theorem State.issued_time (t : State) : (s.issued t).time = t.time := rfl
@[simp] theorem State.issued_sweep (t : State) : (s.issued t).sweep = t.sweep := rfl
@[simp] theorem State.issued_requests (t : State) : (s.issued t).requests = t.requests := rfl
@[simp] theorem State.issued_classes (t : State) : (s.issued t).classes = t.classes := rfl
@[simp] theorem State.issued_slots (t : State) : (s.issued t).slots = t.slots := rfl
@[simp] theorem State.issued_lanes (t : State) : (s.issued t).lanes = t.lanes := rfl
@[simp] theorem State.issued_runList (t : State) : (s.issued t).runList = t.runList := rfl
@[simp] theorem State.issued_lookups (t : State) : (s.issued t).lookups = t.lookups := rfl
@[simp] theorem State.issued_index (t : State) : (s.issued t).index = t.index := rfl
@[simp] theorem State.issued_mem (t : State) : (s.issued t).mem = t.mem := rfl
@[simp] theorem State.issued_pool (t : State) : (s.issued t).pool = t.pool := rfl
@[simp] theorem State.issued_removals (t : State) : (s.issued t).removals = t.removals := rfl
@[simp] theorem State.issued_notice (t : State) : (s.issued t).notice = t.notice := rfl
@[simp] theorem State.issued_posted (t : State) : (s.issued t).port.posted = t.port.posted := rfl
@[simp] theorem State.issued_lostReads (t : State) : (s.issued t).port.lostReads = t.port.lostReads := rfl

/-! ### Reading after an update -/

@[simp] theorem State.slot_setSlot_self (i : SlotNo) (c : Slot) : (s.setSlot i c).slot i = c :=
  Vector.getElem_set_self i.isLt

@[simp] theorem State.slot_setSlot_of_ne (i j : SlotNo) (c : Slot) (h : j ≠ i) : (s.setSlot i c).slot j = s.slot j := by
  have : i.val ≠ j.val := fun e => h (Fin.ext e.symm)
  exact Vector.getElem_set_ne i.isLt j.isLt this

@[simp] theorem State.slot_editSlot_self (i : SlotNo) (f : Slot → Slot) : (s.editSlot i f).slot i = f (s.slot i) := by
  simp [State.editSlot]

@[simp] theorem State.slot_editSlot_of_ne (i j : SlotNo) (f : Slot → Slot) (h : j ≠ i) : (s.editSlot i f).slot j = s.slot j := by
  simp [State.editSlot, h]

@[simp] theorem State.slot_postAlways (ws : List HostWrite) (i : SlotNo) : (s.postAlways ws).slot i = s.slot i := rfl

@[simp] theorem State.slot_issued (t : State) (i : SlotNo) : (s.issued t).slot i = t.slot i := rfl

@[simp] theorem State.slot_post (ws : List HostWrite) (i : SlotNo) : (s.post ws).slot i = s.slot i := by
  unfold State.post; split <;> rfl

@[simp] theorem State.postAlways_posted (ws : List HostWrite) :
    (s.postAlways ws).port.posted = s.port.posted ++ ws.map (Posted.mk s.ctl.area) := rfl

@[simp] theorem State.postAlways_lostReads (ws : List HostWrite) : (s.postAlways ws).port.lostReads = s.port.lostReads := rfl

theorem State.post_of_mayWrite (ws : List HostWrite) (h : s.mayWrite = true) : s.post ws = s.postAlways ws := by
  simp [State.post, h]

theorem State.post_of_silent (ws : List HostWrite) (h : s.mayWrite = false) : s.post ws = s := by
  simp [State.post, h]

@[simp] theorem State.post_pending (ws : List HostWrite) : (s.post ws).pending = s.pending := by unfold State.post; split <;> rfl
@[simp] theorem State.post_ctl (ws : List HostWrite) : (s.post ws).ctl = s.ctl := by unfold State.post; split <;> rfl
@[simp] theorem State.post_header (ws : List HostWrite) : (s.post ws).header = s.header := by unfold State.post; split <;> rfl
@[simp] theorem State.post_time (ws : List HostWrite) : (s.post ws).time = s.time := by unfold State.post; split <;> rfl
@[simp] theorem State.post_sweep (ws : List HostWrite) : (s.post ws).sweep = s.sweep := by unfold State.post; split <;> rfl
@[simp] theorem State.post_requests (ws : List HostWrite) : (s.post ws).requests = s.requests := by unfold State.post; split <;> rfl
@[simp] theorem State.post_classes (ws : List HostWrite) : (s.post ws).classes = s.classes := by unfold State.post; split <;> rfl
@[simp] theorem State.post_slots (ws : List HostWrite) : (s.post ws).slots = s.slots := by unfold State.post; split <;> rfl
@[simp] theorem State.post_lanes (ws : List HostWrite) : (s.post ws).lanes = s.lanes := by unfold State.post; split <;> rfl
@[simp] theorem State.post_runList (ws : List HostWrite) : (s.post ws).runList = s.runList := by unfold State.post; split <;> rfl
@[simp] theorem State.post_lookups (ws : List HostWrite) : (s.post ws).lookups = s.lookups := by unfold State.post; split <;> rfl
@[simp] theorem State.post_index (ws : List HostWrite) : (s.post ws).index = s.index := by unfold State.post; split <;> rfl
@[simp] theorem State.post_mem (ws : List HostWrite) : (s.post ws).mem = s.mem := by unfold State.post; split <;> rfl
@[simp] theorem State.post_pool (ws : List HostWrite) : (s.post ws).pool = s.pool := by unfold State.post; split <;> rfl
@[simp] theorem State.post_removals (ws : List HostWrite) : (s.post ws).removals = s.removals := by unfold State.post; split <;> rfl
@[simp] theorem State.post_notice (ws : List HostWrite) : (s.post ws).notice = s.notice := by unfold State.post; split <;> rfl

@[simp] theorem State.editSlot_pending (i : SlotNo) (f : Slot → Slot) : (s.editSlot i f).pending = s.pending := rfl
@[simp] theorem State.editSlot_ctl (i : SlotNo) (f : Slot → Slot) : (s.editSlot i f).ctl = s.ctl := rfl
@[simp] theorem State.editSlot_header (i : SlotNo) (f : Slot → Slot) : (s.editSlot i f).header = s.header := rfl
@[simp] theorem State.editSlot_time (i : SlotNo) (f : Slot → Slot) : (s.editSlot i f).time = s.time := rfl
@[simp] theorem State.editSlot_sweep (i : SlotNo) (f : Slot → Slot) : (s.editSlot i f).sweep = s.sweep := rfl
@[simp] theorem State.editSlot_requests (i : SlotNo) (f : Slot → Slot) : (s.editSlot i f).requests = s.requests := rfl
@[simp] theorem State.editSlot_classes (i : SlotNo) (f : Slot → Slot) : (s.editSlot i f).classes = s.classes := rfl
@[simp] theorem State.editSlot_lanes (i : SlotNo) (f : Slot → Slot) : (s.editSlot i f).lanes = s.lanes := rfl
@[simp] theorem State.editSlot_runList (i : SlotNo) (f : Slot → Slot) : (s.editSlot i f).runList = s.runList := rfl
@[simp] theorem State.editSlot_lookups (i : SlotNo) (f : Slot → Slot) : (s.editSlot i f).lookups = s.lookups := rfl
@[simp] theorem State.editSlot_index (i : SlotNo) (f : Slot → Slot) : (s.editSlot i f).index = s.index := rfl
@[simp] theorem State.editSlot_mem (i : SlotNo) (f : Slot → Slot) : (s.editSlot i f).mem = s.mem := rfl
@[simp] theorem State.editSlot_pool (i : SlotNo) (f : Slot → Slot) : (s.editSlot i f).pool = s.pool := rfl
@[simp] theorem State.editSlot_removals (i : SlotNo) (f : Slot → Slot) : (s.editSlot i f).removals = s.removals := rfl
@[simp] theorem State.editSlot_notice (i : SlotNo) (f : Slot → Slot) : (s.editSlot i f).notice = s.notice := rfl
@[simp] theorem State.editSlot_port (i : SlotNo) (f : Slot → Slot) : (s.editSlot i f).port = s.port := rfl

@[simp] theorem State.slot_setLane (n : LaneNo) (l : Lane) (i : SlotNo) : (s.setLane n l).slot i = s.slot i := rfl

@[simp] theorem State.lane_setLane_self (n : LaneNo) (l : Lane) : (s.setLane n l).lanes.get n = l :=
  Vector.getElem_set_self n.isLt

end Sys2Proof.Machine
end

