-- ==== Sys2Proof/Laws/Tables.lean ====
section
/-! SUPPORT. Sparse tables: what is read after a write, and that every operation keeps the canonical form (the index memory's ways and the Provisional Pool). -/

set_option Elab.async false

namespace Sys2Proof.Machine

variable {α : Type}

/-- Every number listed after a write is the one written or was listed before. -/
theorem mem_tablePut {t : Table α} {n : Nat} {x : α} {e : Nat × α} (h : e ∈ tablePut t n x) : e = (n, x) ∨ e ∈ t := by
  induction t with
  | nil => simpa [tablePut] using h
  | cons a t ih =>
    obtain ⟨k, v⟩ := a
    simp only [tablePut] at h
    split at h
    · simpa using h
    · split at h
      · rcases List.mem_cons.1 h with h | h
        · exact .inl h
        · exact .inr (List.mem_cons_of_mem _ h)
      · rcases List.mem_cons.1 h with h | h
        · exact .inr (h ▸ List.mem_cons_self)
        · exact (ih h).imp_right (List.mem_cons_of_mem _)

theorem mem_tableErase {t : Table α} {n : Nat} {e : Nat × α} (h : e ∈ tableErase t n) : e ∈ t := by
  induction t with
  | nil => simp [tableErase] at h
  | cons a t ih =>
    obtain ⟨k, v⟩ := a
    simp only [tableErase] at h
    split at h
    · exact List.mem_cons_of_mem _ h
    · rcases List.mem_cons.1 h with h | h
      · exact h ▸ List.mem_cons_self
      · exact List.mem_cons_of_mem _ (ih h)

/-- A write keeps the canonical form. -/
theorem tableWf_tablePut {t : Table α} (n : Nat) (x : α) (h : tableWf t) : tableWf (tablePut t n x) := by
  induction t with
  | nil => simp [tablePut, tableWf]
  | cons a t ih =>
    obtain ⟨k, v⟩ := a
    obtain ⟨h1, h2⟩ := List.pairwise_cons.1 h
    simp only [tablePut]
    split
    · rename_i hn
      refine List.pairwise_cons.2 ⟨fun e he => ?_, h⟩
      rcases List.mem_cons.1 he with rfl | he
      · exact hn
      · exact hn.trans (h1 e he)
    · split
      · rename_i _ hn
        subst hn
        exact List.pairwise_cons.2 ⟨h1, h2⟩
      · refine List.pairwise_cons.2 ⟨fun e he => ?_, ih h2⟩
        rcases mem_tablePut he with rfl | he
        · simp only; omega
        · exact h1 e he

/-- A removal keeps the canonical form. -/
theorem tableWf_tableErase {t : Table α} (n : Nat) (h : tableWf t) : tableWf (tableErase t n) := by
  induction t with
  | nil => simp [tableErase, tableWf]
  | cons a t ih =>
    obtain ⟨k, v⟩ := a
    obtain ⟨h1, h2⟩ := List.pairwise_cons.1 h
    simp only [tableErase]
    split
    · exact h2
    · exact List.pairwise_cons.2 ⟨fun e he => h1 e (mem_tableErase he), ih h2⟩

/-- Dropping items keeps the canonical form. -/
theorem tableWf_filter {t : Table α} (p : Nat × α → Bool) (h : tableWf t) : tableWf (t.filter p) := h.filter p

/-- A number read after a write to it gives the value written. -/
theorem tableGet_tablePut_self {t : Table α} (n : Nat) (x : α) : tableGet (tablePut t n x) n = some x := by
  induction t with
  | nil => simp [tablePut, tableGet]
  | cons a t ih =>
    obtain ⟨k, v⟩ := a
    simp only [tablePut]
    split
    · simp [tableGet]
    · split
      · simp [tableGet]
      · rename_i h1 h2
        have : k ≠ n := fun e => h2 e.symm
        simp [tableGet, this, ih]

/-- A write leaves every other number alone. -/
theorem tableGet_tablePut_of_ne {t : Table α} {n m : Nat} (x : α) (h : m ≠ n) : tableGet (tablePut t n x) m = tableGet t m := by
  induction t with
  | nil => simp [tablePut, tableGet, h.symm]
  | cons a t ih =>
    obtain ⟨k, v⟩ := a
    simp only [tablePut]
    split
    · simp [tableGet, h.symm]
    · split
      · rename_i _ h2; subst h2; simp [tableGet, h.symm]
      · simp [tableGet, ih]

/-- In canonical form nothing is listed under a number below the first. -/
theorem tableGet_none_of_lt {t : Table α} {n : Nat} (h : ∀ e ∈ t, n < e.1) : tableGet t n = none := by
  induction t with
  | nil => rfl
  | cons a t ih =>
    obtain ⟨k, v⟩ := a
    have h1 : n < k := h _ List.mem_cons_self
    have : k ≠ n := by omega
    simp [tableGet, this, ih fun e he => h e (List.mem_cons_of_mem _ he)]

/-- In canonical form nothing is listed under a number that has been removed. -/
theorem tableGet_tableErase_self {t : Table α} {n : Nat} (h : tableWf t) : tableGet (tableErase t n) n = none := by
  induction t with
  | nil => rfl
  | cons a t ih =>
    obtain ⟨k, v⟩ := a
    obtain ⟨h1, h2⟩ := List.pairwise_cons.1 h
    simp only [tableErase]
    split
    · rename_i hk; subst hk; exact tableGet_none_of_lt h1
    · rename_i hk; simp [tableGet, hk, ih h2]

/-- A removal leaves every other number alone. -/
theorem tableGet_tableErase_of_ne {t : Table α} {n m : Nat} (h : m ≠ n) : tableGet (tableErase t n) m = tableGet t m := by
  induction t with
  | nil => rfl
  | cons a t ih =>
    obtain ⟨k, v⟩ := a
    simp only [tableErase]
    split
    · rename_i hk; subst hk; simp [tableGet, h.symm]
    · simp [tableGet, ih]

/-- What is read under a number is listed under it. -/
theorem mem_of_tableGet {t : Table α} {n : Nat} {x : α} (h : tableGet t n = some x) : (n, x) ∈ t := by
  induction t with
  | nil => simp [tableGet] at h
  | cons a t ih =>
    obtain ⟨k, v⟩ := a
    simp only [tableGet] at h
    split at h
    · rename_i hk; subst hk; simp only [Option.some.injEq] at h; subst h; exact List.mem_cons_self
    · exact List.mem_cons_of_mem _ (ih h)

end Sys2Proof.Machine
end

