-- ==== Sys2Proof/Laws/Aborts.lean ====
section
/-! SUPPORT. What the entry to ABORTING does (R22, R30, R32, R106): once for the records it gives up, once for the writes and the passage that end it, and once for
the whole. -/

set_option Elab.async false

namespace Sys2Proof.Machine

variable (s : State)

/-- A record given up for withdrawal is WITHDRAWING, and no other is touched. -/
theorem State.issueWithdraw_spec (r : Nat) :
    s.issueWithdraw r = { s with pool := (s.issueWithdraw r).pool, index := { s.index with withdrawal := s.index.withdrawal ++ [r] } } ∧
    ∀ q, (s.issueWithdraw r).record q = if q = r then (s.record q).map (fun p => { p with disp := .withdrawing }) else s.record q := by
  unfold State.issueWithdraw State.editRecord
  split
  · rename_i p h
    refine ⟨rfl, fun q => ?_⟩
    by_cases e : q = r
    · subst e; rw [if_pos rfl, h]; exact tableGet_tablePut_self _ _
    · rw [if_neg e]; exact tableGet_tablePut_of_ne _ e
  · rename_i h
    refine ⟨rfl, fun q => ?_⟩
    by_cases e : q = r
    · subst e; rw [if_pos rfl, h]; exact h
    · rw [if_neg e]; rfl

/-- So it is for each of a list of records, each joining the withdrawal source in turn. -/
theorem State.issueWithdraws_spec (rs : List Nat) : ∀ s : State,
    rs.foldl State.issueWithdraw s =
      { s with pool := (rs.foldl State.issueWithdraw s).pool, index := { s.index with withdrawal := s.index.withdrawal ++ rs } } ∧
    ∀ q, (rs.foldl State.issueWithdraw s).record q =
      if q ∈ rs then (s.record q).map (fun p => { p with disp := .withdrawing }) else s.record q := by
  induction rs with
  | nil => exact fun s => ⟨by simp, fun q => by simp⟩
  | cons r rs ih =>
    intro s
    obtain ⟨h1, h2⟩ := s.issueWithdraw_spec r
    obtain ⟨k1, k2⟩ := ih (s.issueWithdraw r)
    refine ⟨?_, fun q => ?_⟩
    · simp only [List.foldl_cons]; rw [k1, h1]; simp
    · simp only [List.foldl_cons, k2, h2, List.mem_cons]
      by_cases e : q = r
      · subst e; cases s.record q <;> simp
      · simp [e]

/-- Only the contexts and the port's writes differ. -/
def State.SlotsAndPort (s t : State) : Prop := t = { s with slots := t.slots, port := t.port }

theorem State.SlotsAndPort.trans {s t u : State} (h : s.SlotsAndPort t) (k : t.SlotsAndPort u) : s.SlotsAndPort u := by
  unfold State.SlotsAndPort at *; rw [k, h]

theorem State.post_slotsAndPort (ws : List HostWrite) : s.SlotsAndPort (s.post ws) := by
  unfold State.post; split <;> rfl

theorem State.editSlot_slotsAndPort (i : SlotNo) (f : Slot → Slot) : s.SlotsAndPort (s.editSlot i f) := rfl

theorem State.SlotsAndPort.mayWrite {s t : State} (h : s.SlotsAndPort t) : t.mayWrite = s.mayWrite := by
  rw [h]; rfl

/-- The Consumed Offset written is the one kept as last written, and nothing else of the contexts changes (R46). -/
theorem State.writeConsumed_spec (i : SlotNo) :
    s.SlotsAndPort (s.writeConsumed i) ∧
    (s.writeConsumed i).slot i = { s.slot i with shown := if s.mayWrite then (s.slot i).consumed else (s.slot i).shown } ∧
    ∀ j, j ≠ i → (s.writeConsumed i).slot j = s.slot j := by
  unfold State.writeConsumed
  split
  · exact ⟨(s.editSlot_slotsAndPort i _).trans (State.post_slotsAndPort _ _), by simp, fun j h => by simp [h]⟩
  · exact ⟨rfl, by simp, fun _ _ => rfl⟩

/-- A change of state changes the state and the Consumed Offset last written (R46). -/
theorem State.setSlotState_spec (i : SlotNo) (st : SlotState) :
    s.SlotsAndPort (s.setSlotState i st) ∧
    (s.setSlotState i st).slot i = { s.slot i with state := st, shown := if s.mayWrite then (s.slot i).consumed else (s.slot i).shown } ∧
    ∀ j, j ≠ i → (s.setSlotState i st).slot j = s.slot j := by
  unfold State.setSlotState
  obtain ⟨h1, h2, h3⟩ := State.writeConsumed_spec (s.editSlot i fun c => { c with state := st }) i
  refine ⟨((s.editSlot_slotsAndPort i _).trans h1).trans (State.post_slotsAndPort _ _), ?_, fun j h => ?_⟩
  · simp only [State.slot_post, h2, State.slot_editSlot_self]; rfl
  · simp [h3 j h, h]

/-- The end of the entry to ABORTING: the writes, and the passage to ABORTED where the in-flight count is 0 (R32, R46). -/
theorem State.endAborting_spec (i : SlotNo) (h : (s.slot i).state = .aborting) :
    let t := ((s.writeConsumed i).post [.slotState i .aborting]).tryAborted i
    s.SlotsAndPort t ∧
    t.slot i = { s.slot i with
      state := if (s.slot i).inflight = 0 then .aborted else .aborting, shown := if s.mayWrite then (s.slot i).consumed else (s.slot i).shown } ∧
    ∀ j, j ≠ i → t.slot j = s.slot j := by
  obtain ⟨h1, h2, h3⟩ := s.writeConsumed_spec i
  have p := h1.trans (State.post_slotsAndPort (s.writeConsumed i) [.slotState i .aborting])
  unfold State.tryAborted
  by_cases k : (s.slot i).inflight = 0
  · rw [if_pos (by simp [h2, h, k])]
    have q := p.trans (State.post_slotsAndPort _ [.slotStats i (((s.writeConsumed i).post [.slotState i .aborting]).slot i).stats])
    obtain ⟨k1, k2, k3⟩ := State.setSlotState_spec (((s.writeConsumed i).post [.slotState i .aborting]).post
      [.slotStats i (((s.writeConsumed i).post [.slotState i .aborting]).slot i).stats]) i .aborted
    refine ⟨q.trans k1, ?_, fun j e => (k3 j e).trans (by simp [h3 j e])⟩
    · rw [k2, q.mayWrite]; simp only [State.slot_post, h2, k, if_true]; cases s.mayWrite <;> rfl
  · rw [if_neg (by simp [h2, k])]
    exact ⟨p, by simp [h2, k, h], fun j e => by simp [h3 j e]⟩

theorem get_mapVector {α β : Type} {n : Nat} (f : α → β) (v : Vector α n) (k : Fin n) : (mapVector f v).get k = f (v.get k) := by
  simp [mapVector, Vector.get]
  rfl

/-- A lane's part of an abort: a turn of the slot ends, and any other goes on, with the read in flight kept (R22). -/
theorem State.abandonLanes_lane (i : SlotNo) (n : LaneNo) :
    ((s.abandonLanes i).lanes.get n).turn = (s.lanes.get n).turn.filter (fun u => u.slot != i) ∧
    ((s.abandonLanes i).lanes.get n).read = (s.lanes.get n).read := by
  simp only [State.abandonLanes, get_mapVector]
  cases h : (s.lanes.get n).turn with
  | none => simp [h]
  | some u => by_cases e : u.slot = i <;> simp [h, e, Option.filter]

/-- The entry to ABORTING of a live slot is an abort, as `State.Aborts` says it (R22, R30, R32, R56, R101, R106). -/
theorem State.enterAborting_aborts (i : SlotNo) (reason : AbortReason) (h : (s.slot i).state.isLive = true) :
    s.Aborts (s.enterAborting i reason) i reason := by
  unfold State.enterAborting
  rw [if_pos h]
  simp only
  generalize ha : ({ s.abandonLanes i with removals := (s.abandonLanes i).removals ++ (s.slot i).removals i } : State).setSlot i ((s.slot i).aborted reason) = a
  have a1 : a.slot i = (s.slot i).aborted reason := by rw [← ha]; simp
  have a2 : ∀ j, j ≠ i → a.slot j = s.slot j := fun j e => by rw [← ha]; simp [e]; rfl
  obtain ⟨b1, b2⟩ := State.issueWithdraws_spec (s.slot i).provList a
  generalize hb : (s.slot i).provList.foldl State.issueWithdraw a = b at b1 b2 ⊢
  have d1 : (b.post [.slotReason i (some reason)]).slot i = (s.slot i).aborted reason := by
    simp only [State.slot_post]; rw [b1]; exact a1
  obtain ⟨t1, t2, t3⟩ := (b.post [.slotReason i (some reason)]).endAborting_spec i (by rw [d1]; rfl)
  have r1 := (b.post_slotsAndPort [.slotReason i (some reason)]).trans t1
  simp only at t2 t3 r1
  generalize (((b.post [.slotReason i (some reason)]).writeConsumed i).post [.slotState i .aborting]).tryAborted i = t at t2 t3 r1 ⊢
  rw [d1] at t2
  have f : t = { a with slots := t.slots, port := t.port, pool := b.pool, index := b.index } := by
    unfold State.SlotsAndPort at r1; rw [b1] at r1; rw [b1]; exact r1
  have idx : b.index = { a.index with withdrawal := a.index.withdrawal ++ (s.slot i).provList } := by rw [b1]
  have g := ha.symm
  exact {
    reason_eq := by rw [t2]; rfl
    state_eq := by rw [t2]; rfl
    emptied := by rw [t2]; exact ⟨rfl, rfl, rfl⟩
    kept := by rw [t2]; exact ⟨rfl, rfl, rfl, rfl, rfl, rfl⟩
    context := by rw [t2]; rfl
    cells := fun n => by rw [t2]; exact get_mapVector _ _ n
    left := by
      refine ⟨by rw [f, g]; simp [State.setSlot, State.abandonLanes], fun l m => ?_, fun n u k => ?_⟩
      · rw [f, g] at m
        simpa using (List.mem_filter.mp m).2
      · rw [f, g] at k
        have k := (s.abandonLanes_lane i n).1.symm.trans k
        cases e : (s.lanes.get n).turn with
        | none => simp [e] at k
        | some v => rw [e] at k; simp [Option.filter] at k; obtain ⟨m, rfl⟩ := k; exact m
    others_listed := by rw [f, g]; exact ⟨rfl, rfl⟩
    others_worked := fun n => by rw [f, g]; exact s.abandonLanes_lane i n
    issued := by rw [f, idx, g]; exact ⟨rfl, rfl⟩
    records := fun r => ((congrArg (State.record · r) f).trans (b2 r)).trans (by rw [g]; rfl)
    others := fun j e => by rw [t3 j e]; simp only [State.slot_post]; rw [b1]; exact a2 j e
    same := by rw [f, g]; exact ⟨rfl, rfl, rfl, rfl, rfl, rfl⟩ }

end Sys2Proof.Machine
end

