-- ==== Sys2Proof/Laws/Events.lean ====
section
/-! SUPPORT. What the ends of events do: the idle expiries that are taken first, the conditions that are handed on, and the state when there are none of either. -/

set_option Elab.async false

namespace Sys2Proof.Machine

variable (s : State)

/-- A slot of the state is one of its list of slots. -/
theorem State.slot_mem (i : SlotNo) : s.slot i ∈ s.slots.toList := by
  simp [State.slot, Vector.get, Vector.toList]

/-- Every one of the list of slots is a slot of the state. -/
theorem State.mem_slots {c : Slot} (h : c ∈ s.slots.toList) : ∃ i, s.slot i = c := by
  obtain ⟨n, hn, rfl⟩ := List.getElem_of_mem h
  exact ⟨⟨n, by simpa using hn⟩, by simp [State.slot, Vector.get, Vector.toList]⟩

theorem dueFrom_eq_nil (cs : List Slot) (n : Nat) : dueFrom cs n = [] ↔ ∀ c ∈ cs, c.idleDue = false := by
  induction cs generalizing n with
  | nil => simp [dueFrom]
  | cons c cs ih => unfold dueFrom; split <;> simp_all

theorem changedFrom_eq_nil (cs : List Slot) (n : Nat) : changedFrom cs n = [] ↔ ∀ c ∈ cs, c.marks = c.marksDue := by
  induction cs generalizing n with
  | nil => simp [changedFrom]
  | cons c cs ih => unfold changedFrom; split <;> simp_all

/-- No expiry is due exactly where none is listed as due. -/
theorem State.dueSlots_eq_nil : s.dueSlots = [] ↔ s.Settled := by
  unfold State.dueSlots
  rw [dueFrom_eq_nil]
  exact ⟨fun h i => h _ (s.slot_mem i), fun h c hc => by obtain ⟨i, rfl⟩ := s.mem_slots hc; exact h i⟩

/-- Where no expiry is due, none is taken, and the command begins. -/
theorem State.Settled.eq {s : State} (h : s.Settled) : s.settled = s.begun := by
  simp [State.settled, s.dueSlots_eq_nil.2 h]

/-- A command begins with no write of an earlier event left for a reset to take back (R169). -/
@[simp] theorem State.settled_recent : s.settled.port.recent = 0 := rfl

/-- Where every condition has been handed on, there is none to hand on. -/
theorem State.HandedOn.refreshAll {s : State} (h : s.HandedOn) : s.refreshAll = s := by
  have : changedFrom s.slots.toList 0 = [] := (changedFrom_eq_nil _ _).2 fun c hc => by
    obtain ⟨i, rfl⟩ := s.mem_slots hc; exact h i
  simp [State.refreshAll, this]

/-- Nor at one slot. -/
theorem State.HandedOn.refresh {s : State} (h : s.HandedOn) (i : SlotNo) : s.refresh i = s := by
  simp [State.refresh, h i]

/-- An event that posts nothing and adds no level ends as it stands, with nothing of it to be issued. -/
theorem State.endEvent_of_same {t : State} (h : t.notice.levels = s.notice.levels) (k : t.port.posted = s.port.posted) :
    s.endEvent t = t.begun := by
  simp [State.endEvent, State.notify, State.issued, State.begun, h, k]

/-- What an event that ends is, but for its notice and its writes. -/
theorem State.endEvent_eq (t : State) : s.endEvent t = { t with notice := (s.endEvent t).notice, port := (s.endEvent t).port } := by
  unfold State.endEvent State.issued State.notify State.testDue State.post
  repeat' split
  all_goals rfl

end Sys2Proof.Machine
end

