-- ==== Sys2Proof/Laws/Keeps.lean ====
section
/-! SUPPORT. What the shared operations leave alone and the laws they keep, said once: the relation `State.Keeps` and the updates it is built from. -/

set_option Elab.async false

namespace Sys2Proof.Machine

/-- A change of a slot's context that keeps the laws of its counters and lowers neither Recipe Written nor the Safe Offset. -/
structure Slot.Keeps (c d : Slot) : Prop where
  counts : c.CountsOk → d.CountsOk
  written : c.written ≤ d.written
  safe : c.CountsOk → c.safe ≤ d.safe

theorem Slot.Keeps.refl (c : Slot) : c.Keeps c := ⟨id, le_rfl, fun _ => le_rfl⟩

theorem Slot.Keeps.trans {c d e : Slot} (h : c.Keeps d) (k : d.Keeps e) : c.Keeps e :=
  ⟨fun x => k.counts (h.counts x), h.written.trans k.written, fun x => (h.safe x).trans (k.safe (h.counts x))⟩

/-- A change of fields that no law of the counters reads. -/
theorem Slot.Keeps.of_same {c d : Slot} (h1 : d.stored = c.stored := by rfl) (h2 : d.written = c.written := by rfl)
    (h3 : d.taken = c.taken := by rfl) (h4 : d.areaSize = c.areaSize := by rfl) (h5 : d.pending.length ≤ c.pending.length := by exact le_rfl)
    (h6 : d.start = c.start := by rfl) (h7 : d.safe = c.safe := by rfl) (h8 : d.consumed = c.consumed := by rfl)
    (h9 : d.chunker.len = c.chunker.len := by rfl) (h10 : d.stops.Sublist c.stops := by exact List.Sublist.refl _) : c.Keeps d := by
  refine ⟨fun x => ⟨?_, ?_, ?_, h5.trans x.pending_le, ?_, ?_, ?_, fun y hy => ?_, x.stops_rise.sublist h10⟩, h2.ge, fun _ => h7.ge⟩
  · rw [h1, h2]; exact x.stored_le
  · rw [h3, h2]; exact x.taken_le
  · rw [h2, h3, h4]; exact x.room
  · rw [h6, h7]; exact x.start_le
  · rw [h7, h8]; exact x.safe_le
  · rw [h9, h8]; exact x.len_le
  · rw [h7, h8]; exact x.stops_within y (h10.subset hy)

/-- What nearly every operation leaves alone, and the laws it keeps: the queue of commands, the Engine Controller, the header copy, the Timebase, the sweep and the
Class Table stay; the Host Memory Port's writes only grow, and not at all outside RUNNING and QUIESCING; no operation comes into flight; the stores keep
their canonical form, and every slot the laws of its counters. -/
structure State.Keeps (s t : State) : Prop where
  pending : t.pending = s.pending
  ctl : t.ctl = s.ctl
  header : t.header = s.header
  time : t.time = s.time
  sweep : t.sweep = s.sweep
  classes : t.classes = s.classes
  lost : t.port.lostReads = s.port.lostReads
  posted : ∃ ws : List Posted, t.port.posted = s.port.posted ++ ws ∧ (s.mayWrite = false → ws = []) ∧ ∀ w ∈ ws, w.write.lawful s.header = true ∧ w.area = s.ctl.area
  inflight : t.index.inflight.length ≤ s.index.inflight.length
  form : s.Canonical → t.Canonical
  slots : ∀ i, (s.slot i).Keeps (t.slot i)

theorem State.Keeps.refl (s : State) : s.Keeps s :=
  ⟨rfl, rfl, rfl, rfl, rfl, rfl, rfl, ⟨[], by simp⟩, le_rfl, id, fun _ => .refl _⟩

theorem State.Keeps.mayWrite {s t : State} (h : s.Keeps t) : t.mayWrite = s.mayWrite := by simp [State.mayWrite, h.ctl]

theorem State.Keeps.trans {s t u : State} (h : s.Keeps t) (k : t.Keeps u) : s.Keeps u := by
  obtain ⟨ws, hw, hm, hr⟩ := h.posted
  obtain ⟨vs, kw, km, kr⟩ := k.posted
  refine ⟨k.pending.trans h.pending, k.ctl.trans h.ctl, k.header.trans h.header, k.time.trans h.time, k.sweep.trans h.sweep,
    k.classes.trans h.classes, k.lost.trans h.lost, ⟨ws ++ vs, ?_⟩, k.inflight.trans h.inflight, fun x => k.form (h.form x),
    fun i => (h.slots i).trans (k.slots i)⟩
  refine ⟨by simp [kw, hw], fun x => by simp [hm x, km (h.mayWrite ▸ x)], fun w hw => ?_⟩
  rcases List.mem_append.1 hw with hw | hw
  · exact hr w hw
  · exact h.header ▸ h.ctl ▸ kr w hw

/-- A change of blocks that the relation does not speak of. -/
theorem State.Keeps.of_same {s t : State} (pending : t.pending = s.pending := by rfl) (ctl : t.ctl = s.ctl := by rfl)
    (header : t.header = s.header := by rfl) (time : t.time = s.time := by rfl) (sweep : t.sweep = s.sweep := by rfl)
    (classes : t.classes = s.classes := by rfl) (port : t.port = s.port := by rfl) (slots : t.slots = s.slots := by rfl)
    (inflight : t.index.inflight.length ≤ s.index.inflight.length := by exact le_rfl)
    (form : s.Canonical → t.Canonical := by exact id) : s.Keeps t :=
  ⟨pending, ctl, header, time, sweep, classes, by rw [port], ⟨[], by simp [port]⟩, inflight, form,
    fun i => by rw [State.slot, State.slot, slots]; exact .refl _⟩

/-- A condition that chooses between keeping on and nothing. -/
theorem State.Keeps.ite {s t u : State} {p : Prop} [Decidable p] (h : p → s.Keeps t) (k : ¬p → s.Keeps u) : s.Keeps (if p then t else u) := by
  split
  · exact h ‹_›
  · exact k ‹_›

theorem State.Keeps.foldl {α : Type} {f : State → α → State} (h : ∀ (s : State) (a : α), s.Keeps (f s a)) (l : List α) (s : State) :
    s.Keeps (l.foldl f s) := by
  induction l generalizing s with
  | nil => exact .refl s
  | cons a l ih => exact (h s a).trans (ih _)

/-! ### The updates -/

variable (s : State)

theorem State.setSlot_keeps {i : SlotNo} {c : Slot} (h : (s.slot i).Keeps c) : s.Keeps (s.setSlot i c) :=
  ⟨rfl, rfl, rfl, rfl, rfl, rfl, rfl, ⟨[], by simp⟩, le_rfl, id, fun j => by
    by_cases e : j = i
    · subst e; simpa using h
    · simp only [State.slot_setSlot_of_ne _ _ _ _ e]; exact .refl _⟩

theorem State.editSlot_keeps {i : SlotNo} {f : Slot → Slot} (h : (s.slot i).Keeps (f (s.slot i))) : s.Keeps (s.editSlot i f) :=
  s.setSlot_keeps h

theorem State.post_keeps {ws : List HostWrite} (h : ∀ w ∈ ws, w.lawful s.header = true) : s.Keeps (s.post ws) := by
  unfold State.post
  split
  · rename_i hm
    refine ⟨rfl, rfl, rfl, rfl, rfl, rfl, rfl, ⟨ws.map (Posted.mk s.ctl.area), by simp, fun x => by simp_all, fun w hw => ?_⟩, le_rfl, id, fun _ => .refl _⟩
    obtain ⟨v, hv, rfl⟩ := List.mem_map.1 hw
    exact ⟨h v hv, rfl⟩
  · exact .refl s

theorem State.setRecord_keeps {r : Nat} {p : PoolRecord} (h : s.Canonical → r < 16384) : s.Keeps (s.setRecord r p) :=
  .of_same (form := fun x => ⟨x.1, tableWf_tablePut _ _ x.2.1, fun e he => by
    rcases mem_tablePut he with rfl | he
    · exact h x
    · exact x.2.2 e he⟩)

theorem State.freeRecord_keeps (r : Nat) : s.Keeps (s.freeRecord r) :=
  .of_same (form := fun x => ⟨x.1, tableWf_tableErase _ x.2.1, fun e he => x.2.2 e (mem_tableErase he)⟩)

theorem State.record_lt {r : Nat} {p : PoolRecord} (h : s.record r = some p) (x : s.Canonical) : r < 16384 :=
  x.2.2 _ (mem_of_tableGet h)

theorem State.editRecord_keeps (r : Nat) (f : PoolRecord → PoolRecord) : s.Keeps (s.editRecord r f) := by
  unfold State.editRecord
  split
  · rename_i p h; exact s.setRecord_keeps fun x => s.record_lt h x
  · exact .refl s

theorem State.writeEntry_keeps (b : Nat) (w : WayNo) (e : Entry) : s.Keeps (s.writeEntry b w e) :=
  .of_same (form := fun x => ⟨tableWf_tablePut _ _ x.1, x.2.1, x.2.2⟩)

theorem State.emptyWay_keeps (b : Nat) (w : WayNo) : s.Keeps (s.emptyWay b w) :=
  .of_same (form := fun x => ⟨tableWf_tableErase _ x.1, x.2.1, x.2.2⟩)

theorem State.editStats_keeps (f : EngineStats → EngineStats) : s.Keeps (s.editStats f) := .of_same

theorem State.issueWrite_keeps (d : Descriptor) (u : WriteFor) : s.Keeps (s.issueWrite d u) := .of_same

theorem State.addOccupancy_keeps : s.Keeps s.addOccupancy := .of_same

theorem State.dropOccupancy_keeps : s.Keeps s.dropOccupancy := .of_same

theorem State.setLane_keeps (n : LaneNo) (l : Lane) : s.Keeps (s.setLane n l) := .of_same

/-! ### Notices (chapter 9) -/

theorem State.joinLevel_keeps (l : Nat) : s.Keeps (s.joinLevel l) := by
  unfold State.joinLevel; exact .ite (fun _ => .refl s) fun _ => .of_same

theorem State.testDue_keeps : s.Keeps s.testDue := by
  unfold State.testDue
  split
  · exact .refl s
  · split
    · exact (s.post_keeps (ws := [.notice s.header.noticeAddress s.header.noticeWord]) (by simp [HostWrite.lawful])).trans .of_same
    · exact .refl s

theorem State.notify_keeps {t : State} (h : s.Keeps t) : s.Keeps (s.notify t) := by
  unfold State.notify; exact .ite (fun _ => h) fun _ => h.trans t.testDue_keeps

theorem State.issued_keeps {t : State} (h : s.Keeps t) : s.Keeps (s.issued t) := by
  exact h.trans ⟨rfl, rfl, rfl, rfl, rfl, rfl, rfl, ⟨[], by simp⟩, le_rfl, id, fun _ => .refl _⟩

theorem State.begun_keeps : s.Keeps s.begun := ⟨rfl, rfl, rfl, rfl, rfl, rfl, rfl, ⟨[], by simp⟩, le_rfl, id, fun _ => .refl _⟩

theorem State.endEvent_keeps {t : State} (h : s.Keeps t) : s.Keeps (s.endEvent t) := s.issued_keeps (s.notify_keeps h)

theorem State.raiseLevel_keeps (l : Nat) : s.Keeps (s.raiseLevel l) := s.notify_keeps (s.joinLevel_keeps l)

theorem State.setReady_keeps (i : SlotNo) (b : Bool) : s.Keeps (s.setReady i b) := by
  unfold State.setReady
  refine .ite (fun _ => .refl s) fun _ => ?_
  refine State.Keeps.trans (t := { s with notice := { s.notice with ready := s.notice.ready.set i b } }) .of_same (State.post_keeps _ ?_)
  have := i.isLt
  simp [HostWrite.lawful]; omega

theorem State.writeMarks_keeps (i : SlotNo) (m : Marks) : s.Keeps (s.writeMarks i m) := by
  unfold State.writeMarks
  exact ((s.editSlot_keeps .of_same).trans (State.post_keeps _ (by simp [HostWrite.lawful]))).trans (State.setReady_keeps _ _ _)

theorem State.refresh_keeps (i : SlotNo) : s.Keeps (s.refresh i) := by
  unfold State.refresh
  exact .ite (fun _ => .refl s) fun _ => (s.writeMarks_keeps i _).trans (State.Keeps.foldl (fun s l => s.joinLevel_keeps l) _ _)

theorem State.refreshAll_keeps : s.Keeps s.refreshAll := State.Keeps.foldl (fun s i => s.refresh_keeps i) _ s

theorem State.setError_keeps : s.Keeps s.setError := by
  unfold State.setError
  exact .ite (fun _ => .refl s) fun _ => State.Keeps.trans .of_same (State.joinLevel_keeps _ _)

theorem State.setFill_keeps (f : FillState) (n : Nat) : s.Keeps (s.setFill f n) := by
  unfold State.setFill
  exact .ite (fun _ => State.Keeps.trans .of_same (State.raiseLevel_keeps _ _)) fun _ => .of_same

/-! ### Slots (chapter 2) -/

theorem State.issueWithdraw_keeps (r : Nat) : s.Keeps (s.issueWithdraw r) := by
  unfold State.issueWithdraw; exact (s.editRecord_keeps r _).trans .of_same

theorem State.writeConsumed_keeps (i : SlotNo) : s.Keeps (s.writeConsumed i) := by
  unfold State.writeConsumed
  exact .ite (fun _ => (s.editSlot_keeps .of_same).trans (State.post_keeps _ (by simp [HostWrite.lawful]))) fun _ => .refl s

theorem State.setSlotState_keeps (i : SlotNo) (st : SlotState) : s.Keeps (s.setSlotState i st) := by
  unfold State.setSlotState
  exact ((s.editSlot_keeps .of_same).trans (State.writeConsumed_keeps _ i)).trans (State.post_keeps _ (by simp [HostWrite.lawful]))

theorem State.decideState_keeps (i : SlotNo) : s.Keeps (s.decideState i) := by
  unfold State.decideState; exact .ite (fun _ => s.setSlotState_keeps i _) fun _ => .refl s

theorem State.tryClose_keeps (i : SlotNo) : s.Keeps (s.tryClose i) := by
  unfold State.tryClose
  exact .ite (fun _ => (s.post_keeps (by simp [HostWrite.lawful])).trans (State.setSlotState_keeps _ i _)) fun _ => .refl s

theorem State.trySettle_keeps (i : SlotNo) : s.Keeps (s.trySettle i) := by
  unfold State.trySettle
  exact .ite (fun _ => (s.setSlotState_keeps i _).trans (State.tryClose_keeps _ i)) fun _ => .refl s

theorem State.tryAborted_keeps (i : SlotNo) : s.Keeps (s.tryAborted i) := by
  unfold State.tryAborted
  exact .ite (fun _ => (s.post_keeps (by simp [HostWrite.lawful])).trans (State.setSlotState_keeps _ i _)) fun _ => .refl s

theorem State.dropInflight_keeps (i : SlotNo) : s.Keeps (s.dropInflight i) := by
  unfold State.dropInflight; exact (s.editSlot_keeps .of_same).trans (State.tryAborted_keeps _ i)

theorem State.joinRun_keeps (i : SlotNo) : s.Keeps (s.joinRun i) := by
  unfold State.joinRun; exact .ite (fun _ => .of_same) fun _ => .refl s

theorem State.abandonLanes_keeps (i : SlotNo) : s.Keeps (s.abandonLanes i) := .of_same

theorem Slot.aborted_keeps (c : Slot) (r : AbortReason) : c.Keeps (c.aborted r) :=
  .of_same (h5 := Nat.zero_le _) (h10 := by simp [Slot.stops, Slot.aborted])

theorem State.enterAborting_keeps (i : SlotNo) (r : AbortReason) : s.Keeps (s.enterAborting i r) := by
  unfold State.enterAborting
  refine .ite (fun _ => ?_) fun _ => .refl s
  refine (s.abandonLanes_keeps i).trans ?_
  refine State.Keeps.trans (t := { s.abandonLanes i with removals := (s.abandonLanes i).removals ++ (s.slot i).removals i }) .of_same ?_
  refine State.Keeps.trans (State.setSlot_keeps _ (c := (s.slot i).aborted r) ((s.slot i).aborted_keeps r)) ?_
  refine State.Keeps.trans (State.Keeps.foldl (fun s r => s.issueWithdraw_keeps r) (s.slot i).provList _) ?_
  refine State.Keeps.trans (State.post_keeps _ (ws := [.slotReason i (some r)]) (by simp [HostWrite.lawful])) ?_
  exact ((State.writeConsumed_keeps _ i).trans (State.post_keeps _ (by simp [HostWrite.lawful]))).trans (State.tryAborted_keeps _ i)

theorem State.abortStream_keeps (i : SlotNo) (r : AbortReason) : s.Keeps (s.abortStream i r) :=
  s.endEvent_keeps ((s.enterAborting_keeps i r).trans (State.refresh_keeps _ i))

theorem State.settled_keeps : s.Keeps s.settled :=
  (State.Keeps.foldl (fun s i => s.abortStream_keeps i .idle) _ s).trans (State.begun_keeps _)

theorem setCond_stops (o : Nat) (k : ChunkCond) (ps : List PendingChunk) :
    (setCond o k ps).map (fun p => p.offset + p.length) = ps.map fun p => p.offset + p.length := by
  simp only [setCond, List.map_map]
  refine List.map_congr_left fun p _ => ?_
  simp only [Function.comp]
  split <;> rfl

theorem Slot.setCond_keeps (c : Slot) (o : Nat) (k : ChunkCond) : c.Keeps { c with pending := setCond o k c.pending } :=
  .of_same (h5 := by simp [setCond]) (h10 := by simp [Slot.stops, setCond_stops])

theorem State.dropWaiter_keeps (r : Nat) (w : Waiter) : s.Keeps (s.dropWaiter r w) := by
  unfold State.dropWaiter; exact (s.editRecord_keeps r _).trans .of_same

theorem State.resolveChunk_keeps (i : SlotNo) (o : Nat) (v : Verdict) (n : Nat) (c : Cause) : s.Keeps (s.resolveChunk i o v n c) := by
  unfold State.resolveChunk
  exact (s.editSlot_keeps ((s.slot i).setCond_keeps o _)).trans (State.decideState_keeps _ i)

theorem State.resolveWaiter_keeps (r : Nat) (w : Waiter) (v : Verdict) (n : Nat) (c : Cause) : s.Keeps (s.resolveWaiter r w v n c) := by
  unfold State.resolveWaiter
  refine (s.dropWaiter_keeps r w).trans ?_
  exact (State.Keeps.ite (fun _ => State.resolveChunk_keeps _ _ _ _ _ _) fun _ => .refl _).trans (State.dropInflight_keeps _ _)

theorem State.discardWaiter_keeps (r : Nat) (w : Waiter) : s.Keeps (s.discardWaiter r w) := by
  unfold State.discardWaiter
  exact (s.dropWaiter_keeps r w).trans (State.dropInflight_keeps _ _)

/-! ### Answers and turns -/

theorem State.answerCell_keeps (i : SlotNo) (n : CellNo) (t : Tag) (st : CellStatus) : s.Keeps (s.answerCell i n t st) := by
  unfold State.answerCell
  exact (s.editSlot_keeps .of_same).trans (State.post_keeps _ (by simp [HostWrite.lawful]))

theorem State.answer_keeps (c : ReqNo) (st : Status) (r : Option ReqResult) : s.Keeps (s.answer c st r) := by
  unfold State.answer
  refine .ite (fun _ => ?_) fun _ => .refl s
  split
  · rename_i tag _
    refine State.Keeps.trans ?_ (State.joinLevel_keeps _ _)
    refine State.Keeps.trans (t := { s with requests := s.requests.set c { done := some tag, inflight := none } }) .of_same (State.post_keeps _ ?_)
    cases r <;> simp [HostWrite.lawful]
  · exact .refl s

theorem State.endTurn_keeps (n : LaneNo) : s.Keeps (s.endTurn n) := by
  unfold State.endTurn
  split
  · exact .refl s
  · exact (s.setLane_keeps n _).trans (State.joinRun_keeps _ _)

end Sys2Proof.Machine
end

