-- ==== Sys2Proof/Laws/KeepsIndex.lean ====
section
/-! SUPPORT. The Index Unit's and the Provisional Pool's operations keep what `State.Keeps` says. -/

set_option Elab.async false

namespace Sys2Proof.Machine

variable (s : State)

theorem State.allocate_keeps : s.Keeps s.allocate.2 := by
  unfold State.allocate
  by_cases h : s.index.counter < s.index.copy.reserved
  · simp only [h, ↓reduceIte]; exact .of_same
  · by_cases k : s.index.counter < 2 ^ 40
    · simp only [h, k, ↓reduceIte]; exact .ite (fun _ => .refl s) fun _ => s.issueWrite_keeps _ _
    · simp only [h, k, ↓reduceIte]; exact .refl s

theorem State.waiterExhausted_keeps (r : Nat) (w : Waiter) : s.Keeps (s.waiterExhausted r w) :=
  (s.enterAborting_keeps _ _).trans (State.discardWaiter_keeps _ _ _)

theorem State.lossGive_keeps (r : Nat) (w : Waiter) (a : Alloc) : s.Keeps (s.lossGive r w a) := by
  cases a with
  | number n => exact .ite (fun _ => s.resolveWaiter_keeps _ _ _ _ _) fun _ => s.discardWaiter_keeps _ _
  | exhausted => exact s.waiterExhausted_keeps r w
  | wait => exact .refl s

theorem State.lossWaiters_keeps (r : Nat) (ws : List Waiter) : s.Keeps (s.lossWaiters r ws).1 := by
  induction ws generalizing s with
  | nil => exact .refl s
  | cons w ws ih =>
    unfold State.lossWaiters
    have h := s.allocate_keeps
    split
    · rename_i e; rw [e] at h; exact h
    · rename_i e; rw [e] at h; exact (h.trans (State.lossGive_keeps _ _ _ _)).trans (ih _)

theorem State.discardAborting_keeps (r : Nat) : s.Keeps (s.discardAborting r) :=
  State.Keeps.foldl (fun s w => .ite (fun _ => s.discardWaiter_keeps r w) fun _ => .refl s) _ s

theorem State.recordAt_lt {b : Nat} {w : WayNo} {r : Nat} {p : PoolRecord} (h : s.recordAt b w = some (r, p)) (x : s.Canonical) : r < 16384 :=
  x.2.2 _ (List.mem_of_find?_eq_some h)

theorem State.loseRecord_keeps (r : Nat) (p : PoolRecord) (h : s.Canonical → r < 16384) : s.Keeps (s.loseRecord r p) := by
  unfold State.loseRecord
  simp only
  split
  · exact (s.editSlot_keeps .of_same).trans (State.setRecord_keeps _ h)
  · exact s.setRecord_keeps h

theorem State.endLoss_keeps (r : Nat) (b : Bool) : s.Keeps (s.endLoss r b) := .ite (fun _ => s.freeRecord_keeps r) fun _ => .refl s

theorem State.destroyWay_keeps (b : Nat) (w : WayNo) : s.Keeps (s.destroyWay b w) := by
  unfold State.destroyWay
  have h := ((s.emptyWay_keeps b w).trans (State.editStats_keeps _ fun t => { t with uncorrected := sat32 (t.uncorrected + 1) })).trans
    (State.setError_keeps _)
  exact .ite (fun _ => h.trans (State.dropOccupancy_keeps _)) fun _ => h

/-- The destruction of a way does not touch the Provisional Pool. -/
theorem State.destroyWay_pool (b : Nat) (w : WayNo) : (s.destroyWay b w).pool = s.pool := by
  have h : ∀ s : State, s.setError.pool = s.pool := fun s => by
    unfold State.setError State.joinLevel
    repeat' split
    all_goals rfl
  unfold State.destroyWay
  simp only
  split <;> simp [State.dropOccupancy, h]

theorem State.checkWays_keeps (b : Nat) (ws : List (WayNo × Ecc)) : s.Keeps (s.checkWays b ws).1 := by
  induction ws generalizing s with
  | nil => exact .refl s
  | cons a ws ih =>
    obtain ⟨w, e⟩ := a
    unfold State.checkWays
    cases e with
    | clean => exact ih s
    | correctable => exact (s.editStats_keeps _).trans (ih _)
    | uncorrectable =>
      have h := s.destroyWay_keeps b w
      simp only
      split
      · rename_i r p hp hf
        have k := (State.loseRecord_keeps (s.destroyWay b w) r p fun x =>
          x.2.2 (r, p) (by rw [s.destroyWay_pool]; exact List.mem_of_find?_eq_some hf)).trans (State.discardAborting_keeps _ r)
        have l := State.lossWaiters_keeps (((s.destroyWay b w).loseRecord r p).discardAborting r) r
          ((((s.destroyWay b w).loseRecord r p).discardAborting r).waitersOf r)
        split
        · rename_i e; rw [e] at l; exact (((h.trans k).trans l).trans (State.endLoss_keeps _ _ _)).trans (ih _)
        · rename_i e; rw [e] at l; exact (h.trans k).trans l
      · exact h.trans (ih _)

theorem State.leastFree_grant {l : Lookup} {b : Nat} {w : WayNo} {r : Nat} {t : State} (h : s.grant l b w = some (r, t)) : s.Keeps t := by
  unfold State.grant at h
  simp only at h
  split at h
  · rename_i hr
    simp only [Option.some.injEq, Prod.mk.injEq] at h
    obtain ⟨-, rfl⟩ := h
    exact (s.setRecord_keeps fun _ => hr.1).trans (State.editSlot_keeps _ .of_same)
  · cases h

theorem State.takeResolved_keeps (l : Lookup) (v : Verdict) (n : Nat) (c : Cause) : s.Keeps (s.takeResolved l v n c) := by
  unfold State.takeResolved
  exact (State.Keeps.ite (fun _ => s.resolveChunk_keeps _ _ _ _ _) fun _ => .refl s).trans (State.dropInflight_keeps _ _)

/-- A change of the provisional list and count of a slot. -/
theorem State.editProv_keeps (i : SlotNo) (f : Slot → List Nat) (g : Slot → Nat) :
    s.Keeps (s.editSlot i fun c => { c with provList := f c, provCount := g c }) := s.editSlot_keeps .of_same

/-- A pending chunk becomes HELD and a hold is counted. -/
theorem State.holdChunk_keeps (i : SlotNo) (o : Nat) (k : ChunkCond) (f : Slot → SlotStats) :
    s.Keeps (s.editSlot i fun c => { c with pending := setCond o k c.pending, stats := f c }) :=
  s.editSlot_keeps (.of_same (h5 := by simp [setCond]) (h10 := by simp [Slot.stops, setCond_stops]))

theorem State.takeNew_keeps (l : Lookup) (n r : Nat) : s.Keeps (s.takeOutcome l (.new n r)) := by
  simp only [State.takeOutcome]
  refine State.Keeps.trans ?_ (State.takeResolved_keeps _ _ _ _ _)
  split
  · exact s.editProv_keeps l.slot (fun c => s.joinProvList r l.ordinal c.provList) fun c => c.provCount
  · exact (s.editProv_keeps l.slot (fun c => c.provList) fun c => c.provCount - 1).trans (State.issueWithdraw_keeps _ _)

theorem State.takeHeld_keeps (l : Lookup) (r : Nat) : s.Keeps (s.takeOutcome l (.held r)) := by
  simp only [State.takeOutcome]
  split
  · refine (s.editRecord_keeps r fun p => { p with waiters := p.waiters ++ [{ slot := l.slot, ordinal := l.ordinal }] }).trans ?_
    refine State.Keeps.trans ?_ (State.decideState_keeps _ _)
    exact State.holdChunk_keeps _ _ _ _ fun c => { c.stats with holds := sat48 (c.stats.holds + 1) }
  · exact s.dropInflight_keeps _

theorem State.takeOutcome_keeps (l : Lookup) (o : LookupOutcome) : s.Keeps (s.takeOutcome l o) := by
  cases o with
  | dup n => exact s.takeResolved_keeps _ _ _ _
  | conflict n => exact s.takeResolved_keeps _ _ _ _
  | unindexed n c => exact s.takeResolved_keeps _ _ _ _
  | new n r => exact s.takeNew_keeps l n r
  | held r => exact s.takeHeld_keeps l r
  | numbers => exact (s.enterAborting_keeps _ _).trans (State.dropInflight_keeps _ _)

theorem State.endLookup_keeps (l : Lookup) (o : LookupOutcome) : s.Keeps (s.endLookup l o) := by
  unfold State.endLookup
  have h := s.editStats_keeps o.count
  generalize s.editStats o.count = t at h
  refine h.trans ?_
  cases o with
  | conflict n => exact (State.setError_keeps _).trans (State.takeOutcome_keeps _ _ _)
  | dup n => exact State.takeOutcome_keeps _ _ _
  | unindexed n c => exact State.takeOutcome_keeps _ _ _
  | new n r => exact State.takeOutcome_keeps _ _ _
  | held r => exact State.takeOutcome_keeps _ _ _
  | numbers => exact State.takeOutcome_keeps _ _ _

theorem State.lookupNumber_keeps (l : Lookup) (b : Nat) (u : NumberUse) (a : Alloc) : s.Keeps (s.lookupNumber l b u a) := by
  unfold State.lookupNumber
  split
  · exact .refl s
  · exact s.endLookup_keeps _ _
  · split
    · exact s.endLookup_keeps _ _
    · exact s.endLookup_keeps _ _
    · exact s.endLookup_keeps _ _
    · split
      · exact s.endLookup_keeps _ _
      · split
        · exact s.endLookup_keeps _ _
        · rename_i h
          exact (((s.leastFree_grant h).trans (State.writeEntry_keeps _ _ _ _)).trans (State.addOccupancy_keeps _)).trans (State.endLookup_keeps _ _ _)

theorem State.runLookup_keeps (l : Lookup) (b : Nat) : s.Keeps (s.runLookup l b).1 := by
  unfold State.runLookup
  split
  · exact (s.writeEntry_keeps _ _ _).trans (State.endLookup_keeps _ _ _)
  · have h := s.allocate_keeps
    split
    · rename_i e; rw [e] at h; exact h
    · rename_i e; rw [e] at h; exact h.trans (State.lookupNumber_keeps _ _ _ _ _)

theorem State.endFirm_keeps (i : SlotNo) : s.Keeps (s.endFirm i) :=
  (s.dropInflight_keeps i).trans (State.tryClose_keeps _ i)

theorem State.resolveAll_keeps (r n : Nat) (v : Verdict) (c : Cause) (ws : List Waiter) :
    s.Keeps (ws.foldl (fun s w => s.resolveWaiter r w v n c) s) :=
  State.Keeps.foldl (fun s w => s.resolveWaiter_keeps r w v n c) ws s

theorem State.runFirm_keeps (r : Nat) : s.Keeps (s.runFirm r) := by
  unfold State.runFirm
  split
  · exact .refl s
  · split
    · exact (s.freeRecord_keeps r).trans (State.endFirm_keeps _ _)
    · exact .refl s
    · rename_i p _ _ _ e _ _
      simp only
      have h := (s.writeEntry_keeps p.bucket p.way { e with state := .firm }).trans
        (State.editStats_keeps _ fun t => { t with firms := sat48 (t.firms + 1) })
      generalize ((s.writeEntry p.bucket p.way { e with state := .firm }).editStats fun t => { t with firms := sat48 (t.firms + 1) }) = t at h
      exact (h.trans (t.resolveAll_keeps r e.number .dup .none p.waiters)).trans ((State.freeRecord_keeps _ r).trans (State.endFirm_keeps _ _))

/-- A record, and the slot that takes it over (steps 2 and 3 of R108). -/
theorem State.passRecord_keeps (r : Nat) (i : SlotNo) (f : PoolRecord → PoolRecord) (o : Nat) :
    s.Keeps ((s.editRecord r f).editSlot i fun c =>
      { c with provList := (s.editRecord r f).joinProvList r o c.provList, provCount := c.provCount + 1 }) :=
  (s.editRecord_keeps r f).trans (State.editProv_keeps _ i (fun c => (s.editRecord r f).joinProvList r o c.provList) fun c => c.provCount + 1)

theorem State.takeover_keeps (r : Nat) (p : PoolRecord) (e : Entry) (w : Waiter) (n : Nat) : s.Keeps (s.takeover r p e w n) := by
  unfold State.takeover
  have h1 := s.writeEntry_keeps p.bucket p.way
    { e with state := .provisional w.slot w.ordinal, number := n, lastHit := s.index.copy.epoch }
  generalize s.writeEntry p.bucket p.way _ = t at h1
  have h2 := t.passRecord_keeps r w.slot (fun q => { q with owner := w.slot, ordinal := w.ordinal, disp := .live }) w.ordinal
  simp only
  generalize ((t.editRecord r _).editSlot w.slot _) = u at h2 ⊢
  have h3 := (u.resolveWaiter_keeps r w .new n .none).trans (State.editStats_keeps _ fun t => { t with takeovers := sat48 (t.takeovers + 1) })
  generalize (State.editStats _ fun t => { t with takeovers := sat48 (t.takeovers + 1) }) = v at h3 ⊢
  exact ((h1.trans h2).trans h3).trans (v.resolveAll_keeps r n .dup .none _)

theorem State.examine_keeps (r : Nat) (w : Waiter) (a : Alloc) : s.Keeps (s.examine r w a).2 := by
  unfold State.examine
  split
  · exact .refl s
  · exact s.waiterExhausted_keeps r w
  · rename_i n
    have h (p : PoolRecord) (e : Entry) := s.takeover_keeps r p e w n
    generalize s.takeover r = f at h
    simp only
    split
    · exact s.discardWaiter_keeps r w
    · split
      · split
        · exact .refl s
        · rename_i p _
          split
          · exact s.resolveWaiter_keeps _ _ _ _ _
          · rename_i e _
            exact h p e
      · exact s.resolveWaiter_keeps _ _ _ _ _

theorem State.walk_keeps (r : Nat) (ws : List Waiter) : s.Keeps (s.walk r ws).2 := by
  induction ws generalizing s with
  | nil => exact .refl s
  | cons w ws ih =>
    unfold State.walk
    have h := s.allocate_keeps
    split
    · rename_i e; rw [e] at h; exact h
    · rename_i a t _ e
      rw [e] at h
      have k := State.examine_keeps t r w a
      split
      · rename_i f; rw [f] at k; exact h.trans k
      · rename_i f; rw [f] at k; exact (h.trans k).trans (ih _)

theorem State.endUnowned_keeps (r : Nat) : s.Keeps (s.endUnowned r) := by
  unfold State.endUnowned
  split
  · exact .refl s
  · exact ((s.emptyWay_keeps _ _).trans (State.dropOccupancy_keeps _)).trans (State.freeRecord_keeps _ r)

theorem State.endWalk_keeps (r : Nat) (x : WalkEnd × State) (h : s.Keeps x.2) : s.Keeps (State.endWalk r x).1 := by
  obtain ⟨e, t⟩ := x
  cases e with
  | owner => exact State.Keeps.trans (t := t) h (t.editStats_keeps fun t => { t with withdrawals := sat48 (t.withdrawals + 1) })
  | noOwner =>
    exact (State.Keeps.trans (t := t) h (t.endUnowned_keeps r)).trans (State.editStats_keeps _ fun t => { t with withdrawals := sat48 (t.withdrawals + 1) })
  | halted w => exact h

theorem State.runWithdraw_keeps (r : Nat) : s.Keeps (s.runWithdraw r).1 := by
  unfold State.runWithdraw
  split
  · exact .refl s
  · simp only
    split
    · exact s.freeRecord_keeps r
    split
    · exact .refl s
    · exact s.endWalk_keeps r _ ((s.discardAborting_keeps r).trans (State.walk_keeps _ r _))

theorem State.runSeed_keeps (o : SeedOp) (b : Nat) : s.Keeps (s.runSeed o b) := by
  unfold State.runSeed
  refine s.refreshAll_keeps.trans ?_
  generalize s.refreshAll = s
  dsimp only
  split
  · split
    · exact s.answer_keeps _ _ _
    · split
      · exact (s.writeEntry_keeps _ _ _).trans (State.answer_keeps _ _ _ _)
      · exact s.answer_keeps _ _ _
  · split
    · exact s.answer_keeps _ _ _
    · exact (((s.writeEntry_keeps _ _ _).trans (State.addOccupancy_keeps _)).trans (State.editStats_keeps _ _)).trans (State.answer_keeps _ _ _ _)

theorem State.runRetire_keeps (o : RetireOp) (b : Nat) : s.Keeps (s.runRetire o b) := by
  unfold State.runRetire
  refine s.refreshAll_keeps.trans ?_
  generalize s.refreshAll = s
  dsimp only
  split
  · exact s.answer_keeps _ _ _
  · split
    · exact s.answer_keeps _ _ _
    · split
      · exact s.answer_keeps _ _ _
      · split
        · exact s.answer_keeps _ _ _
        · exact ((s.emptyWay_keeps _ _).trans (State.dropOccupancy_keeps _)).trans (State.answer_keeps _ _ _ _)

theorem State.scanWay_keeps (b : Nat) (w : WayNo) : s.Keeps (s.scanWay b w) := by
  unfold State.scanWay
  split
  · exact .refl s
  · split
    · exact s.emptyWay_keeps _ _
    · exact s.addOccupancy_keeps

theorem State.runScan_keeps (b : Nat) : s.Keeps (s.runScan b) := by
  unfold State.runScan
  have h := State.Keeps.foldl (fun s w => s.scanWay_keeps b w) (List.finRange 16) s
  simp only
  generalize List.foldl (fun s w => s.scanWay b w) s (List.finRange 16) = t at h
  refine h.trans ?_
  split <;> exact .of_same

theorem State.runBody_keeps (op : Op) : s.Keeps (s.runBody op).1 := by
  unfold State.runBody
  split
  · exact s.runLookup_keeps _ _
  · exact s.runFirm_keeps _
  · exact s.runWithdraw_keeps _
  · exact s.runSeed_keeps _ _
  · exact s.runRetire_keeps _ _
  · exact s.runScan_keeps _

theorem State.runFrom_keeps (op : Op) (ws : List (WayNo × Ecc)) : s.Keeps (s.runFrom op ws).1 := by
  unfold State.runFrom
  have h := s.checkWays_keeps op.bucket ws
  split
  · rename_i e; rw [e] at h; exact h.trans (State.runBody_keeps _ op)
  · rename_i e; rw [e] at h; exact h

theorem haltOp_length (k : OpKey) (h : Halt) (os : List Op) : (haltOp k h os).length = os.length := by
  induction os with
  | nil => rfl
  | cons o os ih => unfold haltOp; split <;> simp [ih]

theorem State.settleOp_keeps (k : OpKey) (x : RunEnd) (h : s.Keeps x.1) : s.Keeps (State.settleOp k x) := by
  obtain ⟨t, e⟩ := x
  cases e with
  | none => exact h.trans (.of_same (inflight := by simpa [State.settleOp] using List.length_eraseP_le))
  | some h' => exact h.trans (.of_same (inflight := by simp [State.settleOp, haltOp_length]))

theorem State.carryOut_keeps (op : Op) (ecc : Vector Ecc 16) : s.Keeps (s.carryOut op ecc) :=
  (State.settleOp_keeps s _ _ (s.runFrom_keeps _ _)).trans (State.refreshAll_keeps _)

theorem State.goOn_keeps (op : Op) (a : Alloc) : s.Keeps (s.goOn op a).1 := by
  unfold State.goOn
  split
  · exact .refl s
  · split
    · exact .refl s
    · split
      · split
        · exact s.lookupNumber_keeps _ _ _ _
        all_goals exact .refl s
      · rename_i r w _
        split
        · have k := s.examine_keeps r w a
          split
          · rename_i f; rw [f] at k; exact s.endWalk_keeps r _ k
          · rename_i f; rw [f] at k; exact s.endWalk_keeps r _ (k.trans (State.walk_keeps _ r _))
        · exact s.endWalk_keeps r _ (s.walk_keeps r _)
      · rename_i r live w rest _
        simp only
        have h0 : s.Keeps (if s.stillWaits r w then s.lossGive r w a else s) := .ite (fun _ => s.lossGive_keeps r w a) fun _ => .refl s
        generalize (if s.stillWaits r w then s.lossGive r w a else s) = t at h0
        have k := State.lossWaiters_keeps t r (t.waitersOf r)
        split
        · rename_i f; rw [f] at k; exact ((h0.trans k).trans (State.endLoss_keeps _ _ _)).trans (State.runFrom_keeps _ _ _)
        · rename_i f; rw [f] at k; exact h0.trans k

theorem State.allocateAll_keeps (ks : List OpKey) : s.Keeps (s.allocateAll ks).2 := by
  induction ks generalizing s with
  | nil => exact .refl s
  | cons k ks ih => exact s.allocate_keeps.trans (ih _)

theorem State.resume_keeps (k : OpKey) (a : Alloc) : s.Keeps (s.resume k a) := by
  unfold State.resume
  split
  · exact .refl s
  · exact State.settleOp_keeps s _ _ (s.goOn_keeps _ _)

theorem State.resumeAll_keeps : s.Keeps s.resumeAll := by
  unfold State.resumeAll
  simp only
  refine State.Keeps.trans ?_ (State.refreshAll_keeps _)
  refine State.Keeps.trans ?_ (State.Keeps.foldl (fun (s : State) (p : OpKey × Alloc) => s.resume_keeps p.1 p.2) _ _)
  exact State.Keeps.trans (t := { s with index := { s.index with waiting := [] } }) .of_same (State.allocateAll_keeps _ _)

end Sys2Proof.Machine
end

