-- ==== Sys2Proof/Laws/KeepsStream.lean ====
section
/-! SUPPORT. The chunker, the Intake Unit, the lanes, the Recipe Writer, the sweep and the requests keep what `State.Keeps` says. -/

set_option Elab.async false

namespace Sys2Proof.Machine

variable (s : State)

/-! ### The chunker (chapter 1) -/

theorem Slot.cut_keeps (c : Slot) (h : c.pending.length < 8) :
    c.Keeps { c with pending := c.pending ++ [c.openChunk], chunker := c.chunker.nextChunk } := by
  refine ⟨fun x => ⟨x.stored_le, x.taken_le, x.room, ?_, x.start_le, x.safe_le, Nat.zero_le _, ?_, ?_⟩, le_rfl, fun _ => le_rfl⟩
  · simpa using h
  all_goals
    have e : c.consumed - c.chunker.len + c.chunker.len = c.consumed := Nat.sub_add_cancel x.len_le
    have hs : Slot.stops { c with pending := c.pending ++ [c.openChunk], chunker := c.chunker.nextChunk } = c.stops ++ [c.consumed] := by
      simp [Slot.stops, Slot.openChunk, e]
    rw [hs]
  · intro y hy
    rcases List.mem_append.1 hy with hy | hy
    · exact x.stops_within y hy
    · rw [List.mem_singleton.1 hy]; exact ⟨x.safe_le, le_rfl⟩
  · refine List.pairwise_append.2 ⟨x.stops_rise, List.pairwise_singleton _ _, fun y hy z hz => ?_⟩
    rw [List.mem_singleton.1 hz]; exact (x.stops_within y hy).2

theorem State.cutChunk_keeps (i : SlotNo) (h : (s.slot i).pending.length < 8) : s.Keeps (s.cutChunk i) := by
  unfold State.cutChunk
  have h0 : s.Keeps { s with lookups := s.lookups ++ [lookupOf i (s.slot i).openChunk] } := .of_same
  exact (h0.trans (State.editSlot_keeps _ (i := i) (f := fun c =>
    { c with pending := c.pending ++ [(s.slot i).openChunk], chunker := c.chunker.nextChunk }) (Slot.cut_keeps (s.slot i) h))).trans
    (State.decideState_keeps _ i)

theorem State.markFinished_keeps (i : SlotNo) : s.Keeps (s.markFinished i) := by
  unfold State.markFinished; exact .ite (fun _ => s.editSlot_keeps .of_same) fun _ => .refl s

theorem State.endStream_keeps (i : SlotNo) : s.Keeps (s.endStream i) := by
  unfold State.endStream
  refine State.Keeps.trans (.ite (fun h => s.cutChunk_keeps i ?_) fun _ => .refl s) (State.markFinished_keeps _ i)
  simp only [Bool.and_eq_true, decide_eq_true_eq] at h
  exact h.2

theorem Slot.byte_keeps (c : Slot) (b : Byte) :
    c.Keeps { c with consumed := c.consumed + 1, stats := { c.stats with bytes := sat48 (c.stats.bytes + 1) }, chunker := c.chunker.take b } := by
  refine ⟨fun x => ⟨x.stored_le, x.taken_le, x.room, x.pending_le, x.start_le, x.safe_le.trans (Nat.le_succ _), Nat.succ_le_succ x.len_le, ?_,
    x.stops_rise⟩, le_rfl, fun _ => le_rfl⟩
  exact fun y hy => ⟨(x.stops_within y hy).1, (x.stops_within y hy).2.trans (Nat.le_succ _)⟩

theorem State.chunkByte_keeps (i : SlotNo) (b : Byte) (h : (s.slot i).pending.length < 8) : s.Keeps (s.chunkByte i b) := by
  unfold State.chunkByte
  have h1 := s.editSlot_keeps (i := i) (f := fun c =>
    { c with consumed := c.consumed + 1, stats := { c.stats with bytes := sat48 (c.stats.bytes + 1) }, chunker := c.chunker.take b })
    ((s.slot i).byte_keeps b)
  refine h1.trans ?_
  refine State.Keeps.trans (.ite (fun _ => State.cutChunk_keeps _ i ?_) fun _ => .refl _) (State.endStream_keeps _ i)
  simpa using h

/-! ### The Intake Unit (chapter 3) -/

theorem State.editFeed_keeps (i : SlotNo) (f : Slot → List Segment) : s.Keeps (s.editSlot i fun c => { c with feed := f c }) :=
  s.editSlot_keeps .of_same

theorem State.editResent_keeps (i : SlotNo) (f : Slot → SlotStats) : s.Keeps (s.editSlot i fun c => { c with stats := f c }) :=
  s.editSlot_keeps .of_same

theorem State.joinSegment_keeps (i : SlotNo) (g : Segment) : s.Keeps (s.joinSegment i g) := by
  unfold State.joinSegment
  have h : s.Keeps ((s.editSlot i fun c =>
      { c with feed := joinFeed g c.feed, cells := c.cells.set g.cell { c.cells.get g.cell with queued := some g.tag } }).joinRun i) :=
    (s.editSlot_keeps .of_same).trans (State.joinRun_keeps _ i)
  exact .ite (fun _ => h.trans (State.enterAborting_keeps _ i _)) fun _ => h

theorem State.takeSegment_keeps (i : SlotNo) (g : Segment) : s.Keeps (s.takeSegment i g) := by
  unfold State.takeSegment
  simp only
  split
  · exact s.answerCell_keeps _ _ _ _
  · split
    · exact s.answerCell_keeps _ _ _ _
    · split
      · exact (s.editResent_keeps i fun c => { c.stats with resent := sat48 (c.stats.resent + g.length) }).trans (State.answerCell_keeps _ _ _ _ _)
      · split
        · exact .ite (fun _ => s.enterAborting_keeps i _) fun _ => s.joinSegment_keeps i g
        · exact s.joinSegment_keeps i g

theorem State.takeCell_keeps (i : SlotNo) (half : List Byte) (n : CellNo) : s.Keeps (s.takeCell i half n) := by
  unfold State.takeCell; exact .ite (fun _ => .refl s) fun _ => s.takeSegment_keeps i _

theorem State.takeCells_keeps (i : SlotNo) (half : List Byte) : s.Keeps (s.takeCells i half) :=
  State.Keeps.foldl (fun s n => s.takeCell_keeps i half n) _ s

theorem State.answerLeaving_keeps (i : SlotNo) (gs : List Segment) : s.Keeps (s.answerLeaving i gs) := by
  induction gs generalizing s with
  | nil => exact .refl s
  | cons g gs ih =>
    exact ((s.editResent_keeps i fun c => { c.stats with resent := sat48 (c.stats.resent + (g.length - g.count)) }).trans
      (State.answerCell_keeps _ i g.cell g.tag (if g.count = 0 then .resent else .done))).trans (ih _)

theorem State.leaveSegments_keeps (i : SlotNo) : s.Keeps (s.leaveSegments i) := by
  unfold State.leaveSegments
  exact (s.editFeed_keeps i fun c => c.feed.filter fun g => !decide (g.stop ≤ c.consumed)).trans (State.answerLeaving_keeps _ i _)

theorem State.takeByte_keeps (n : LaneNo) (t : Turn) (cell : CellNo) (b : Byte) (h : (s.slot t.slot).pending.length < 8) :
    s.Keeps (s.takeByte n t cell b) := by
  unfold State.takeByte
  simp only
  have h1 := s.chunkByte_keeps t.slot b h
  generalize s.chunkByte t.slot b = u at h1
  have h2 := u.editFeed_keeps t.slot fun c => c.feed.map fun g => if g.cell = cell then { g with count := g.count + 1 } else g
  generalize (u.editSlot t.slot _) = v at h2
  have h3 := v.leaveSegments_keeps t.slot
  generalize v.leaveSegments t.slot = w at h3
  exact ((h1.trans h2).trans h3).trans (w.setLane_keeps _ _)

theorem State.takeBytes_keeps (n : LaneNo) (cell : CellNo) (bs : List Byte) : s.Keeps (s.takeBytes n cell bs) := by
  induction bs generalizing s with
  | nil => exact .refl s
  | cons b bs ih =>
    unfold State.takeBytes
    split
    · exact .refl s
    · rename_i t _
      refine .ite (fun h => (s.takeByte_keeps n t cell b ?_).trans (ih _)) fun _ => .refl s
      simp only [Bool.and_eq_true, decide_eq_true_eq] at h
      exact h.1.1.2

theorem State.continueTurn_keeps (n : LaneNo) : s.Keeps (s.continueTurn n) := by
  unfold State.continueTurn
  split
  · exact .refl s
  · rename_i t _
    refine .ite (fun _ => s.endTurn_keeps n) fun _ => ?_
    have h := s.endStream_keeps t.slot
    generalize s.endStream t.slot = u at h
    refine h.trans (.ite (fun _ => u.endTurn_keeps n) fun _ => ?_)
    split
    · exact u.setLane_keeps _ _
    · exact u.endTurn_keeps n

/-! ### The Recipe Writer (chapter 6) -/

theorem Slot.emit_stops (c : Slot) {p : PendingChunk} {ps : List PendingChunk} (h : c.pending = p :: ps) {n : Nat} {t : SlotStats} :
    Slot.stops { c with pending := c.pending.tail, written := n, extents := c.extents ++ [{ ordinal := p.ordinal, stop := p.offset + p.length }], stats := t } =
      c.stops := by
  simp [Slot.stops, h]

theorem Slot.emit_keeps (c : Slot) (p : PendingChunk) (v : Verdict) (n : Nat) (k : Cause) (h : c.emittable = some (p, v, n, k)) :
    c.Keeps { c with pending := c.pending.tail, written := c.written + 1, extents := c.extents ++ [{ ordinal := p.ordinal, stop := p.offset + p.length }],
                     stats := c.stats.emitted v p.length } := by
  unfold Slot.emittable at h
  split at h
  · cases h
  · rename_i q qs e
    split at h
    · split at h
      · rename_i hw
        simp only [Option.some.injEq, Prod.mk.injEq] at h
        obtain ⟨rfl, -, -, -⟩ := h
        refine ⟨fun x => ⟨x.stored_le.trans (Nat.le_succ _), x.taken_le.trans (Nat.le_succ _), ?_, ?_, x.start_le, x.safe_le, x.len_le, ?_, ?_⟩,
          Nat.le_succ _, fun _ => le_rfl⟩
        · have := x.taken_le; simp only; omega
        · have := x.pending_le; simp only [e, List.length_cons, List.tail_cons] at *; omega
        · rw [Slot.emit_stops c e]; exact x.stops_within
        · rw [Slot.emit_stops c e]; exact x.stops_rise
      · cases h
    · cases h
    · cases h

/-- An emission after its first write: the recipe entry is the one write that no other event makes. -/
theorem State.emit_keeps (i : SlotNo) (p : PendingChunk) (v : Verdict) (n : Nat) (k : Cause)
    (h : (s.slot i).emittable = some (p, v, n, k)) :
    (s.post [.recipe ((s.slot i).entryAddr p.ordinal) (recipeOf p v n k)]).Keeps (s.emit i p v n k) := by
  unfold State.emit
  have h2 := State.editSlot_keeps (s.post [.recipe ((s.slot i).entryAddr p.ordinal) (recipeOf p v n k)]) (i := i) (f := fun c => { c with
    pending := c.pending.tail, written := c.written + 1, extents := c.extents ++ [{ ordinal := p.ordinal, stop := p.offset + p.length }],
    stats := c.stats.emitted v p.length }) (by simpa using Slot.emit_keeps _ p v n k h)
  have h3 := h2.trans (State.post_keeps _ (ws := [.slotWritten i ((s.slot i).written + 1)]) (by simp [HostWrite.lawful]))
  exact (((h3.trans (State.decideState_keeps _ i)).trans (State.joinRun_keeps _ i)).trans (State.trySettle_keeps _ i)).trans (State.refresh_keeps _ i)

theorem State.issueFirm_keeps (i : SlotNo) (r : Nat) : s.Keeps (s.issueFirm i r) := by
  unfold State.issueFirm
  have h1 := s.editSlot_keeps (i := i) (f := fun c =>
    { c.dropProv r with inflight := c.inflight + 1 }) .of_same
  exact (h1.trans (State.editRecord_keeps _ r fun p => { p with disp := .firming })).trans .of_same

theorem holdValue_le {read held written : Nat} (h : held ≤ written) : holdValue read held written ≤ written := by
  unfold holdValue; split
  · exact le_rfl
  · split <;> omega

/-- Stored Through is raised to a value not above Recipe Written. -/
theorem Slot.store_keeps (c : Slot) (t : Nat) (h : c.stored ≤ c.written → t ≤ c.written) : c.Keeps { c with stored := t } :=
  ⟨fun x => ⟨h x.stored_le, x.taken_le, x.room, x.pending_le, x.start_le, x.safe_le, x.len_le, x.stops_within, x.stops_rise⟩, le_rfl, fun _ => le_rfl⟩

theorem Slot.take_keeps (c : Slot) (t : Nat) (h : c.taken ≤ c.written → t ≤ c.written) (k : c.taken ≤ t) : c.Keeps { c with taken := t } :=
  ⟨fun x => ⟨x.stored_le, h x.taken_le, by have := x.room; simp only; omega, x.pending_le, x.start_le, x.safe_le, x.len_le, x.stops_within, x.stops_rise⟩,
    le_rfl, fun _ => le_rfl⟩

/-- The items that leave the Extent List end at or below those that stay, and the Safe Offset becomes the last end among them. -/
theorem Slot.safeAt_keeps (c : Slot) (t : Nat) :
    c.Keeps { c with safe := c.safeAt t, extents := c.extents.dropWhile fun e => decide (e.ordinal < t) } := by
  have hsplit : c.extents.map Extent.stop = (c.extents.takeWhile fun e => decide (e.ordinal < t)).map Extent.stop ++
      (c.extents.dropWhile fun e => decide (e.ordinal < t)).map Extent.stop := by
    rw [← List.map_append, List.takeWhile_append_dropWhile]
  have hs : c.stops = (c.extents.takeWhile fun e => decide (e.ordinal < t)).map Extent.stop ++
      Slot.stops { c with safe := c.safeAt t, extents := c.extents.dropWhile fun e => decide (e.ordinal < t) } := by
    simp only [Slot.stops, hsplit, List.append_assoc]
  have key : c.CountsOk → c.safe ≤ c.safeAt t ∧ c.safeAt t ≤ c.consumed ∧
      ∀ y ∈ Slot.stops { c with safe := c.safeAt t, extents := c.extents.dropWhile fun e => decide (e.ordinal < t) }, c.safeAt t ≤ y := by
    intro x
    have hw := x.stops_within
    have hr := x.stops_rise
    rw [hs] at hw hr
    unfold Slot.safeAt
    split
    · rename_i e he
      have hm : e.stop ∈ (c.extents.takeWhile fun e => decide (e.ordinal < t)).map Extent.stop :=
        List.mem_map_of_mem (List.mem_of_getLast? he)
      have := hw _ (List.mem_append_left _ hm)
      exact ⟨this.1, this.2, fun y hy => (List.pairwise_append.1 hr).2.2 _ hm _ hy⟩
    · exact ⟨le_rfl, x.safe_le, fun y hy => (hw y (List.mem_append_right _ hy)).1⟩
  refine ⟨fun x => ?_, le_rfl, fun x => (key x).1⟩
  have k := key x
  refine ⟨x.stored_le, x.taken_le, x.room, x.pending_le, x.start_le.trans k.1, k.2.1, x.len_le, fun y hy => ⟨k.2.2 y hy, ?_⟩, ?_⟩
  · exact (x.stops_within y (hs ▸ List.mem_append_right _ hy)).2
  · exact (List.pairwise_append.1 (hs ▸ x.stops_rise)).2.1

theorem State.holdStored_keeps (i : SlotNo) (read : Nat) : s.Keeps (s.holdStored i read) := by
  unfold State.holdStored
  simp only
  refine .ite (fun _ => .refl s) fun _ => ?_
  generalize hT : holdValue read (s.slot i).stored (s.slot i).written = T
  have h1 := s.editSlot_keeps (i := i) (f := fun c => { c with stored := T })
    (Slot.store_keeps _ T fun x => hT ▸ holdValue_le x)
  have h2 := h1.trans (State.Keeps.foldl (fun (s : State) (r : Nat) => s.issueFirm_keeps i r) ((s.editSlot i fun c => { c with stored := T }).firmDue i T) _)
  have h3 := h2.trans (State.editSlot_keeps _ (i := i) (f := fun c => { c with
    safe := c.safeAt T, extents := c.extents.dropWhile fun e => decide (e.ordinal < T) }) (Slot.safeAt_keeps _ T))
  generalize (State.editSlot _ i _) = u at h3
  exact (h3.trans (State.post_keeps _ (ws := [.slotSafe i (u.slot i).safe]) (by simp [HostWrite.lawful]))).trans (State.tryClose_keeps _ i)

theorem State.holdTaken_keeps (i : SlotNo) (read : Nat) : s.Keeps (s.holdTaken i read) := by
  unfold State.holdTaken
  simp only
  refine .ite (fun _ => .refl s) fun h => ?_
  exact (s.editSlot_keeps (Slot.take_keeps _ _ (fun x => holdValue_le x) (by omega))).trans (State.decideState_keeps _ i)

theorem State.holdWatch_keeps (i : SlotNo) (read : Nat) : s.Keeps (s.holdWatch i read) := by
  unfold State.holdWatch; exact s.editSlot_keeps .of_same

/-! ### The sweep (chapter 8) -/

theorem State.editSeen_keeps (i : SlotNo) (v : BitVec 32) : s.Keeps (s.editSlot i fun c => { c with seen := v }) := s.editSlot_keeps .of_same

theorem State.reloadIdle_keeps (i : SlotNo) : s.Keeps (s.editSlot i fun c => { c with idle := c.cls.idleLimit }) := s.editSlot_keeps .of_same

theorem State.takeHostHalf_keeps (i : SlotNo) (half : List Byte) : s.Keeps (s.takeHostHalf i half) := by
  unfold State.takeHostHalf
  simp only
  have h2 : s.Keeps (if s.ctl.engine = .quiescing ∧ (s.slot i).state.isLive then s
      else (s.editSlot i fun c => { c with seen := (readHostHalf half).post }).post [.slotSeen i (readHostHalf half).post]) :=
    .ite (fun _ => .refl s) fun _ => (s.editSeen_keeps i _).trans (State.post_keeps _ (by simp [HostWrite.lawful]))
  generalize (if s.ctl.engine = .quiescing ∧ (s.slot i).state.isLive then s
      else (s.editSlot i fun c => { c with seen := (readHostHalf half).post }).post [.slotSeen i (readHostHalf half).post]) = u at h2
  have h3 : u.Keeps (if (s.slot i).state.isLive then u.editSlot i fun c => { c with idle := c.cls.idleLimit } else u) :=
    .ite (fun _ => u.reloadIdle_keeps i) fun _ => .refl u
  generalize (if (s.slot i).state.isLive then u.editSlot i fun c => { c with idle := c.cls.idleLimit } else u) = v at h3
  have h4 := ((v.holdStored_keeps i (readHostHalf half).stored).trans (State.holdTaken_keeps _ i (readHostHalf half).taken)).trans
    (State.holdWatch_keeps _ i (readHostHalf half).watch)
  exact (((h2.trans h3).trans h4).trans (.ite (fun _ => State.takeCells_keeps _ i half) fun _ => .refl _)).trans (State.refresh_keeps _ i)

theorem State.evaluateFill_keeps : s.Keeps s.evaluateFill := by
  unfold State.evaluateFill
  refine .ite (fun _ => .refl s) fun _ => ?_
  split <;> exact .ite (fun _ => .ite (fun _ => s.setFill_keeps _ _) fun _ => s.setFill_keeps _ _) fun _ => s.setFill_keeps _ _

/-! ### The requests (chapters 2, 4 and 7) -/

theorem State.acceptFormat_keeps (cell : ReqNo) (k n : Nat) (e : BitVec 32) : s.Keeps (s.acceptFormat cell k n e) := by
  unfold State.acceptFormat
  have h := s.setFill_keeps .normal 0
  generalize s.setFill .normal 0 = t at h
  exact h.trans (State.Keeps.trans (t := { t with index := { t.index with
    state := .formatting, copy := { t.index.copy with valid := false },
    format := some { cell := cell, k := k, counterStart := n, epochStart := e, cleared := false } } }) .of_same (State.issueWrite_keeps _ _ _))

theorem State.closeStream_keeps (i : SlotNo) (f : Nat) : s.Keeps (s.closeStream i f) := by
  unfold State.closeStream
  have h : s.Keeps ((s.editSlot i fun c => { c with final := some f }).post [.slotFinal i (some f)]) :=
    (s.editSlot_keeps .of_same).trans (State.post_keeps _ (by simp [HostWrite.lawful]))
  exact (((h.trans (State.markFinished_keeps _ i)).trans (State.trySettle_keeps _ i)).trans (State.refresh_keeps _ i)).trans (State.joinRun_keeps _ i)

theorem Slot.released_keeps (c : Slot) : c.Keeps c.released :=
  .of_same (h10 := by simp [Slot.stops, Slot.released])

theorem State.releaseSlot_keeps (i : SlotNo) : s.Keeps (s.releaseSlot i) := by
  unfold State.releaseSlot
  have h : s.Keeps ((s.editSlot i Slot.released).post [.slotReason i none, .slotFinal i none]) :=
    (s.editSlot_keeps (s.slot i).released_keeps).trans (State.post_keeps _ (by simp [HostWrite.lawful]))
  exact ((h.trans (State.writeConsumed_keeps _ i)).trans (State.post_keeps _ (by simp [HostWrite.lawful]))).trans (State.writeMarks_keeps _ i _)

theorem State.queueMaint_keeps (o : MaintOp) : s.Keeps (s.queueMaint o) := .of_same

theorem State.acceptEpoch_keeps (cell : ReqNo) (v : BitVec 32) : s.Keeps (s.acceptEpoch cell v) :=
  State.Keeps.trans (t := { s with index := { s.index with copy := { s.index.copy with epoch := v } } }) .of_same (State.issueWrite_keeps _ _ _)

end Sys2Proof.Machine
end

