-- ==== Sys2Proof/WellFormed.lean ====
section
/-! DEFINITION. Which commands are well formed: every operand that brings read data has the length of the read it completes, and every number lies in its range. -/

namespace Sys2Proof

/-- A request table as read: 32 host halves of 96 bytes each (R156, chapter 11.4). -/
def wfTable (table : List (List Byte)) : Bool :=
  table.length == 32 && table.all fun h => h.length == 96

/-- The Attention Map: 1,024 flags in 128 bytes (R148). -/
def wfMap (map : List Byte) : Bool := map.length == 128

/-- A slot's host half: 640 bytes (R151). -/
def wfHalf (half : List Byte) : Bool := half.length == 640

/-- A command is well formed when its operands are ones the event it names can bring. -/
def Instr.wf : Instr → Bool
  | .powerOn => true
  | .linkReset _ _ => true
  | .start => true
  | .startComplete header table => header.length == 4096 && wfTable table
  | .quiesce => true
  | .reset _ _ => true
  | .exchangeBase first data => decide (1 ≤ data.length) && decide (first.val + data.length ≤ 8)
  | .sweepNow _ map => wfMap map
  | .servingLevel _ => true
  | .registerWriteIgnored offset value => ignoredWrite offset value
  | .tick => true
  | .sweepCountdownExpiry map => wfMap map
  | .idleCountdownExpiry _ => true
  | .slotHostHalfTaken _ _ half => wfHalf half
  | .requestTableRead table => wfTable table
  | .format _ => true
  | .setClass _ => true
  | .openStream _ half => wfHalf half
  | .close _ => true
  | .abort _ => true
  | .release _ => true
  | .seed _ => true
  | .retire _ => true
  | .setEpoch _ => true
  | .snapshotSlot _ => true
  | .snapshotEngine _ => true
  | .unknownRequest _ => true
  | .sweepEnd map => wfMap map
  | .laneTakesSlot _ => true
  | .segmentReadComplete read data =>
    match read with
    | .lane _ => decide (1 ≤ data.length) && decide (data.length ≤ 4096)
    | .lost => true
    | .sweep | .openHalf | .start => false
  | .hostReadFailure _ => true
  | .readTimeout _ => true
  | .operationAccepted => true
  | .lookupInsertComplete _ ordinal _ => decide (ordinal < 2 ^ 48)
  | .firmComplete record _ => decide (record < 16384)
  | .withdrawComplete record _ => decide (record < 16384)
  | .waiterRemoval _ ordinal => decide (ordinal < 2 ^ 48)
  | .seedComplete _ _ => true
  | .retireComplete _ _ => true
  | .scanComplete bucket _ => decide (bucket < 2 ^ 24)
  | .descriptorWriteComplete _ => true
  | .formatClear => true
  | .emission _ => true
  | .enterStopped => true

end Sys2Proof
end

