-- ==== Sys2Proof/Tests/Slice0.lean ====
section
/-! SUPPORT. Tests: the smoke tests of WellFormed, a small test or two of every command against values worked out from the reference, and for every statement with
hypotheses a state and operands that meet them. -/

set_option Elab.async false

namespace Sys2Proof.Tests

open Sys2Proof.Machine

/-! ### Builders -/

/-- So many zero bytes. -/
def zeros (n : Nat) : List Byte := List.replicate n 0

/-- A record with some of its bytes replaced, at an offset. -/
def put (b : List Byte) (offset : Nat) (v : List Byte) : List Byte := b.take offset ++ v ++ b.drop (offset + v.length)

/-- A bucket whose 16 ways are good. -/
def clean : Vector Ecc 16 := Vector.replicate 16 .clean

/-- An Attention Map with no flag. -/
def map0 : List Byte := zeros 128

/-- An Attention Map that flags slot 12: bit 4 of byte 1. -/
def map12 : List Byte := put map0 1 [0x10]

/-- A good Exchange Header, byte by byte (chapter 11.3): magic, version, notice address 0x9000, notice word 0xABCD, reload 99,999, intervals 5 and 200, fill
declare 960, fill clear 896, levels 3, 6 and 1. -/
def headerBytes : List Byte :=
  put (zeros 4096) 0 [0x80, 0xA5, 0x32, 0x7C, 1, 0, 0, 0, 0, 0x90, 0, 0, 0, 0, 0, 0, 0xCD, 0xAB, 0, 0, 0x9F, 0x86, 0x01, 0, 5, 0, 200, 0, 0xC0, 0x03, 0x80, 0x03, 3, 6, 1]

/-- The header copy those bytes give. -/
def header1 : Header :=
  { noticeAddress := 0x9000, noticeWord := 0xABCD, prescalerReload := 99999, activeInterval := 5, quietInterval := 200, fillDeclare := 960,
    fillClear := 896, fillLevel := 3, errorLevel := 6, requestLevel := 1 }

/-- A request table of 32 empty cells. -/
def table0 : List (List Byte) := List.replicate 32 (zeros 96)

/-- The engine RUNNING with the header above and an index of 4,096 buckets READY: Chunk Counter 1,000, Reserved Through 5,096, epoch 41. -/
def running : State :=
  { State.reset with
    ctl := { State.reset.ctl with engine := .running, base := 0x100000, area := 0x100000 }
    header := header1
    time := { running := true, prescaler := 3, ticks := 7, countdown := 200 }
    index := { State.reset.index with
      state := .ready, counter := 1000, copy := { valid := true, k := 12, reserved := 5096, epoch := 41, generation := 1 } } }

/-- An open slot of class 0, with a recipe area of 64 entries at 0x200000, at Start Offset 100. -/
def open0 : Slot :=
  { Slot.fresh with
    state := .active, cls := .class0, start := 100, consumed := 100, safe := 100, areaAddr := 0x200000, areaSize := 64, shown := 100 }

/-- A state with a slot's context replaced. -/
def withSlot (s : State) (i : SlotNo) (c : Slot) : State := s.setSlot i c

/-- A state whose sweep is about to carry out one request, taken from a cell with tag 5. -/
def asked (s : State) (cell : ReqNo) (r : Request) : State :=
  { s with
    sweep := { flight := some (.requests [{ cell := cell, request := r }]), remembered := false }
    requests := s.requests.set cell { done := some 4, inflight := some 5 } }

/-- The command answers a next state that meets a test. -/
def yields (c : Instr) (s : State) (p : State → Bool) : Bool :=
  match exec c s with
  | .next t => p t
  | .fault _ | .refused _ => false

/-- The command stops with this fault. -/
def stops (c : Instr) (s : State) (f : Fault) : Bool :=
  match exec c s with
  | .fault g => f == g
  | .next _ | .refused _ => false

/-- The writes issued since a state. -/
def since (s t : State) : List HostWrite := (t.port.posted.drop s.port.posted.length).map (·.write)

/-- A slot of the state after reset. -/
theorem reset_slot (i : SlotNo) : State.reset.slot i = Slot.fresh := by simp [State.slot, State.reset, Vector.get]

/-- A slot of the RUNNING engine above. -/
theorem running_slot (i : SlotNo) : running.slot i = Slot.fresh := reset_slot i

/-- No idle expiry is due there. -/
theorem running_settled : running.Settled := fun i => by rw [running_slot]; rfl

/-! ### WellFormed: each check refuses a command -/

theorem test_wf_header_length : (Instr.startComplete (zeros 4095) table0).wf = false := by decide +kernel
theorem test_wf_table_count : (Instr.startComplete headerBytes (List.replicate 31 (zeros 96))).wf = false := by decide +kernel
theorem test_wf_table_cell_length : (Instr.requestTableRead (table0.set 31 (zeros 95))).wf = false := by decide +kernel
theorem test_wf_base_no_byte : (Instr.exchangeBase 0 []).wf = false := by decide +kernel
theorem test_wf_base_past_end : (Instr.exchangeBase 5 (zeros 4)).wf = false := by decide +kernel
theorem test_wf_sweep_map : (Instr.sweepNow 0 (zeros 127)).wf = false := by decide +kernel
theorem test_wf_write_not_ignored : (Instr.registerWriteIgnored 0x10 2).wf = false := by decide +kernel
theorem test_wf_write_base_not_ignored : (Instr.registerWriteIgnored 0x1F 0).wf = false := by decide +kernel
theorem test_wf_write_past_window : (Instr.registerWriteIgnored 64 0).wf = false := by decide +kernel
theorem test_wf_expiry_map : (Instr.sweepCountdownExpiry (zeros 129)).wf = false := by decide +kernel
theorem test_wf_half_length : (Instr.slotHostHalfTaken 0 0 (zeros 641)).wf = false := by decide +kernel
theorem test_wf_open_half_length : (Instr.openStream 0 (zeros 639)).wf = false := by decide +kernel
theorem test_wf_sweep_end_map : (Instr.sweepEnd []).wf = false := by decide +kernel
theorem test_wf_read_empty : (Instr.segmentReadComplete (.lane 0) []).wf = false := by decide +kernel
theorem test_wf_read_too_long : (Instr.segmentReadComplete (.lane 0) (zeros 4097)).wf = false := by decide +kernel
theorem test_wf_read_not_segment :
    ([ReadId.sweep, .openHalf, .start].all fun r => (Instr.segmentReadComplete r (zeros 8)).wf == false) = true := by decide +kernel
theorem test_wf_lookup_ordinal : (Instr.lookupInsertComplete 0 (2 ^ 48) clean).wf = false := by decide +kernel
theorem test_wf_waiter_ordinal : (Instr.waiterRemoval 0 (2 ^ 48)).wf = false := by decide +kernel
theorem test_wf_firm_record : (Instr.firmComplete 16384 clean).wf = false := by decide +kernel
theorem test_wf_withdraw_record : (Instr.withdrawComplete 16384 clean).wf = false := by decide +kernel
theorem test_wf_scan_bucket : (Instr.scanComplete (2 ^ 24) clean).wf = false := by decide +kernel

/-- No word spells a command: the opcode table gives no row a bit. -/
theorem test_no_word_decodes : decodeTableWord 16 0x1234 = none := rfl

/-! ### Worked values of the reference -/

/-- Case A of chapter 1: the hash after 01, after 01 02, and after 01 02 03. -/
theorem test_hash_case_a :
    ((Chunker.fresh.take 1).hash, ((Chunker.fresh.take 1).take 2).hash, (((Chunker.fresh.take 1).take 2).take 3).hash) =
      (0x00000001#32, 0x6F4A7C17#32, 0x0CDD51E6#32) := by decide +kernel

/-- R10: with k = 12 the digest that begins A3 5C 17 has bucket 0xA35, and with k = 20 bucket 669,121. -/
theorem test_bucket_of_digest :
    (bucketOf 12 ((Vector.replicate 32 0).set 0 0xA3 |>.set 1 0x5C |>.set 2 0x17), bucketOf 20 ((Vector.replicate 32 0).set 0 0xA3 |>.set 1 0x5C |>.set 2 0x17)) =
      (0xA35, 669121) := by decide +kernel

/-- R150: the header's fields at their offsets. -/
theorem test_header_fields : headerMagicOk headerBytes = true ∧ readHeader headerBytes = header1 ∧ headerRangeOk header1 = true := by decide +kernel

/-- R82: with k = 16 and the example settings the thresholds are 983,040 and 917,504 entries. -/
theorem test_fill_thresholds :
    let s := { running with index := { running.index with copy := { running.index.copy with k := 16 } } }
    (s.threshold 960, s.threshold 896) = (983040, 917504) := by decide +kernel

/-- R160: Engine Status of a RUNNING engine with a READY index after a cold reset, and Identity. -/
theorem test_register_reads : running.readRegister 0x08 = 0x21 ∧ running.readRegister 0x00 = 0x00013280 := by decide +kernel

/-! ### The Engine Controller and the registers -/

theorem test_power_on :
    yields .powerOn running (fun t => t.ctl.engine == .stopped && t.ctl.lastReset == .cold && t.index.state == .unformatted && t.ctl.base == 0) = true := by
  decide +kernel

/-- Sequence 12.6: the counter takes Reserved Through, and the Exchange Base and the Serving Level become 0. -/
theorem test_link_reset :
    let d : Descriptor := { valid := true, k := 16, reserved := 24576, epoch := 42, generation := 1 }
    let s := { running with
      mem := { ways := [], desc := d }, index := { running.index with counter := 20450, occupancy := 700000, copy := d }
      notice := { running.notice with serving := 3 } }
    yields (.linkReset ⟨false, 0⟩ .clean) s (fun t =>
      t.ctl.engine == .stopped && t.ctl.lastReset == .warm && t.index.state == .scanning && t.index.scanPosition == 0 && t.index.counter == 24576 &&
        t.index.copy.epoch == 42 && t.index.occupancy == 0 && t.ctl.base == 0 && t.notice.serving == 0) = true := by decide +kernel

/-- R85: a descriptor that is lost leaves the index UNFORMATTED, with the error counted. -/
theorem test_reset_descriptor_lost :
    yields (.reset ⟨false, 0⟩ .uncorrectable) running (fun t =>
      t.index.state == .unformatted && t.index.error && t.index.stats.uncorrected == 1 && t.index.stats.corrected == 0) = true := by decide +kernel

theorem test_start_unaligned :
    yields .start { State.reset with ctl := { State.reset.ctl with base := 0x100800 } }
      (fun t => t.ctl.startError == .baseUnaligned && !t.ctl.starting) = true := by decide +kernel

theorem test_start_begins :
    yields .start { State.reset with ctl := { State.reset.ctl with base := 0x101000 } } (fun t => t.ctl.starting && t.ctl.engine == .stopped) = true := by
  decide +kernel

/-- R172: the ERROR condition's level 6 joins and is sent. -/
theorem test_start_complete :
    yields (.startComplete headerBytes table0)
      { State.reset with ctl := { State.reset.ctl with base := 0x100000, starting := true }, index := { State.reset.index with error := true } }
      (fun t => t.ctl.engine == .running && t.ctl.area == 0x100000 && t.time.running && t.time.prescaler == 99999 && t.time.countdown == 200 &&
        t.notice.serving == 6 && t.notice.last == 6) = true := by decide +kernel

theorem test_start_bad_version :
    yields (.startComplete (put headerBytes 4 [2]) table0) { State.reset with ctl := { State.reset.ctl with starting := true } }
      (fun t => t.ctl.engine == .stopped && t.ctl.startError == .headerMagic) = true := by decide +kernel

theorem test_quiesce : yields .quiesce running (fun t => t.ctl.engine == .quiescing && t.time.running) = true := by decide +kernel

theorem test_enter_stopped :
    yields .enterStopped { running with ctl := { running.ctl with engine := .quiescing }, sweep := { flight := none, remembered := true } }
      (fun t => t.ctl.engine == .stopped && !t.time.running && t.time.ticks == 7 && !t.sweep.remembered) = true := by decide +kernel

/-- R161: a write of the upper four bytes leaves the lower four. -/
theorem test_exchange_base_upper :
    yields (.exchangeBase 4 [1, 0, 0, 0]) { State.reset with ctl := { State.reset.ctl with base := 0x00100000 } }
      (fun t => t.ctl.base == 0x0000000100100000) = true := by decide +kernel

theorem test_serving_level_held_at_7 : yields (.servingLevel 9) running (fun t => t.notice.serving == 7) = true := by decide +kernel

/-- R167: a lower Serving Level lets the pending level be sent. -/
theorem test_serving_level_sends :
    yields (.servingLevel 2) { running with notice := { running.notice with levels := [4, 1], serving := 5 } }
      (fun t => t.notice.levels == [1] && t.notice.serving == 4 && since running t == [.notice 0x9000 0xABCD]) = true := by decide +kernel

theorem test_register_write_ignored : yields (.registerWriteIgnored 0x10 0) running (fun t => t.ctl == running.ctl) = true := by decide +kernel

/-! ### The Timebase and the sweeps -/

theorem test_sweep_now :
    yields (.sweepNow 0 map12) running (fun t => t.sweep.flight == some (.slots [12])) = true := by decide +kernel

theorem test_sweep_expiry_due :
    yields (.sweepCountdownExpiry map12) { running with time := { running.time with countdown := 0 } }
      (fun t => t.sweep.flight == some (.slots [12])) = true := by decide +kernel

/-- R41, R152: the tick counter wraps, and the stream that waits for the host counts. -/
theorem test_tick_wraps :
    yields .tick
      (withSlot { running with time := { running.time with ticks := 0xFFFFFFFF } } 12
        { open0 with cls := { ChunkClass.class0 with idleLimit := 9 }, idle := 5 })
      (fun t => t.time.ticks == 0 && t.time.prescaler == 99999 && t.time.countdown == 199 && (t.slot 12).idle == 4) = true := by decide +kernel

theorem test_idle_expiry :
    yields (.idleCountdownExpiry 12) (withSlot running 12 { open0 with cls := { ChunkClass.class0 with idleLimit := 9 } })
      (fun t => (t.slot 12).state == .aborted && (t.slot 12).reason == some .idle && (t.slot 12).marks.state && t.notice.serving == 1) = true := by
  decide +kernel

/-- The stream of sequence 12.5 at the sweep that reads Stored Through 2: entries end at 9,216, 17,920 and 19,000. -/
def settling : State :=
  let s := withSlot running 12
    { open0 with
      state := .settling, start := 0, safe := 0, consumed := 19000, final := some 19000, watch := 19000, written := 3, provList := [0, 1], provCount := 2,
      chunker := { Chunker.fresh with nextOrdinal := 3, finished := true }
      extents := [{ ordinal := 0, stop := 9216 }, { ordinal := 1, stop := 17920 }, { ordinal := 2, stop := 19000 }] }
  { s with
    sweep := { flight := some (.slots [12]), remembered := false }
    pool := [(0, { bucket := 5, way := 0, owner := 12, ordinal := 0, disp := .live, waiters := [] }),
      (1, { bucket := 6, way := 0, owner := 12, ordinal := 2, disp := .live, waiters := [] })] }

/-- Sequence 12.5: "Sweep reads Stored Through 2; FIRM of 0 issued". -/
theorem test_host_half_stored :
    yields (.slotHostHalfTaken 12 1 (put (put (zeros 640) 0 [1]) 8 [2, 0, 0, 0, 0, 0, 0, 0, 2, 0, 0, 0, 0, 0, 0, 0, 0x38, 0x4A])) settling
      (fun t => (t.slot 12).stored == 2 && (t.slot 12).safe == 17920 && (t.slot 12).provList == [1] && (t.slot 12).inflight == 1 &&
        t.index.firming == [0] && (t.slot 12).state == .settling && !(t.slot 12).marks.watch) = true := by decide +kernel

/-- Sequence 12.5: "Sweep reads Stored Through 3": WATCH becomes true. -/
theorem test_host_half_watch :
    yields (.slotHostHalfTaken 12 1 (put (put (zeros 640) 0 [1]) 8 [9, 0, 0, 0, 0, 0, 0, 0, 0, 0, 0, 0, 0, 0, 0, 0, 0x38, 0x4A])) settling
      (fun t => (t.slot 12).stored == 3 && (t.slot 12).safe == 19000 && (t.slot 12).provList == [] && t.index.firming == [0, 1] &&
        (t.slot 12).marks.watch) = true := by decide +kernel

/-- R156: a cell whose post tag differs from its Done Tag is taken. -/
theorem test_request_table_read :
    yields (.requestTableRead (table0.set 3 (put (zeros 96) 0 [5, 9, 0, 0, 0, 0, 0, 0, 12])))
      { running with
        sweep := { flight := some (.slots []), remembered := false }
        requests := Vector.replicate 32 { done := some 0, inflight := none } }
      (fun t => t.sweep.flight == some (.requests [{ cell := 3, request := .abort 12 }]) && (t.requests.get 3).inflight == some 9 &&
        (t.requests.get 4).inflight == none) = true := by decide +kernel

/-- A sweep with every request carried out, at the declare threshold for the second time, with a write remembered. -/
def sweeping : State :=
  { running with
    sweep := { flight := some (.requests []), remembered := true }, index := { running.index with occupancy := 61440, fillCount := 1 } }

/-- R82: at the end of a second sweep at the declare threshold, 61,440 of 65,536 entries, the fill watch declares, and FILL's level 3 is sent. -/
theorem test_fill_declares :
    let t := sweeping.evaluateFill
    t.index.fill = .declared ∧ t.index.fillCount = 0 ∧ t.notice.last = 3 ∧ since sweeping t = [.notice 0x9000 0xABCD] := by decide +kernel

/-- R153, R154: at its close the countdown is loaded with the Quiet Interval, and the remembered sweep starts. -/
theorem test_sweep_closes :
    let t := sweeping.closeSweep map12
    sweeping.sweepOver = true ∧ t.time.countdown = 200 ∧ t.sweep = { flight := some (.slots [12]), remembered := false } := by decide +kernel

/-! ### Requests -/

theorem test_format :
    yields (.format 3) (asked running 3 (.format 12 1000 41))
      (fun t => t.index.state == .formatting && !t.index.copy.valid && t.index.writes.length == 1 && (t.requests.get 3).inflight == some 5) = true := by
  decide +kernel

theorem test_format_range :
    yields (.format 3) (asked running 3 (.format 25 1000 41))
      (fun t => t.index.state == .ready && since running t == [.reqStatus 3 .range, .reqTag 3 5, .notice 0x9000 0xABCD]) = true := by decide +kernel

/-- A SET_CLASS at the limits of R13. -/
def classRequest : ClassRequest :=
  { cls := 7, policy := 1, recipeLevel := 7, watchLevel := 0, stateLevel := 7, sstrict := 24, sloose := 24, min := 32768, normal := 65536,
    max := 65536, provisionalLimit := 512, idleLimit := 0, recipeThreshold := 65536 }

theorem test_set_class :
    yields (.setClass 3) (asked running 3 (.setClass classRequest))
      (fun t => (t.classes.get 7).map (·.policy) == some .yield && (t.classes.get 7).map (·.max) == some 65536 && (t.requests.get 3).done == some 5) =
      true := by decide +kernel

theorem test_set_class_loose_above_strict :
    yields (.setClass 3) (asked running 3 (.setClass { classRequest with sstrict := 23 }))
      (fun t => t.classes.get 7 == none && since running t == [.reqStatus 3 .range, .reqTag 3 5, .notice 0x9000 0xABCD]) = true := by decide +kernel

theorem test_open :
    yields (.openStream 0 (put (put (zeros 640) 0 [7]) 0x154 [55])) (asked running 0 (.openStream 12 0 37960 0x200000 64))
      (fun t => (t.slot 12).state == .active && (t.slot 12).consumed == 37960 && (t.slot 12).safe == 37960 && (t.slot 12).seen == 7 &&
        ((t.slot 12).cells.get 6).done == 55 && (t.requests.get 0).done == some 5) = true := by decide +kernel

theorem test_open_class_unset :
    yields (.openStream 0 (zeros 640)) (asked running 0 (.openStream 12 1 0 0x200000 64))
      (fun t => (t.slot 12).state == .free && since running t == [.reqStatus 0 .range, .reqTag 0 5, .notice 0x9000 0xABCD]) = true := by decide +kernel

/-- Slot 12 of sequence 12.4 before its CLOSE: cells 7 and 6 in the Feed Queue, L 3,000. -/
def resent : State :=
  withSlot running 12
    { open0 with
      start := 37960, safe := 37960, consumed := 40960, chunker := { Chunker.fresh with len := 3000 }
      feed := [{ cell := 7, addr := 0x500000, offset := 36864, length := 8192, tag := 1, count := 0 },
        { cell := 6, addr := 0x400000, offset := 45056, length := 4096, tag := 56, count := 0 }] }

theorem test_close :
    yields (.close 2) (asked resent 2 (.close 12 49152))
      (fun t => (t.slot 12).final == some 49152 && (t.slot 12).state == .active && (t.requests.get 2).done == some 5) = true := by decide +kernel

/-- Sequence 12.4: a CLOSE with Final Offset 47,000 is refused with RANGE. -/
theorem test_close_below_segment :
    yields (.close 2) (asked resent 2 (.close 12 47000))
      (fun t => (t.slot 12).final == none && since running t == [.reqStatus 2 .range, .reqTag 2 5, .notice 0x9000 0xABCD]) = true := by decide +kernel

theorem test_abort :
    yields (.abort 2) (asked resent 2 (.abort 12))
      (fun t => (t.slot 12).state == .aborted && (t.slot 12).reason == some .requested && (t.slot 12).feed == [] && (t.slot 12).consumed == 40960) = true := by
  decide +kernel

theorem test_release :
    yields (.release 2) (asked (withSlot running 12 { open0 with state := .aborted, reason := some .gap, written := 3 }) 2 (.release 12))
      (fun t => (t.slot 12).state == .free && (t.slot 12).reason == none && (t.slot 12).written == 3 && (t.requests.get 2).done == some 5) = true := by
  decide +kernel

theorem test_release_busy :
    yields (.release 2) (asked (withSlot running 12 { open0 with state := .aborting, reason := some .gap, inflight := 1 }) 2 (.release 12))
      (fun t => (t.slot 12).state == .aborting && since running t == [.reqStatus 2 .busy, .reqTag 2 5, .notice 0x9000 0xABCD]) = true := by decide +kernel

/-- A digest whose first bytes are A3 5C 17. -/
def digest1 : Digest := (((Vector.replicate 32 0).set 0 0xA3).set 1 0x5C).set 2 0x17

theorem test_seed_joins :
    yields (.seed 2) (asked running 2 (.seed digest1 999 65536 7))
      (fun t => t.index.requests.length == 1 && (t.requests.get 2).inflight == some 5) = true := by decide +kernel

theorem test_seed_number_not_below_counter :
    yields (.seed 2) (asked running 2 (.seed digest1 1000 65536 7))
      (fun t => t.index.requests == [] && since running t == [.reqStatus 2 .range, .reqTag 2 5, .notice 0x9000 0xABCD]) = true := by decide +kernel

theorem test_retire_joins :
    yields (.retire 2) (asked running 2 (.retire digest1 999 7)) (fun t => t.index.requests.length == 1) = true := by decide +kernel

theorem test_set_epoch :
    yields (.setEpoch 2) (asked running 2 (.setEpoch 42))
      (fun t => t.index.copy.epoch == 42 && t.index.writes.length == 1 && (t.requests.get 2).inflight == some 5) = true := by decide +kernel

theorem test_set_epoch_below :
    yields (.setEpoch 2) (asked running 2 (.setEpoch 40))
      (fun t => since running t == [.reqResult 2 (.epoch 41), .reqStatus 2 .range, .reqTag 2 5, .notice 0x9000 0xABCD]) = true := by decide +kernel

theorem test_snapshot_slot :
    yields (.snapshotSlot 2) (asked (withSlot running 12 { open0 with stats := { SlotStats.zero with bytes := 9 } }) 2 (.snapshot 12))
      (fun t => since running t ==
        [.slotStats 12 { SlotStats.zero with bytes := 9 }, .reqStatus 2 .done, .reqTag 2 5, .notice 0x9000 0xABCD]) = true := by decide +kernel

theorem test_snapshot_engine :
    yields (.snapshotEngine 2) (asked { running with index := { running.index with error := true } } 2 (.snapshot 0xFFFF))
      (fun t => !t.index.error && since running t == [.recordStats .zero, .reqStatus 2 .done, .reqTag 2 5, .notice 0x9000 0xABCD]) = true := by
  decide +kernel

theorem test_unknown_request :
    yields (.unknownRequest 2) (asked running 2 (.unknown 11))
      (fun t => since running t == [.reqStatus 2 .unknown, .reqTag 2 5, .notice 0x9000 0xABCD]) = true := by decide +kernel

/-! ### Lanes and reads -/

/-- Sequence 12.4: the lane reads 4,096 bytes of cell 7 from its buffer address plus 4,096. -/
theorem test_lane_takes_slot :
    yields (.laneTakesSlot 4) { resent with runList := [12, 3] }
      (fun t => t.lanes.get 4 == { turn := some { slot := 12, count := 0 }, read := some { cell := 7, addr := 0x501000, length := 4096 } } &&
        t.runList == [3]) = true := by decide +kernel

/-- A lane whose read of three bytes ends the second segment's run: the bytes 01 02 03 of Case A are taken, and the segment is answered DONE. -/
theorem test_segment_read_complete :
    let s := withSlot running 12 { open0 with feed := [{ cell := 9, addr := 0x300000, offset := 98, length := 5, tag := 8, count := 0 }] }
    yields (.segmentReadComplete (.lane 4) [1, 2, 3])
      { s with lanes := s.lanes.set 4 { turn := some { slot := 12, count := 0 }, read := some { cell := 9, addr := 0x300002, length := 3 } } }
      (fun t => (t.slot 12).consumed == 103 && (t.slot 12).chunker.hash == 0x0CDD51E6 && (t.slot 12).feed == [] &&
        ((t.slot 12).cells.get 9).done == 8 && ((t.slot 12).cells.get 9).status == .done && (t.slot 12).stats.resent == 2) = true := by decide +kernel

/-- A turn on slot 12 with one read out. -/
def reading : State :=
  { resent with
    lanes := resent.lanes.set 4 { turn := some { slot := 12, count := 0 }, read := some { cell := 7, addr := 0x501000, length := 4096 } } }

theorem test_host_read_failure :
    yields (.hostReadFailure (.lane 4)) reading
      (fun t => t.ctl.engine == .faulted && t.ctl.faultCause == .hostMemory && !t.time.running && (t.lanes.get 4).turn == none &&
        (t.slot 12).consumed == 40960) = true := by decide +kernel

theorem test_read_timeout :
    yields (.readTimeout (.lane 4)) reading (fun t => t.ctl.engine == .faulted && t.ctl.faultCause == .hostMemory) = true := by decide +kernel

/-! ### The index -/

/-- An operation in flight at bucket 0xA35. -/
def flying (s : State) (k : OpKind) : State :=
  { s with index := { s.index with inflight := [{ kind := k, bucket := 0xA35, halt := none }] } }

/-- A lookup of chunk 0 of a slot. -/
def lookup1 (i : SlotNo) : Lookup := { slot := i, ordinal := 0, digest := digest1, length := 9000, check := 77 }

/-- A slot whose pending chunk list holds that chunk. -/
def pending1 (c : Slot) : Slot :=
  { c with pending := [{ ordinal := 0, offset := 100, length := 9000, digest := digest1, check := 77, cond := .looking }], inflight := 1 }

theorem test_operation_accepted :
    yields .operationAccepted { running with lookups := [lookup1 21] }
      (fun t => t.index.inflight == [{ kind := .lookup (lookup1 21), bucket := 0xA35, halt := none }] && t.lookups == [] &&
        (t.slot 21).inflight == 1 && t.index.pointer == .firming) = true := by decide +kernel

/-- Sequence 12.1: "21's lookup: miss, record granted". -/
theorem test_lookup_new :
    yields (.lookupInsertComplete 21 0 clean) (flying (withSlot running 21 (pending1 open0)) (.lookup (lookup1 21)))
      (fun t => (t.slot 21).pending.map (·.cond) == [.resolved .new 1000 .none] && (t.slot 21).inflight == 0 && (t.slot 21).provList == [0] &&
        t.index.counter == 1001 && t.index.occupancy == 1 && (t.entry 0xA35 0).map (·.state) == some (.provisional 21 0)) = true := by decide +kernel

/-- The index after it: the entry of slot 21, PROVISIONAL under number 12,000, and slot 34's lookup in flight. -/
def owned : State :=
  let s := withSlot (withSlot running 21 { open0 with provList := [0], provCount := 1 }) 34 (pending1 open0)
  { s with
    mem := { s.mem with ways := [(wayKey 0xA35 0,
      { state := .provisional 21 0, digest := digest1, number := 12000, length := 9000, check := 77, lastHit := 40 })] }
    pool := [(0, { bucket := 0xA35, way := 0, owner := 21, ordinal := 0, disp := .live, waiters := [] })]
    index := { s.index with counter := 12001, copy := { s.index.copy with reserved := 12288 }, occupancy := 1 } }

/-- Sequence 12.1: "34's lookup: match on 21's entry". -/
theorem test_lookup_held :
    yields (.lookupInsertComplete 34 0 clean) (flying owned (.lookup (lookup1 34)))
      (fun t => (t.slot 34).state == .held && (t.slot 34).inflight == 1 && (t.slot 34).stats.holds == 1 &&
        (t.record 0).map (·.waiters) == some [{ slot := 34, ordinal := 0 }] && (t.entry 0xA35 0).map (·.lastHit) == some 41 &&
        t.index.counter == 12001) = true := by decide +kernel

/-- The state of sequence 12.1 with slot 34 HELD on slot 21's record. -/
def waiting1 (d : Disposition) (limit : Nat) : State :=
  let s := { owned with pool := [(0, { bucket := 0xA35, way := 0, owner := 21, ordinal := 0, disp := d, waiters := [{ slot := 34, ordinal := 0 }] })] }
  withSlot s 34
    { open0 with
      state := .held, cls := { ChunkClass.class0 with provisionalLimit := limit }, inflight := 1
      pending := [{ ordinal := 0, offset := 100, length := 9000, digest := digest1, check := 77, cond := .held 0 }] }

/-- Sequence 12.1: "FIRM completes". -/
theorem test_firm_complete :
    let s := waiting1 .firming 256
    yields (.firmComplete 0 clean) (flying (s.editSlot 21 fun c => { c with provList := [], provCount := 0, inflight := 1 }) (.firm 0))
      (fun t => (t.entry 0xA35 0).map (·.state) == some .firm && (t.slot 21).inflight == 0 && (t.slot 34).state == .active &&
        (t.slot 34).pending.map (·.cond) == [.resolved .dup 12000 .none] && (t.slot 34).inflight == 0 && t.pool == [] && t.index.stats.firms == 1) =
      true := by decide +kernel

/-- Sequence 12.2: the waiter becomes the owner under a fresh number. -/
theorem test_withdraw_takeover :
    yields (.withdrawComplete 0 clean) (flying (waiting1 .withdrawing 256) (.withdraw 0))
      (fun t => (t.entry 0xA35 0).map (fun e => (e.state, e.number)) == some (.provisional 34 0, 12001) && (t.slot 34).state == .active &&
        (t.slot 34).provCount == 1 && t.index.stats.takeovers == 1 && t.index.stats.withdrawals == 1 && t.index.counter == 12002) = true := by
  decide +kernel

/-- R108, R110: at its Provisional Limit the waiter is UNINDEXED, and the way is written EMPTY. -/
theorem test_withdraw_no_owner :
    yields (.withdrawComplete 0 clean) (flying (waiting1 .withdrawing 0) (.withdraw 0))
      (fun t => t.entry 0xA35 0 == none && (t.slot 34).pending.map (·.cond) == [.resolved .unindexed 12001 .provisionalLimit] && t.pool == [] &&
        t.index.occupancy == 0) = true := by decide +kernel

theorem test_waiter_removal :
    let s := waiting1 .live 256
    yields (.waiterRemoval 34 0)
      ({ s with removals := [{ waiter := { slot := 34, ordinal := 0 }, record := 0 }] }.editSlot 34 fun c => { c with state := .aborting, pending := [] })
      (fun t => (t.record 0).map (·.waiters) == some [] && (t.slot 34).state == .aborted && t.removals == []) = true := by decide +kernel

/-- A state in which a maintenance operation of cell 2 is in flight. -/
def maintained (s : State) (k : OpKind) : State := flying { s with requests := s.requests.set 2 { done := some 4, inflight := some 5 } } k

theorem test_seed_complete :
    yields (.seedComplete 2 clean) (maintained running (.seed { cell := 2, digest := digest1, number := 3, length := 10, check := 9 }))
      (fun t => (t.entry 0xA35 0).map (fun e => (e.state, e.number, e.lastHit)) == some (.firm, 3, 41) && t.index.occupancy == 1 &&
        (t.requests.get 2).done == some 5) = true := by decide +kernel

theorem test_retire_busy :
    yields (.retireComplete 2 clean) (maintained owned (.retire { cell := 2, digest := digest1, number := 12000, fence := 99 }))
      (fun t => t.mem == owned.mem && since running t == [.reqStatus 2 .busy, .reqTag 2 5, .notice 0x9000 0xABCD]) = true := by decide +kernel

/-- The index with the entry FIRM. -/
def firm1 : State :=
  { owned with
    mem := { owned.mem with ways := [(wayKey 0xA35 0,
      { state := .firm, digest := digest1, number := 12000, length := 9000, check := 77, lastHit := 40 })] }
    pool := [] }

theorem test_retire_complete :
    yields (.retireComplete 2 clean) (maintained firm1 (.retire { cell := 2, digest := digest1, number := 12000, fence := 41 }))
      (fun t => t.entry 0xA35 0 == none && t.index.occupancy == 0 && (t.requests.get 2).done == some 5) = true := by decide +kernel

/-- Sequence 12.6: the last SCAN makes the index READY. -/
theorem test_scan_complete :
    let s := { firm1 with
      mem := { firm1.mem with ways := firm1.mem.ways ++ [(wayKey 0xA35 3,
        { state := .provisional 21 0, digest := digest1, number := 1, length := 1, check := 1, lastHit := 0 })] }
      index := { firm1.index with state := .scanning, scanPosition := 4095, scanNext := 4096, occupancy := 0 } }
    yields (.scanComplete 0xA35 clean) (flying s (.scan 0xA35))
      (fun t => t.index.state == .ready && t.index.scanPosition == 4096 && t.index.occupancy == 1 && t.entry 0xA35 3 == none) = true := by decide +kernel

/-- Sequence 12.6: a reservation from 24,576 raises Reserved Through to 28,672, and the lookup goes on with number 24,576. -/
theorem test_descriptor_write_complete :
    let s := flying (withSlot running 21 (pending1 open0)) (.lookup (lookup1 21))
    let s := { s with index := { s.index with counter := 24576, copy := { s.index.copy with reserved := 24576 } } }
    yields (.lookupInsertComplete 21 0 clean) s (fun t =>
      t.index.writes.map (·.desc.reserved) == [28672] && yields (.descriptorWriteComplete .clean) t (fun u =>
        u.index.copy.reserved == 28672 && (u.slot 21).pending.map (·.cond) == [.resolved .new 24576 .none] && u.index.inflight == [])) = true := by
  decide +kernel

theorem test_descriptor_write_lost :
    let s := { running with index := { running.index with writes := [{ desc := running.index.copy, use := .reserve }] } }
    yields (.descriptorWriteComplete .uncorrectable) s (fun t => t.ctl.engine == .faulted && t.ctl.faultCause == .indexDescriptor && t.index.writeFailed) =
      true := by decide +kernel

/-- R87, steps 3 and 4. -/
theorem test_format_clear :
    let s := { firm1 with index := { firm1.index with
      state := .formatting, format := some { cell := 3, k := 13, counterStart := 9, epochStart := 8, cleared := false } } }
    yields .formatClear s (fun t => t.entry 0xA35 0 == none && t.index.copy == { valid := true, k := 13, reserved := 9, epoch := 8, generation := 2 }) =
      true := by decide +kernel

/-! ### Recipes -/

/-- Sequence 12.3: entry 64 of an area of 64 entries goes to position 0. -/
theorem test_emission :
    let c := { pending1 open0 with inflight := 0, written := 64, taken := 64, consumed := 9100, chunker := { Chunker.fresh with nextOrdinal := 65 } }
    yields (.emission 12) (withSlot running 12 { c with pending := c.pending.map fun p => { p with ordinal := 64, cond := .resolved .dup 5 .none } })
      (fun t => (t.slot 12).written == 65 && (t.slot 12).stats.dupBytes == 9000 && (t.slot 12).marks.recipe &&
        (since running t).take 2 ==
          [.recipe 0x200000
            { ordinal := 64, offset := 100, length := 9000, verdict := .dup, number := 5, cause := .none, check := 77, digest := digest1 },
            .slotWritten 12 65]) = true := by decide +kernel

/-! ### The statements' hypotheses can be met

One theorem or more for each statement with hypotheses: a state and operands that meet them, with a bound of a range at the bound. -/

/-- A command that answers a next state. -/
theorem answers_of_yields {c : Instr} {s : State} {p : State → Bool} (h : yields c s p = true) : ∃ t, exec c s = .next t := by
  unfold yields at h
  split at h
  · exact ⟨_, ‹_›⟩
  all_goals cases h

/-- No idle expiry is due, and every condition has been handed on. -/
def Calm (s : State) : Prop := s.Settled ∧ s.HandedOn

theorem running_calm : Calm running := ⟨running_settled, fun i => by rw [running_slot]; rfl⟩

/-- A slot that waits for nothing leaves a state so. -/
theorem settled_withSlot {s : State} (h : s.Settled) (i : SlotNo) (c : Slot) (hc : c.idleDue = false) : (withSlot s i c).Settled := fun j => by
  by_cases e : j = i
  · subst e; simpa [withSlot] using hc
  · simpa [withSlot, e] using h j

theorem calm_withSlot {s : State} (h : Calm s) (i : SlotNo) (c : Slot) (hc : c.idleDue = false) (hm : c.marks = c.marksDue) : Calm (withSlot s i c) :=
  ⟨settled_withSlot h.1 i c hc, fun j => by
    by_cases e : j = i
    · subst e; simpa [withSlot] using hm
    · simpa [withSlot, e] using h.2 j⟩

/-- The request that `asked` puts before the engine is the next to be carried out. -/
theorem asked_at (s : State) (cell : ReqNo) (r : Request) (k : s.Settled) (h : s.mayWrite = true) : (asked s cell r).AtRequest cell r 5 [] :=
  ⟨k, h, rfl, congrArg RequestRecord.inflight (Vector.getElem_set_self cell.isLt)⟩

theorem resent_calm : Calm resent := calm_withSlot running_calm _ _ rfl rfl

/-- A slot whose idle countdown a tick has brought to 0. -/
def idled : State := withSlot running 12 { open0 with cls := { ChunkClass.class0 with idleLimit := 1 }, idle := 0 }

/-- Of the slots, its alone is due. -/
theorem idled_other (j : SlotNo) (h : j ≠ 12) : (idled.slot j).idleDue = false := by
  rw [show idled.slot j = running.slot j from State.slot_setSlot_of_ne _ _ _ _ h, running_slot]; rfl

theorem test_meets_StepRunsFront : ({ running with pending := [.tick] } : State).pending = .tick :: [] := rfl

theorem test_meets_EmptyQueueIsOneClockPeriod :
    (State.reset.pending = [] ∧ State.reset.Settled ∧ State.reset.time.running = false) ∧
    (let s := { running with time := { running.time with prescaler := 1 } };
      s.pending = [] ∧ s.Settled ∧ s.time.running = true ∧ s.time.prescaler ≠ 0) ∧
    (let s := { running with time := { running.time with prescaler := 0 } };
      s.pending = [] ∧ s.Settled ∧ s.time.running = true ∧ s.time.prescaler = 0) ∧
    (idled.pending = [] ∧ (idled.slot 12).idleDue = true ∧ ∀ j, j < 12 → (idled.slot j).idleDue = false) :=
  ⟨⟨rfl, running_settled, rfl⟩, ⟨rfl, running_settled, rfl, by decide⟩, ⟨rfl, running_settled, rfl, rfl⟩, rfl, by decide +kernel,
    fun j h => idled_other j (ne_of_lt h)⟩

theorem test_meets_CommandsLeaveTheQueue : ∃ t, exec .tick running = .next t :=
  answers_of_yields (p := fun _ => true) (by decide +kernel)

theorem test_meets_ResetClassTable :
    ∀ c ∈ [Instr.powerOn, .linkReset ⟨true, 1⟩ .correctable, .reset ⟨false, 0⟩ .clean], isReset c = true ∧ ∃ t, exec c running = .next t := by
  intro c h
  have : isReset c = true ∧ yields c running (fun _ => true) = true := by revert c; decide +kernel
  exact ⟨this.1, answers_of_yields this.2⟩

/-- A descriptor at the bounds of R90. -/
def desc1 (k reserved : Nat) : Descriptor := { valid := true, k := k, reserved := reserved, epoch := 42, generation := 1 }

theorem test_meets_ResetsLeaveTheirStates_valid :
    (let s := { running with mem := { ways := [], desc := desc1 12 (2 ^ 40) } };
      let d := s.mem.desc; Ecc.correctable ≠ .uncorrectable ∧ d.valid = true ∧ 12 ≤ d.k ∧ d.k ≤ 24 ∧ d.reserved ≤ 2 ^ 40) ∧
    (let s := { running with index := { running.index with writes := [{ desc := desc1 24 0, use := .reserve }] } };
      ∃ w ws, s.index.writes = w :: ws ∧ Ecc.clean ≠ .uncorrectable ∧ w.desc.valid = true ∧ 12 ≤ w.desc.k ∧ w.desc.k ≤ 24 ∧ w.desc.reserved ≤ 2 ^ 40) :=
  ⟨by decide, _, _, rfl, by decide⟩

theorem test_meets_ResetsLeaveTheirStates_invalid :
    ∀ d ∈ [desc1 11 0, desc1 25 0, desc1 12 (2 ^ 40 + 1), { desc1 12 0 with valid := false }],
      d.valid = false ∨ d.k < 12 ∨ 24 < d.k ∨ 2 ^ 40 < d.reserved := by decide

theorem test_meets_StartIsChecked_start :
    (let s := { State.reset with ctl := { State.reset.ctl with base := BitVec.ofNat 64 (2 ^ 64 - 1064960) } };
      s.ctl.engine = .stopped ∧ s.ctl.starting = false ∧ s.ctl.base.toNat % 4096 = 0 ∧ s.ctl.base.toNat + 1064960 ≤ 2 ^ 64) ∧
    (let s := { State.reset with ctl := { State.reset.ctl with base := BitVec.ofNat 64 (2 ^ 64 - 1064960 + 4096) } };
      s.ctl.engine = .stopped ∧ s.ctl.starting = false ∧ 2 ^ 64 < s.ctl.base.toNat + 1064960) ∧
    (let s := { State.reset with ctl := { State.reset.ctl with base := 4095 } };
      s.ctl.engine = .stopped ∧ s.ctl.starting = false ∧ s.ctl.base.toNat % 4096 ≠ 0) ∧
    running.ctl.engine ≠ .stopped := by decide +kernel

/-- A START in progress. -/
def startingState : State := { State.reset with ctl := { State.reset.ctl with base := 0x100000, starting := true } }

theorem test_meets_StartIsChecked_header :
    startingState.ctl.starting = true ∧
    (zeros 4096).length = 4096 ∧ field (zeros 4096) 0 4 ≠ 0x7C32A580 ∧
    (let h := put headerBytes 0x20 [8];
      h.length = 4096 ∧ field h 0 4 = 0x7C32A580 ∧ field h 4 2 = 1 ∧ headerRangeOk (readHeader h) = false) := by decide +kernel

theorem test_meets_StartIsChecked_read : startingState.ctl.starting = true ∧ startingState.Settled := ⟨rfl, running_settled⟩

theorem test_meets_StartCompletes :
    let s := { startingState with
      index := { startingState.index with fill := .declared, error := true }, notice := { startingState.notice with levels := [2], serving := 5 } }
    s.ctl.starting = true ∧ headerBytes.length = 4096 ∧ table0.length = 32 ∧ (∀ b ∈ table0, b.length = 96) ∧
    field headerBytes 0 4 = 0x7C32A580 ∧ field headerBytes 4 2 = 1 ∧ header1 = readHeader headerBytes ∧ headerRangeOk header1 = true ∧
    [3, 2] = (if s.index.fill = .declared ∧ header1.fillLevel ≠ 0 then joinDescending header1.fillLevel s.notice.levels else s.notice.levels) ∧
    [6, 3, 2] = (if s.index.error = true ∧ header1.errorLevel ≠ 0 then joinDescending header1.errorLevel [3, 2] else [3, 2]) ∧
    s.notice.serving < 6 := by decide +kernel

theorem test_meets_StartCompletes_slots :
    ((withSlot startingState 1023 { open0 with state := .aborting }).slot 1023).state = .aborting ∧
    ∀ i, (startingState.slot i).state.isLive = false ∧ (startingState.slot i).state ≠ .aborting :=
  ⟨by decide +kernel, fun i => by rw [show startingState.slot i = _ from reset_slot i]; decide⟩

theorem test_meets_QuiesceAndStop :
    let s := { running with ctl := { running.ctl with engine := .quiescing }, time := { running.time with countdown := 1 }
                            index := { running.index with inflight := [{ kind := .scan 4095, bucket := 4095, halt := none }] } }
    (s.ctl.engine = .quiescing ∧ s.sweep.flight = none ∧ (s.time.running = false ∨ s.time.countdown ≠ 0)) ∧
    (∀ n : LaneNo, s.lanes.get n = { turn := none, read := none }) ∧
    (s.lookups = [] ∧ s.index.firming = [] ∧ s.index.withdrawal = [] ∧ s.index.requests = [] ∧ s.removals = []) ∧
    (∀ o ∈ s.index.inflight, ∃ b, o.kind = .scan b) ∧ (s.index.format = none ∧ s.index.writes = []) ∧
    (∀ cell : ReqNo, (s.requests.get cell).inflight = none) ∧ (∀ i, (s.slot i).emittable = none) ∧ s.Settled := by
  refine ⟨by decide +kernel, fun n => by simp [running, State.reset, Vector.get], by decide +kernel, ?_, by decide +kernel,
    fun n => by simp [running, State.reset, Vector.get], fun i => ?_, running_settled⟩
  · intro o h
    simp only [List.mem_singleton] at h
    exact ⟨4095, by rw [h]⟩
  · exact (congrArg Slot.emittable (running_slot i)).trans rfl

theorem test_meets_RegisterWrites :
    (State.reset.ctl.engine = .stopped ∧ State.reset.ctl.starting = false) ∧
    (∀ offset ∈ [0, 0x0F, 0x14, 0x17, 0x28, 63], offset < 0x10 ∨ 0x14 ≤ offset ∧ offset < 0x18 ∨ 0x28 ≤ offset ∧ offset < 64) ∧
    ((4#64).toNat % 2 ^ 32 ≠ 1 ∧ (4#64).toNat % 2 ^ 32 ≠ 2 ∧ (4#64).toNat % 2 ^ 32 ≠ 3) := by
  refine ⟨by decide +kernel, by decide +kernel, by decide +kernel, by decide +kernel, by decide +kernel⟩

theorem test_meets_SweepsStart :
    running.Settled ∧ map12.length = 128 ∧ State.reset.ctl.engine = .stopped ∧
    (running.ctl.engine = .running ∧ running.sweep.flight = none ∧ running.time.countdown ≠ 0) ∧
    (let s := { running with time := { running.time with countdown := 0 } };
      s.ctl.engine = .running ∧ s.sweep.flight = none ∧ s.time.running = true ∧ s.time.countdown = 0) ∧
    (let s := { running with time := { running.time with countdown := 0 }, sweep := { flight := some (.slots []), remembered := false } };
      s.sweep.flight.isSome = true ∧ s.time.running = true ∧ s.time.countdown = 0) :=
  ⟨running_settled, by decide +kernel, rfl, by decide, by decide, by decide⟩

/-- The three conditions become true at their bounds, all of levels above 0: at the threshold, at the Safe Offset, and at CLOSED. -/
theorem test_meets_ConditionsAreHandedOn :
    let c := { open0 with state := .closed, written := 1, watch := 100 }
    let s := withSlot running 12 c
    let m : Marks := { recipe := true, watch := true, state := true }
    c = s.slot 12 ∧ c.marks ≠ m ∧ c.state ≠ .free ∧ c.cls.recipeThreshold ≤ c.written - c.taken ∧ c.watch ≠ 0 ∧ c.watch ≤ c.safe ∧
    c.cls.recipeLevel ≠ 0 ∧ c.cls.watchLevel ≠ 0 ∧ c.cls.stateLevel ≠ 0 ∧ s.notice.ready.get 12 ≠ true ∧
    ({ c with marks := m } : Slot).marks = m ∧ s.mayWrite = true ∧ ({ s with ctl := State.reset.ctl } : State).mayWrite = false := by decide +kernel

theorem test_meets_LevelsAreSent :
    (let s := running; let t := { running with notice := { running.notice with levels := [7, 4], serving := 6 } };
      7 ≠ 0 ∧ t.notice.levels ≠ s.notice.levels ∧ t.ctl.engine = .running ∧ t.notice.levels = 7 :: [4] ∧ t.notice.serving < 7) ∧
    (let t := { running with notice := { running.notice with levels := [7, 4], serving := 7 } };
      t.notice.levels.Pairwise (· > ·) ∧ ∀ m ms, t.notice.levels = m :: ms → m ≤ t.notice.serving) ∧
    (let t := { running with notice := { running.notice with levels := [4, 1], serving := 6 } };
      t.Settled ∧ t.ctl.engine = .running ∧ t.notice.levels = 4 :: [1] ∧ 3 = min (3#32).toNat 7 ∧ 3 < 4 ∧ 7 = min (8#32).toNat 7 ∧ 4 ≤ 7) :=
  ⟨by decide, ⟨by decide, fun m ms h => by cases h; decide⟩, running_settled, by decide⟩

theorem test_meets_TickCounts :
    (let s := withSlot running 1023 { open0 with cls := { ChunkClass.class0 with idleLimit := 1 }, idle := 1 };
      s.time.running = true ∧ s.ctl.engine = .running ∧ (s.slot 1023).state = .active ∧ (s.slot 1023).cls.idleLimit ≠ 0 ∧
        (s.slot 1023).chunker.finished = false ∧ (s.slot 1023).finalDue = false ∧ (s.slot 1023).headUsable = false ∧ (s.slot 0).state ≠ .active) ∧
    (withSlot running 1023 { open0 with cls := { ChunkClass.class0 with idleLimit := 1 }, idle := 1 }).Settled :=
  ⟨by decide +kernel, settled_withSlot running_settled _ _ rfl⟩

theorem test_meets_IdleExpiryAborts :
    (running.slot 12).state.isLive = false ∧
    ((idled.slot 12).state.isLive = true ∧ (idled.slot 12).cls.idleLimit ≠ 0 ∧ (idled.slot 12).idle = 0 ∧ idled.mayWrite = true) ∧
    (∀ j, j ≠ 12 → (idled.slot j).idleDue = false) ∧
    (let s := asked idled 3 (.close (12 : SlotNo).val 100);
      (s.requests.get 3).inflight = some 5 ∧ s.sweep.flight = some (.requests ({ cell := 3, request := .close (12 : SlotNo).val 100 } :: []))) ∧
    takesNoExpiry .quiesce = false :=
  ⟨by decide +kernel, by decide +kernel, idled_other, by decide +kernel, rfl⟩

/-- A Stored Through of 2 is between the entries of ordinals 1 and 2, and above the record of ordinal 0. -/
theorem test_meets_SlotIsSwept :
    let half := put (put (zeros 640) 0 [1]) 8 [2, 0, 0, 0, 0, 0, 0, 0, 3]
    settling.Settled ∧
    (settling.sweep.flight = some (.slots [12]) ∧ (1 : BitVec 32) ≠ (settling.slot 12).seen ∧
      (settling.slot 12).state ≠ .free ∧ half.length = 640 ∧ (settling.slot 12).stored < field half 0x008 6 ∧ field half 0x008 6 = 2 ∧
      (settling.slot 12).extents = [{ ordinal := 0, stop := 9216 }] ++ { ordinal := 1, stop := 17920 } :: [{ ordinal := 2, stop := 19000 }] ∧
      (∀ x ∈ [({ ordinal := 0, stop := 9216 } : Extent), { ordinal := 1, stop := 17920 }], x.ordinal < 2) ∧ settling.mayWrite = true) ∧
    ∀ r, (r == 0) = true ↔ ∃ p, settling.record r = some p ∧ p.ordinal < 2 := by
  refine ⟨settled_withSlot running_settled _ _ rfl, by decide +kernel, fun r => ?_⟩
  match r with
  | 0 => exact ⟨fun _ => ⟨_, rfl, by decide⟩, fun _ => rfl⟩
  | 1 =>
    refine ⟨fun h => (by cases h), fun ⟨p, h, k⟩ => ?_⟩
    cases h; cases Nat.not_lt_zero _ (Nat.lt_of_succ_lt_succ (Nat.lt_of_succ_lt_succ k))
  | n + 2 => exact ⟨fun h => by simp at h, fun ⟨p, h, _⟩ => by simp [State.record, settling, tableGet] at h⟩

/-- A slot is passed over with its Post Sequence unmoved, or FREE; and a raise of Stored Through may be below every entry. -/
theorem test_meets_SlotIsSwept_passed :
    (0 : BitVec 32) = (settling.slot 12).seen ∧ (running.slot 12).state = .free ∧
    (∀ x, [({ ordinal := 2, stop := 19000 } : Extent)].head? = some x → 2 ≤ x.ordinal) ∧
    ({ settling with ctl := { settling.ctl with engine := .quiescing } } : State).ctl.engine = .quiescing :=
  ⟨by decide +kernel, by decide +kernel, fun x h => by cases h; decide, rfl⟩

/-- A host half whose cell `n` holds an Offset, a Length and a Post Tag. -/
def cellHalf (n : CellNo) (offset length : Nat) (tag : Tag) : List Byte :=
  put (zeros 640) (0x080 + 32 * n.val) (leBytes 8 0x600000 ++ leBytes 8 offset ++ leBytes 4 length ++ [tag])

/-- The segment of such a cell. -/
def cellSegment (n : CellNo) (offset length : Nat) (tag : Tag) : Segment :=
  { cell := n, addr := 0x600000, offset := offset, length := length, tag := tag, count := 0 }

/-- Slot 12 of sequence 12.4: cell 15 is passed over, refused, empty, behind the Consumed Offset, past a Final Offset, or joins behind the two segments queued. -/
theorem test_meets_CellsAreTaken :
    (∀ x ∈ [(0, 0), (0, 1048577), (2 ^ 48 - 1, 1), (40959, 1), (40960, 1), (45056, 1048576)],
      (cellHalf 15 x.1 x.2 9).length = 640 ∧ field (cellHalf 15 x.1 x.2 9) (0x080 + 32 * (15 : CellNo).val + 0x08) 8 = x.1 ∧
        field (cellHalf 15 x.1 x.2 9) (0x080 + 32 * (15 : CellNo).val + 0x10) 4 = x.2 ∧
        tagAt (cellHalf 15 x.1 x.2 9) (0x080 + 32 * (15 : CellNo).val + 0x14) = 9) ∧
    ((running.slot 12).state.isLive = false ∧ (resent.slot 12).state.isLive = true ∧ ((resent.slot 12).cells.get 15).queued = none ∧
      9 ≠ ((resent.slot 12).cells.get 15).done) ∧
    ((resent.slot 12).consumed = 40960 ∧ (resent.slot 12).final = none) ∧
    ((resent.slot 12).feed = (resent.slot 12).feed ++ [] ∧
      (∀ x ∈ (resent.slot 12).feed, x.offset < 45056 ∨ x.offset = 45056 ∧ x.cell < 15) ∧
      ∀ x, ([] : List Segment).head? = some x → 45056 < x.offset ∨ 45056 = x.offset ∧ 15 ≤ x.cell) ∧
    ((resent.slot 12).feed ++ cellSegment 15 45056 1048576 9 :: []).length ≠ 16 := by
  refine ⟨by decide +kernel, by decide +kernel, by decide +kernel, ⟨by decide +kernel, by decide +kernel, fun x h => by cases h⟩, by decide +kernel⟩

/-- 15 segments queued, none usable: a 16th makes a GAP; and a Final Offset that a segment passes. -/
theorem test_meets_CellsAreTaken_aborts :
    let feed := (List.finRange 15).map fun n : Fin 15 => cellSegment (Fin.castLE (by decide) n) 101 10 8
    let c := { open0 with feed := feed }
    (feed ++ cellSegment 15 101 1 9 :: []).length = 16 ∧ (∀ x, (feed ++ cellSegment 15 101 1 9 :: []).head? = some x → c.consumed < x.offset) ∧
    (∀ x ∈ feed, x.offset < 101 ∨ x.offset = 101 ∧ x.cell < 15) ∧
    ∃ f, ({ c with final := some 101 } : Slot).final = some f ∧ f < 101 + 1 := by
  refine ⟨by decide, fun x h => ?_, by decide, _, rfl, by decide⟩
  cases h; decide

/-- R49: "A zero-length segment is answered DONE wherever its Offset lies below 2^48, beyond the Final Offset included". -/
theorem test_meets_CellsAreTaken_empty :
    (∀ f ∈ [none, some 40960],
      let s := resent.editSlot 12 fun c => { c with final := f }
      let t := s.takeCell 12 (cellHalf 15 40961 0 9) 15
      (s.slot 12).state.isLive = true ∧ (s.slot 12).consumed < 40961 + 0 ∧
        (t.slot 12).cells.get 15 = { done := 9, status := .done, queued := none } ∧ (t.slot 12).feed = (s.slot 12).feed) ∧
    (cellHalf 15 40961 0 9).length = 640 ∧ field (cellHalf 15 40961 0 9) (0x080 + 32 * (15 : CellNo).val + 0x08) 8 = 40961 ∧
    field (cellHalf 15 40961 0 9) (0x080 + 32 * (15 : CellNo).val + 0x10) 4 = 0 := by decide +kernel

/-- The whole of a host half is taken in RUNNING. -/
theorem test_meets_CellsAreTaken_whole :
    let s := { resent with sweep := { flight := some (.slots [12]), remembered := false } }
    s.Settled ∧ s.ctl.engine = .running ∧ s.sweep.flight = some (.slots (12 :: [])) ∧ (1 : BitVec 32) ≠ (s.slot 12).seen ∧
      (s.slot 12).state ≠ .free ∧ (zeros 640).length = 640 :=
  ⟨resent_calm.1, rfl, rfl, by decide +kernel, by decide +kernel, by decide +kernel⟩

theorem test_meets_RequestTableIsRead :
    let s := { running with sweep := { flight := some (.slots []), remembered := false } }
    s.Settled ∧ s.ctl.engine = .running ∧ s.sweep.flight = some (.slots []) ∧ table0.length = 32 ∧ ∀ b ∈ table0, b.length = 96 :=
  ⟨running_settled, rfl, rfl, by decide +kernel, by decide +kernel⟩

theorem test_meets_SweepEnds :
    running.Settled ∧ map0.length = 128 ∧
    (let s := { running with sweep := { flight := some (.requests []), remembered := true }
                             index := { running.index with occupancy := 61440, fillCount := 1 } };
      s.mayWrite = true ∧ s.sweep.flight = some (.requests []) ∧ s.index.state = .ready ∧ s.index.fill = .normal ∧
        s.header.fillDeclare * 2 ^ (s.index.copy.k + 4) / 1024 ≤ s.index.occupancy ∧ s.index.fillCount + 1 = 2 ∧ s.sweep.remembered = true) ∧
    (let s := { running with sweep := { flight := some (.requests []), remembered := false }
                             index := { running.index with occupancy := 57343, fillCount := 1, fill := .declared } };
      s.index.fill = .declared ∧ s.index.occupancy < s.header.fillClear * 2 ^ (s.index.copy.k + 4) / 1024 ∧ s.index.fillCount + 1 = 2 ∧
        s.sweep.remembered = false) ∧
    (let s := { running with index := { running.index with occupancy := 57344, fill := .declared } };
      s.header.fillClear * 2 ^ (s.index.copy.k + 4) / 1024 ≤ s.index.occupancy) ∧
    (let s := { running with index := { running.index with occupancy := 61439, fillCount := 0 } };
      s.index.occupancy < s.header.fillDeclare * 2 ^ (s.index.copy.k + 4) / 1024 ∧ s.index.fillCount + 1 ≠ 2) :=
  ⟨running_settled, by decide +kernel⟩

theorem test_meets_SweepEnds_quiescing :
    let s := { running with ctl := { running.ctl with engine := .quiescing }, sweep := { flight := some (.slots []), remembered := false } }
    s.Settled ∧ s.mayWrite = true ∧ s.ctl.engine = .quiescing ∧ s.sweep.flight = some (.slots []) := ⟨running_settled, rfl, rfl, rfl⟩

theorem test_meets_FormatRequest :
    (∀ k ∈ [11, 12, 24, 25], (asked running 3 (.format k (2 ^ 40 - 1) 41)).AtRequest 3 (.format k (2 ^ 40 - 1) 41) 5 []) ∧
    running.index.state = .ready ∧ (∀ i, (running.slot i).state = .free) ∧ ((withSlot running 1023 open0).slot 1023).state ≠ .free :=
  ⟨fun _ _ => asked_at _ _ _ running_settled rfl, rfl, fun i => by rw [running_slot]; rfl, by decide +kernel⟩

theorem test_meets_SetClassRequest :
    (asked running 3 (.setClass classRequest)).AtRequest 3 (.setClass classRequest) 5 [] ∧
    (let c := classRequest;
      c.cls ≤ 7 ∧ (256 ≤ c.min ∧ c.min ≤ 32768) ∧ c.max ≤ 65536 ∧ c.min ≤ c.normal ∧ c.normal ≤ c.max ∧ c.sstrict ≤ 24 ∧ c.sloose ≤ c.sstrict ∧
        (c.policy = 0 ∨ c.policy = 1) ∧ (1 ≤ c.provisionalLimit ∧ c.provisionalLimit ≤ 512) ∧
        (1 ≤ c.recipeThreshold ∧ c.recipeThreshold ≤ 65536) ∧ c.recipeLevel ≤ 7 ∧ c.watchLevel ≤ 7 ∧ c.stateLevel ≤ 7) ∧
    ((7 : Fin 8).val = classRequest.cls) ∧ ¬({ classRequest with recipeThreshold := 65537 } : ClassRequest).recipeThreshold ≤ 65536 :=
  ⟨asked_at _ _ _ running_settled rfl, by decide, by decide, by decide⟩

theorem test_meets_OpenRequest :
    (asked running 3 (.openStream (1023 : SlotNo).val (0 : Fin 8).val 0 (2 ^ 64 - 4194304) 65536)).AtRequest 3
      (.openStream (1023 : SlotNo).val (0 : Fin 8).val 0 (2 ^ 64 - 4194304) 65536) 5 [] ∧
    (let s := asked running 3 (.openStream (1023 : SlotNo).val (0 : Fin 8).val 0 (2 ^ 64 - 4194304) 65536);
      s.index.state = .ready ∧ (s.slot 1023).state = .free ∧ s.classes.get 0 = some .class0 ∧ (64 ≤ 65536 ∧ 65536 ≤ 65536) ∧
        (2 ^ 64 - 4194304) % 64 = 0 ∧ (2 ^ 64 - 4194304) + 64 * 65536 ≤ 2 ^ 64 ∧ (zeros 640).length = 640) :=
  ⟨asked_at _ _ _ running_settled rfl, by decide +kernel⟩

theorem test_meets_OpenRequest_refused :
    (∀ slot ∈ [1023, 1024], (asked running 3 (.openStream slot 0 0 0 63)).AtRequest 3 (.openStream slot 0 0 0 63) 5 []) ∧
    State.reset.index.state = .unformatted ∧ running.index.state = .ready ∧ (running.slot 1023).state = .free ∧ running.classes.get 7 = none ∧
    ((withSlot running 1023 open0).slot 1023).state ≠ .free := by
  refine ⟨fun _ _ => asked_at _ _ _ running_settled rfl, rfl, rfl, by decide +kernel, by decide +kernel, by decide +kernel⟩

theorem test_meets_CloseRequest_refused :
    (∀ final ∈ [40959, 49151], (asked resent 3 (.close 12 final)).AtRequest 3 (.close 12 final) 5 []) ∧
    (let s := asked resent 3 (.close 12 49151);
      (s.slot 12).idleDue = false ∧ (s.slot 12).state.isOpen = true ∧ (s.slot 12).final = none ∧ 40959 < (s.slot 12).consumed ∧
        ∃ g ∈ (s.slot 12).feed, 49151 < g.offset + g.length) ∧
    (let c := { open0 with final := some 49152 }; c.idleDue = false ∧ c.state.isOpen = true ∧ c.final = some 49152) ∧
    (running.slot 12).idleDue = false ∧ (running.slot 12).state.isOpen = false ∧ 1024 ≤ 1024 :=
  ⟨fun _ _ => asked_at _ _ _ resent_calm.1 rfl, by decide +kernel, by decide +kernel, by decide +kernel⟩

theorem test_meets_CloseRequest :
    (asked resent 3 (.close (12 : SlotNo).val 49152)).AtRequest 3 (.close (12 : SlotNo).val 49152) 5 [] ∧
    (let s := asked resent 3 (.close 12 49152);
      (s.slot 12).idleDue = false ∧ (s.slot 12).state.isOpen = true ∧ (s.slot 12).final = none ∧ (s.slot 12).consumed ≤ 49152 ∧
        (∀ g ∈ (s.slot 12).feed, g.offset + g.length ≤ 49152) ∧ (s.slot 12).chunker.finished = false ∧ (s.slot 12).consumed < 49152) ∧
    (let s := asked (withSlot running 12 open0) 3 (.close 12 100);
      (s.slot 12).consumed = 100 ∧ (s.slot 12).chunker.len = 0 ∧ (s.slot 12).pending = []) ∧
    (let s := asked (withSlot running 12 (pending1 open0)) 3 (.close 12 100);
      (s.slot 12).consumed = 100 ∧ (s.slot 12).chunker.len = 0 ∧ (s.slot 12).pending ≠ []) ∧
    (let s := asked (withSlot running 12 { open0 with chunker := { Chunker.fresh with len := 1 } }) 3 (.close 12 100);
      (s.slot 12).consumed = 100 ∧ 0 < (s.slot 12).chunker.len ∧ (s.slot 12).pending.length < 8) :=
  ⟨asked_at _ _ _ resent_calm.1 rfl, by decide +kernel, by decide +kernel, by decide +kernel, by decide +kernel⟩

theorem test_meets_AbortRequest :
    (∀ slot ∈ [12, 1023, 1024], (asked resent 3 (.abort slot)).AtRequest 3 (.abort slot) 5 []) ∧
    ((resent.slot 12).idleDue = false ∧ (resent.slot 12).state.isLive = true) ∧ (resent.slot 1023).idleDue = false ∧
    (resent.slot 1023).state.isLive = false :=
  ⟨fun _ _ => asked_at _ _ _ resent_calm.1 rfl, by decide +kernel, by decide +kernel, by decide +kernel⟩

theorem test_meets_ReleaseRequest :
    (∀ slot ∈ [12, 1023, 1024], (asked resent 3 (.release slot)).AtRequest 3 (.release slot) 5 []) ∧
    ((resent.slot 12).idleDue = false ∧ (resent.slot 12).state.isLive = true ∧ (resent.slot 1023).state = .free) ∧
    (∀ st ∈ [SlotState.aborting, .aborted, .closed], ({ open0 with state := st } : Slot).idleDue = false) ∧
    ({ resent with notice := { resent.notice with ready := resent.notice.ready.set 12 true } } : State).notice.ready.get 12 = true :=
  ⟨fun _ _ => asked_at _ _ _ resent_calm.1 rfl, by decide +kernel, by decide +kernel, by decide +kernel⟩

theorem test_meets_MaintenanceRequests :
    (∀ number ∈ [999, 1000], ∀ length ∈ [0, 1, 65536, 65537],
      (asked running 3 (.seed digest1 number length 7)).AtRequest 3 (.seed digest1 number length 7) 5 []) ∧
    (asked running 3 (.retire digest1 5 7)).AtRequest 3 (.retire digest1 5 7) 5 [] ∧ running.index.state = .ready ∧
    999 < running.index.counter ∧ running.index.counter ≤ 1000 :=
  ⟨fun _ _ _ _ => asked_at _ _ _ running_settled rfl, asked_at _ _ _ running_settled rfl, rfl, by decide, by decide⟩

theorem test_meets_MaintenanceRequests_epoch :
    (∀ value ∈ [40#32, 41#32], (asked running 3 (.setEpoch value)).AtRequest 3 (.setEpoch value) 5 []) ∧
    running.index.state = .ready ∧ 40#32 < running.index.copy.epoch ∧ running.index.copy.epoch ≤ 41#32 ∧
    (let s := { running with index := { running.index with writes := [{ desc := desc1 12 9192, use := .reserve }] } };
      s.index.writes = [] ++ { desc := desc1 12 9192, use := .reserve } :: [] ∧
        ({ desc := desc1 12 9192, use := .reserve } : DescWrite).use = .reserve) :=
  ⟨fun _ _ => asked_at _ _ _ running_settled rfl, rfl, by decide, by decide, rfl, rfl⟩

theorem test_meets_SnapshotRequests :
    (∀ target ∈ [12, 1023, 1024, 0xFFFE, 0xFFFF], (asked resent 3 (.snapshot target)).AtRequest 3 (.snapshot target) 5 []) ∧
    (resent.slot 12).state ≠ .free ∧ (resent.slot 1023).state = .free ∧ (asked resent 3 (.unknown 11)).AtRequest 3 (.unknown 11) 5 [] :=
  ⟨fun _ _ => asked_at _ _ _ resent_calm.1 rfl, by decide +kernel, by decide +kernel, asked_at _ _ _ resent_calm.1 rfl⟩

theorem test_meets_BoundaryTest :
    let c := ChunkClass.class0
    2047 < c.min ∧ (c.min ≤ 32768 ∧ 32768 = c.max) ∧ (c.min ≤ 2048 ∧ 2048 ≠ c.max ∧ 2048 < c.normal) ∧ (8191 < c.normal ∧ c.min ≤ 8191) ∧
    (c.min ≤ 8192 ∧ 8192 ≠ c.max ∧ c.normal ≤ 8192) ∧ c.normal ≤ 32767 ∧ 32767 ≠ c.max := by decide

theorem test_meets_BoundaryMakesAPendingChunk :
    (let s := withSlot running 12 { open0 with consumed := 32767, chunker := { Chunker.fresh with len := 32767 } };
      let h := (s.slot 12).chunker.take 9
      boundary (s.slot 12).cls h.len h.hash = true) ∧
    (let s := withSlot running 12 { open0 with final := some 101 };
      boundary (s.slot 12).cls ((s.slot 12).chunker.take 9).len ((s.slot 12).chunker.take 9).hash = false ∧
        (s.slot 12).final = some ((s.slot 12).consumed + 1) ∧ (s.slot 12).pending.length < 8) := by decide +kernel

/-- A slot whose only chunk is RESOLVED, with its area full. -/
def stalled1 : Slot := { pending1 open0 with written := 64, pending := (pending1 open0).pending.map fun p => { p with cond := .resolved .new 5 .none } }

theorem test_meets_OpenStateIsDecided :
    (∃ p ps v n k, stalled1.pending = p :: ps ∧ p.cond = .resolved v n k ∧ stalled1.written - stalled1.taken = stalled1.areaSize) ∧
    (∃ p ps, (pending1 open0).pending = p :: ps ∧ p.cond = .looking) ∧ open0.pending = [] ∧
    (({ stalled1 with written := 63 } : Slot).written - stalled1.taken ≠ stalled1.areaSize) ∧
    ((waiting1 .live 1).slot 34).pending = { ordinal := 0, offset := 100, length := 9000, digest := digest1, check := 77, cond := .held 0 } :: [] :=
  ⟨⟨_, _, _, _, _, rfl, rfl, by decide⟩, ⟨_, _, rfl, rfl⟩, rfl, by decide, by decide +kernel⟩

theorem test_meets_LaneTakesASlot :
    resent.Settled ∧
    (let s := { resent with runList := [12] };
      s.mayWrite = true ∧ s.lanes.get 31 = { turn := none, read := none } ∧ s.runList = 12 :: [] ∧ (s.slot 12).eligible = true ∧
        (s.slot 12).feed = { cell := 7, addr := 0x500000, offset := 36864, length := 8192, tag := 1, count := 0 } ::
          [{ cell := 6, addr := 0x400000, offset := 45056, length := 4096, tag := 56, count := 0 }] ∧
        36864 ≤ (s.slot 12).consumed ∧ (s.slot 12).final ≠ some (s.slot 12).consumed) ∧
    ((running.slot 12).eligible = false) ∧
    (let c := { open0 with final := some 100, chunker := { Chunker.fresh with len := 1 } };
      c.eligible = true ∧ c.final = some c.consumed ∧ 0 < c.chunker.len) :=
  ⟨resent_calm.1, by decide +kernel⟩

theorem test_meets_ReadFeedsTheTurn :
    reading.Settled ∧
    (reading.lanes.get 4 = { turn := some { slot := 12, count := 0 }, read := some { cell := 7, addr := 0x501000, length := 4096 } } ∧
      (zeros 4096).length = 4096 ∧ (reading.slot 12).state.isOpen = true ∧ (reading.slot 12).chunker.finished = false ∧
      (reading.slot 12).pending.length < 8 ∧ 0 < 262144) ∧
    (let s := { running with lanes := running.lanes.set 31 { turn := none, read := some { cell := 7, addr := 0, length := 1 } } };
      s.lanes.get 31 = { turn := none, read := some { cell := 7, addr := 0, length := 1 } } ∧ (zeros 1).length = 1) ∧
    ({ running with port := { posted := [], lostReads := 1, recent := 0 } } : State).port.lostReads ≠ 0 :=
  ⟨resent_calm.1, by decide +kernel⟩

/-- The lists of a slot with its two segments queued are lawful, and a byte may end a segment that none was taken from. -/
theorem test_meets_ReadFeedsTheTurn_byte :
    let g : Segment := { cell := 7, addr := 0x500000, offset := 36864, length := 4097, tag := 1, count := 0 }
    let h : Segment := { cell := 6, addr := 0x400000, offset := 36865, length := 4096, tag := 56, count := 0 }
    let c := { open0 with
      consumed := 40960, feed := [g, h]
      cells := (open0.cells.set 7 { CellRecord.fresh with queued := some 1 }).set 6 { CellRecord.fresh with queued := some 56 } }
    c.ListsOk ∧ [{ g with count := 1 }, h] = (c.feed.map (fun x => if x.cell = 7 then { x with count := x.count + 1 } else x)).filter
      (fun x => decide (x.offset + x.length ≤ c.consumed + 1)) := by
  refine ⟨⟨by decide, by decide, ?_, by decide, by decide, by decide⟩, by decide⟩
  intro n tag
  have key : ∀ n : CellNo, ((open0.cells.set 7 { CellRecord.fresh with queued := some 1 }).set 6 { CellRecord.fresh with queued := some 56 }).get n =
      if n = 6 then { CellRecord.fresh with queued := some 56 } else if n = 7 then { CellRecord.fresh with queued := some 1 } else .fresh := by decide
  simp only [key]
  by_cases h6 : n = 6
  · subst h6; simp
  · by_cases h7 : n = 7
    · subst h7; simp
    · simp [h6, h7, Ne.symm h6, Ne.symm h7, CellRecord.fresh]

theorem test_meets_OneByteIsTaken_window :
    (let h := { Chunker.fresh with window := zeros 32 }; h.window.length = 32 ∧ h.window = 0 :: zeros 31) ∧
    (let h := { Chunker.fresh with window := zeros 31 }; h.window.length ≠ 32) := by decide +kernel

theorem test_meets_OneByteIsTaken :
    let r : SegRead := { cell := 7, addr := 0x501000, length := 1 }
    let s := ({ resent with lanes := resent.lanes.set 4 { turn := some { slot := 12, count := 262142 }, read := some r } } : State).editSlot 12 fun c =>
      { c with chunker := { Chunker.fresh with len := 2046 } }
    let c := s.slot 12
    let h := c.chunker.take 9
    (s.lanes.get 4 = { turn := some { slot := 12, count := 262142 }, read := some r } ∧ r.length = 1 ∧ c.state.isOpen = true ∧
      c.chunker.finished = false ∧ c.pending.length < 8 ∧ 262142 + 1 < 262144 ∧
      c.feed = { cell := 7, addr := 0x500000, offset := 36864, length := 8192, tag := 1, count := 0 } ::
        [{ cell := 6, addr := 0x400000, offset := 45056, length := 4096, tag := 56, count := 0 }] ∧
      36864 ≤ c.consumed ∧ (∀ x ∈ c.feed, c.consumed + 1 < x.offset + x.length) ∧ boundary c.cls h.len h.hash = false ∧
      c.final ≠ some (c.consumed + 1)) ∧ s.Settled :=
  ⟨by decide +kernel, settled_withSlot (s := { resent with lanes := _ }) resent_calm.1 12 _ rfl⟩

theorem test_meets_FailedReadFaults :
    (reading.Settled ∧ running.Settled) ∧
    (∃ n r, ReadId.lane 4 = .lane n ∧ (reading.lanes.get n).read = some r) ∧ reading.ctl.engine ≠ .faulted ∧
    (∃ left, ({ running with sweep := { flight := some (.slots []), remembered := false } } : State).sweep.flight = some (.slots left)) ∧
    (asked running 3 (.openStream 12 0 0 0 64)).openReading = true ∧
    ({ running with port := { posted := [], lostReads := 1, recent := 0 } } : State).port.lostReads ≠ 0 :=
  ⟨⟨resent_calm.1, running_settled⟩, ⟨4, { cell := 7, addr := 0x501000, length := 4096 }, rfl, by decide +kernel⟩, by decide +kernel, ⟨_, rfl⟩, by decide +kernel, by decide⟩

/-- An operation of every source waits, and the pointer stands at the last. -/
def allWaiting : State :=
  { owned with
    lookups := [lookup1 34]
    index := { owned.index with
      firming := [0], withdrawal := [0], pointer := .scan
      requests := [.seed { cell := 31, digest := digest1, number := 1, length := 1, check := 1 }] } }

/-- The index of sequence 12.1 is calm, with slot 34 waiting or not. -/
theorem owned_calm : Calm owned := calm_withSlot (s := withSlot running 21 _) (calm_withSlot running_calm 21 _ rfl rfl) 34 _ rfl rfl

theorem waiting1_calm (d : Disposition) (limit : Nat) : Calm (waiting1 d limit) := calm_withSlot (s := { owned with pool := _ }) owned_calm 34 _ rfl rfl

theorem withSlot_calm (i : SlotNo) (c : Slot) (hc : c.idleDue = false) (hm : c.marks = c.marksDue) : Calm (withSlot running i c) :=
  calm_withSlot running_calm i c hc hm

theorem test_meets_ArbiterAccepts :
    allWaiting.Settled ∧
    allWaiting.index.inflight.length < 64 ∧ allWaiting.mayWrite = true ∧ allWaiting.record 0 ≠ none ∧
    allWaiting.lookups ≠ [] ∧ allWaiting.index.firming ≠ [] ∧ allWaiting.index.withdrawal ≠ [] ∧ allWaiting.index.requests ≠ [] ∧
    ¬(allWaiting.index.state = .scanning ∧ allWaiting.index.scanNext < 2 ^ allWaiting.index.copy.k) ∧
    [Source.lanes, .firming, .withdrawal, .requests, .scan] = [.lanes, .firming, .withdrawal, .requests] ++ allWaiting.index.pointer :: [] ∧
    allWaiting.index.pointer :: [] ++ [.lanes, .firming, .withdrawal, .requests] = [Source.scan] ++ .lanes :: [.firming, .withdrawal, .requests] := 
  ⟨owned_calm.1, by decide +kernel⟩

theorem test_meets_ArbiterAccepts_scan :
    let s := { State.reset with index := { State.reset.index with state := .scanning, scanNext := 4095, copy := desc1 12 0, pointer := .scan } }
    s.index.inflight.length < 64 ∧ s.mayWrite = false ∧ s.index.state = .scanning ∧ s.index.scanNext < 2 ^ s.index.copy.k ∧ s.Settled :=
  ⟨by decide +kernel, by decide +kernel, by decide +kernel, by decide +kernel, running_settled⟩

/-- Slot 34 waits twice on the record of slot 21's entry, and slot 40, ABORTING, once. -/
def contested (d : Disposition) (limit : Nat) : State :=
  let c := { pending1 open0 with
    state := .held, cls := { ChunkClass.class0 with provisionalLimit := limit }, inflight := 2
    pending := (List.range 2).map fun n => { ordinal := n, offset := 100, length := 9000, digest := digest1, check := 77, cond := .held 0 } }
  let s := withSlot (withSlot owned 34 c) 40 { open0 with state := .aborting, reason := some .gap, inflight := 1 }
  { s with pool := [(0, { bucket := 0xA35, way := 0, owner := 21, ordinal := 0, disp := d
                          waiters := [{ slot := 34, ordinal := 0 }, { slot := 40, ordinal := 0 }, { slot := 34, ordinal := 1 }] })] }

theorem contested_calm (d : Disposition) (limit : Nat) : Calm (contested d limit) :=
  calm_withSlot (s := withSlot owned 34 _) (calm_withSlot owned_calm 34 _ rfl rfl) 40 _ rfl rfl

/-- Its waiters, those of open streams, and the in-flight counts that cover the others. -/
theorem contested_waiters (d : Disposition) :
    let s := contested d 256
    let p : PoolRecord := { bucket := 0xA35, way := 0, owner := 21, ordinal := 0, disp := d
                            waiters := [{ slot := 34, ordinal := 0 }, { slot := 40, ordinal := 0 }, { slot := 34, ordinal := 1 }] }
    s.record 0 = some p ∧ p.waiters.Nodup ∧
    p.waiters.filter (fun v => (s.slot v.slot).state != .aborting) = { slot := 34, ordinal := 0 } :: [{ slot := 34, ordinal := 1 }] ∧
    (s.slot 34).state.isOpen = true ∧
    (∀ v ∈ p.waiters, (s.slot v.slot).state = .aborting → p.waiters.countP (fun x => x.slot == v.slot) ≤ (s.slot v.slot).inflight) ∧
    s.index.counter + 2 ≤ s.index.copy.reserved ∧ (s.entry 0xA35 0).map (·.state) = some (.provisional 21 0) := by
  cases d <;> decide +kernel

theorem test_meets_WrongWaysAreDealtWith :
    (let s := flying firm1 (.scan 0xA35);
      readyOp (.scan 0xA35) s.index.inflight = some { kind := .scan 0xA35, bucket := 0xA35, halt := none } ∧
        ∀ e, s.entry 0xA35 15 = some e → e.state = .firm ∨ s.index.state = .scanning) ∧
    (let s := flying owned (.withdraw 0);
      readyOp (.withdraw 0) s.index.inflight = some { kind := .withdraw 0, bucket := 0xA35, halt := none } ∧ s.index.state ≠ .scanning ∧
        (s.entry 0xA35 0).map (·.state) = some (.provisional 21 0) ∧
        s.recordAt 0xA35 0 = some (0, { bucket := 0xA35, way := 0, owner := 21, ordinal := 0, disp := .live, waiters := [] })) ∧
    (tableWf owned.mem.ways ∧ tableWf owned.pool ∧ ∀ e ∈ owned.pool, e.1 < 16384) ∧ owned.Settled ∧ (contested .live 256).Settled ∧
    ((contested .firming 256).recordAt 0xA35 0).map (·.1) = some 0 := by
  refine ⟨⟨by decide +kernel, fun e h => .inl ?_⟩, by decide +kernel, by decide +kernel, owned_calm.1, (contested_calm _ _).1, by decide +kernel⟩
  have : (flying firm1 (.scan 0xA35)).entry 0xA35 15 = none := by decide +kernel
  simp [this] at h

theorem test_meets_LookupMatches :
    Calm owned ∧ Calm (withSlot owned 21 (pending1 open0)) ∧
    let op : Op := { kind := .lookup (lookup1 34), bucket := 0xA35, halt := none }
    let e : Entry := { state := .provisional 21 0, digest := digest1, number := 12000, length := 9000, check := 77, lastHit := 40 }
    let p : PoolRecord := { bucket := 0xA35, way := 0, owner := 21, ordinal := 0, disp := .live, waiters := [] }
    (let s := flying owned (.lookup (lookup1 34));
      readyOp (.lookup 34 0) s.index.inflight = some op ∧ s.findDigest 0xA35 digest1 = some (0, e) ∧ (s.slot 34).state.isOpen = true ∧
        s.recordAt 0xA35 0 = some (0, p) ∧ s.record 0 = some p ∧ (21 : SlotNo) ≠ 34) ∧
    (let s := flying firm1 (.lookup (lookup1 34));
      s.findDigest 0xA35 digest1 = some (0, { e with state := .firm }) ∧ s.index.counter < s.index.copy.reserved) ∧
    (let s := flying (withSlot owned 21 (pending1 open0)) (.lookup (lookup1 21));
      s.findDigest 0xA35 digest1 = some (0, e) ∧ (s.slot 21).state.isOpen = true ∧ p.disp ≠ .withdrawing) ∧
    (lookup1 34).length ≠ ({ e with length := 8999 } : Entry).length := 
  ⟨owned_calm, calm_withSlot owned_calm 21 _ rfl rfl, by decide +kernel⟩

/-- An ABORTING stream's lookup, and its count of one or more. -/
def dying (inflight : Nat) : Slot := { open0 with state := .aborting, reason := some .requested, inflight := inflight }

theorem test_meets_LookupMatches_aborting :
    Calm (withSlot owned 34 (dying 1)) ∧
    (let s := flying (withSlot owned 34 (dying 1)) (.lookup (lookup1 34));
      (readyOp (.lookup 34 0) s.index.inflight).isSome = true ∧ (s.findDigest 0xA35 digest1).map (·.1) = some 0 ∧ (s.slot 34).state = .aborting ∧
        (s.slot 34).inflight ≤ 1 ∧ s.index.counter < s.index.copy.reserved) :=
  ⟨calm_withSlot owned_calm 34 _ rfl rfl, by decide +kernel⟩

/-- A bucket with every way taken by other digests. -/
def fullBucket : State :=
  { running with mem := { running.mem with ways := (List.range 16).map fun w => (16 * 0xA35 + w,
      { state := .firm, digest := Vector.replicate 32 (BitVec.ofNat 8 w), number := w, length := 1, check := 1, lastHit := 0 }) } }

theorem test_meets_LookupMisses :
    (let s := flying (withSlot running 21 (pending1 { open0 with cls := { ChunkClass.class0 with provisionalLimit := 1 } })) (.lookup (lookup1 21));
      (readyOp (.lookup 21 0) s.index.inflight).isSome = true ∧ s.findDigest 0xA35 digest1 = none ∧ (s.slot 21).state.isOpen = true ∧
        s.index.counter < s.index.copy.reserved ∧ s.entry 0xA35 0 = none ∧ (∀ v : WayNo, v < 0 → s.entry 0xA35 v ≠ none) ∧
        (s.slot 21).cls.policy = .always ∧ (s.slot 21).provCount < (s.slot 21).cls.provisionalLimit ∧ s.pool.length < 16384 ∧
        tableWf s.mem.ways ∧ tableWf s.pool) ∧
    (let s := flying (withSlot running 21 (pending1 { open0 with provCount := 256 })) (.lookup (lookup1 21));
      (s.slot 21).cls.provisionalLimit ≤ (s.slot 21).provCount) ∧
    (let s := { running with index := { running.index with fill := .declared } };
      s.index.fill = .declared ∧ ({ ChunkClass.class0 with policy := .yield } : ChunkClass).policy = .yield) ∧
    (let s := flying (withSlot fullBucket 21 (pending1 open0)) (.lookup (lookup1 21));
      s.findDigest 0xA35 digest1 = none ∧ (∀ w, s.entry 0xA35 w ≠ none) ∧ tableWf s.mem.ways ∧ s.index.counter < s.index.copy.reserved) := by
  decide +kernel

theorem test_meets_LookupMisses_aborting :
    Calm (withSlot running 21 (dying 2)) ∧ Calm (withSlot running 21 (pending1 { open0 with cls := { ChunkClass.class0 with provisionalLimit := 1 } })) ∧
    (let s := flying (withSlot running 21 (dying 2)) (.lookup (lookup1 21));
      (readyOp (.lookup 21 0) s.index.inflight).isSome = true ∧ s.findDigest 0xA35 digest1 = none ∧ (s.slot 21).state = .aborting ∧
        s.entry 0xA35 0 = none ∧ (s.slot 21).provCount < (s.slot 21).cls.provisionalLimit ∧ s.pool.length < 16384) :=
  ⟨withSlot_calm _ _ rfl rfl, withSlot_calm _ _ rfl rfl, by decide +kernel⟩

theorem test_meets_AllocationsMeetTheReserve :
    (let s := flying { fullBucket with index := { fullBucket.index with counter := 5096 } } (.lookup (lookup1 21));
      (readyOp (.lookup 21 0) s.index.inflight).isSome = true ∧ s.findDigest 0xA35 digest1 = none ∧ (∀ w, s.entry 0xA35 w ≠ none) ∧
        s.index.counter = s.index.copy.reserved ∧ s.index.counter < 2 ^ 40) ∧
    (let s := flying (withSlot { fullBucket with index := { fullBucket.index with counter := 2 ^ 40, copy := desc1 12 (2 ^ 40) } } 21 (pending1 open0))
        (.lookup (lookup1 21));
      s.index.counter = s.index.copy.reserved ∧ s.index.counter = 2 ^ 40 ∧ (s.slot 21).state.isOpen = true) := by decide +kernel

/-- The other uses of a number, an ABORTING stream's lookup with the numbers exhausted, and the calm of these states. -/
theorem test_meets_AllocationsMeetTheReserve_uses :
    (let s := flying { owned with index := { owned.index with counter := 12288 } } (.lookup { lookup1 34 with check := 78 });
      s.index.inflight = [] ++ { kind := .lookup { lookup1 34 with check := 78 }, bucket := 0xA35, halt := none } :: [] ∧
        s.index.counter = s.index.copy.reserved ∧ (s.findDigest 0xA35 digest1).map (fun x => (x.1, x.2.check)) = some (0, 77)) ∧
    (let s := flying (withSlot { running with index := { running.index with counter := 5096, fill := .declared } } 21
        (pending1 { open0 with cls := { ChunkClass.class0 with policy := .yield } })) (.lookup (lookup1 21));
      s.findDigest 0xA35 digest1 = none ∧ s.entry 0xA35 0 = none ∧ s.index.fill = .declared ∧ (s.slot 21).cls.policy = .yield ∧
        s.index.counter = s.index.copy.reserved ∧ (running.slot 21).cls.policy = .always) ∧
    (let s := withSlot { running with index := { running.index with counter := 2 ^ 40, copy := desc1 12 (2 ^ 40) } } 21 (dying 1);
      s.index.counter = s.index.copy.reserved ∧ (s.slot 21).state = .aborting) ∧
    Calm fullBucket ∧ Calm (withSlot fullBucket 21 (pending1 open0)) ∧
    Calm (withSlot { running with index := { running.index with counter := 2 ^ 40, copy := desc1 12 (2 ^ 40) } } 21 (dying 1)) :=
  ⟨by decide +kernel, by decide +kernel, by decide +kernel, running_calm, calm_withSlot (s := fullBucket) running_calm _ _ rfl rfl,
    calm_withSlot (s := { running with index := _ }) running_calm _ _ rfl rfl⟩

/-- A walk and a loss at their first waiter with the reserve used up, and a walk with the numbers exhausted. -/
theorem test_meets_AllocationsMeetTheReserve_waiters :
    (let s := flying { contested .withdrawing 256 with index := { (contested .withdrawing 256).index with counter := 12288 } } (.withdraw 0);
      (readyOp (.withdraw 0) s.index.inflight).isSome = true ∧ s.index.counter = s.index.copy.reserved ∧ s.index.counter < 2 ^ 40 ∧ Calm s) ∧
    (let s := flying { contested .live 256 with index := { (contested .live 256).index with counter := 12288 } } (.scan 0xA35);
      (readyOp (.scan 0xA35) s.index.inflight).isSome = true ∧ s.index.state ≠ .scanning ∧ s.index.counter = s.index.copy.reserved ∧
        (s.recordAt 0xA35 0).map (fun x => (x.1, x.2.disp)) = some (0, .live) ∧ Calm s) ∧
    (let s := flying { waiting1 .withdrawing 256 with index := { owned.index with counter := 2 ^ 40, copy := desc1 12 (2 ^ 40) } } (.withdraw 0);
      s.index.counter = s.index.copy.reserved ∧ s.index.counter = 2 ^ 40 ∧ (s.record 0).map (·.waiters) = some [{ slot := 34, ordinal := 0 }] ∧
        (s.slot 34).state.isOpen = true ∧ Calm s) :=
  ⟨⟨by decide +kernel, by decide +kernel, by decide +kernel, contested_calm .withdrawing 256⟩,
    ⟨by decide +kernel, by decide +kernel, by decide +kernel, by decide +kernel, contested_calm .live 256⟩,
    by decide +kernel, by decide +kernel, by decide +kernel, by decide +kernel, waiting1_calm .withdrawing 256⟩

theorem test_meets_FirmCompletes :
    Calm (waiting1 .firming 256) ∧ Calm (waiting1 .lost 256) ∧
    let p : PoolRecord := { bucket := 0xA35, way := 0, owner := 21, ordinal := 0, disp := .firming, waiters := [{ slot := 34, ordinal := 0 }] }
    (let s := flying (waiting1 .firming 256) (.firm 0);
      (readyOp (.firm 0) s.index.inflight).isSome = true ∧ s.record 0 = some p ∧ p.disp ≠ .lost ∧ (s.entry 0xA35 0).isSome = true ∧
        tableWf s.mem.ways ∧ tableWf s.pool ∧ (∀ e ∈ s.pool, e.1 < 16384) ∧ (s.slot 34).state.isOpen = true) ∧
    (let s := flying (waiting1 .lost 256) (.firm 0);
      (readyOp (.firm 0) s.index.inflight).isSome = true ∧ s.record 0 = some { p with disp := .lost }) :=
  ⟨waiting1_calm _ _, waiting1_calm _ _, by decide +kernel⟩

theorem test_meets_WithdrawWithoutOwner :
    let p : PoolRecord := { bucket := 0xA35, way := 0, owner := 21, ordinal := 0, disp := .withdrawing, waiters := [] }
    let s := flying { owned with pool := [(0, p)] } (.withdraw 0)
    let u := flying { owned with pool := [(0, { p with disp := .lost })] } (.withdraw 0)
    ((readyOp (.withdraw 0) s.index.inflight).isSome = true ∧ s.record 0 = some p ∧ p.disp ≠ .lost ∧ (s.entry 0xA35 0).isSome = true ∧ p.waiters = []) ∧
    (readyOp (.withdraw 0) u.index.inflight).isSome = true ∧ u.record 0 = some { p with disp := .lost } := by decide +kernel

/-- Passed over and discarded waiters: slot 34 at its Provisional Limit, slot 40 ABORTING. -/
theorem test_meets_WithdrawWithoutOwner_waiters :
    let s := flying (contested .withdrawing 0) (.withdraw 0)
    Calm owned ∧ Calm s ∧ (readyOp (.withdraw 0) s.index.inflight).isSome = true ∧ (s.slot 34).state.isOpen = true ∧
      (s.slot 34).cls.provisionalLimit ≤ (s.slot 34).provCount ∧ (s.record 0).map (·.disp) = some .withdrawing ∧
      s.index.counter + 2 ≤ s.index.copy.reserved :=
  ⟨owned_calm, contested_calm .withdrawing 0, by decide +kernel, by decide +kernel, by decide +kernel, by decide +kernel, by decide +kernel⟩

theorem test_meets_WithdrawPassesTheEntryOn :
    let p : PoolRecord := { bucket := 0xA35, way := 0, owner := 21, ordinal := 0, disp := .withdrawing, waiters := [{ slot := 34, ordinal := 0 }] }
    let s := flying (waiting1 .withdrawing 1) (.withdraw 0)
    (readyOp (.withdraw 0) s.index.inflight).isSome = true ∧ s.record 0 = some p ∧ p.disp ≠ .lost ∧ (s.entry 0xA35 0).isSome = true ∧
      (s.slot 34).state.isOpen = true ∧ (s.slot 34).provCount < (s.slot 34).cls.provisionalLimit ∧ s.index.counter < s.index.copy.reserved := by
  decide +kernel

/-- The first waiter of slot 34 takes over, its second is resolved with it, and slot 40's is discarded; slot 34's limit is its count plus one. -/
theorem test_meets_WithdrawPassesTheEntryOn_waiters :
    let s := flying (contested .withdrawing 1) (.withdraw 0)
    Calm (waiting1 .withdrawing 1) ∧ Calm s ∧ (readyOp (.withdraw 0) s.index.inflight).isSome = true ∧ (s.slot 34).state.isOpen = true ∧
      (s.slot 34).provCount + 1 = (s.slot 34).cls.provisionalLimit ∧ s.index.counter < s.index.copy.reserved ∧
      [] = [({ slot := 34, ordinal := 1 } : Waiter)].filter (fun v => v.slot != 34) :=
  ⟨waiting1_calm _ _, contested_calm .withdrawing 1, by decide +kernel, by decide +kernel, by decide +kernel, by decide +kernel, by decide⟩

theorem test_meets_WaiterIsRemoved :
    let w : Waiter := { slot := 34, ordinal := 0 }
    let s := ({ waiting1 .live 256 with removals := [{ waiter := w, record := 0 }] } : State).editSlot 34 fun c => { c with state := .aborting, pending := [] }
    (s.removals.find? (fun m => m.waiter == w) = some { waiter := w, record := 0 } ∧ (s.record 0).map (·.waiters) = some [w] ∧
      (s.slot 34).state = .aborting ∧ (s.slot 34).inflight ≤ 1) ∧
    ({ s with pool := [] } : State).record 0 = none ∧ running.removals.find? (fun m => m.waiter == w) = none ∧ running.Settled :=
  ⟨by decide +kernel, by decide +kernel, by decide +kernel, running_settled⟩

theorem test_meets_WaiterIsRemoved_settled :
    (({ waiting1 .live 256 with removals := [{ waiter := { slot := 34, ordinal := 0 }, record := 0 }] } : State).editSlot 34 fun c =>
      { c with state := .aborting, pending := [] }).Settled :=
  settled_withSlot (s := { waiting1 .live 256 with removals := _ }) (waiting1_calm _ _).1 34 _ rfl

theorem test_meets_SeedCompletes :
    Calm owned ∧ Calm running ∧
    let o : SeedOp := { cell := 2, digest := digest1, number := 12000, length := 9000, check := 77 }
    (let s := maintained firm1 (.seed o);
      (readyOp (.seed 2) s.index.inflight).isSome = true ∧ s.mayWrite = true ∧ (s.requests.get 2).inflight = some 5 ∧
        (s.findDigest 0xA35 digest1).map (fun x => (x.1, x.2.state, x.2.number, x.2.length, x.2.check)) = some (0, .firm, 12000, 9000, 77)) ∧
    (let s := maintained owned (.seed o); (s.findDigest 0xA35 digest1).map (·.2.state) = some (.provisional 21 0)) ∧
    (let s := maintained fullBucket (.seed o); s.findDigest 0xA35 digest1 = none ∧ ∀ w, s.entry 0xA35 w ≠ none) ∧
    (let s := maintained running (.seed o); s.findDigest 0xA35 digest1 = none ∧ s.entry 0xA35 0 = none) :=
  ⟨owned_calm, running_calm, by decide +kernel⟩

theorem test_meets_RetireCompletes :
    Calm owned ∧ Calm running ∧
    let o : RetireOp := { cell := 2, digest := digest1, number := 12000, fence := 40 }
    (let s := maintained firm1 (.retire o);
      (readyOp (.retire 2) s.index.inflight).isSome = true ∧ s.mayWrite = true ∧ (s.requests.get 2).inflight = some 5 ∧
        (s.findDigest 0xA35 digest1).map (fun x => (x.1, x.2.state, x.2.number, x.2.lastHit)) = some (0, .firm, 12000, 40)) ∧
    ((40 : BitVec 32) ≤ 40 ∧ (40 : BitVec 32) < 41) ∧
    (let s := maintained owned (.retire o); (s.findDigest 0xA35 digest1).map (·.2.state) = some (.provisional 21 0)) ∧
    (maintained running (.retire o)).findDigest 0xA35 digest1 = none :=
  ⟨owned_calm, running_calm, by decide +kernel⟩

theorem test_meets_ScanCompletes :
    let s := flying { owned with index := { owned.index with state := .scanning, scanPosition := 4095 } } (.scan 0xA35)
    (readyOp (.scan 0xA35) s.index.inflight).isSome = true ∧ tableWf s.mem.ways ∧ tableWf s.pool ∧ (∀ e ∈ s.pool, e.1 < 16384) ∧
      s.index.scanPosition + 1 = 2 ^ s.index.copy.k ∧ Calm s :=
  ⟨by decide +kernel, by decide +kernel, by decide +kernel, by decide +kernel, by decide +kernel, owned_calm⟩

/-- A descriptor write outstanding. -/
def writing (use : WriteFor) (s : State) : State := { s with index := { s.index with writes := [{ desc := desc1 12 9192, use := use }] } }

theorem test_meets_DescriptorWriteCompletes :
    (∀ use ∈ [WriteFor.formatStart, .reserve, .epoch 2 42, .formatDone],
      (writing use running).index.writeFailed = false ∧ (writing use running).index.writes = { desc := desc1 12 9192, use := use } :: []) ∧
    running.index.waiting = [] ∧
    (let op : Op := { kind := .lookup (lookup1 21), bucket := 0xA35, halt := some (.number .bucketFull) };
      let s := writing .reserve (withSlot { running with index := { running.index with inflight := [op], waiting := [.lookup 21 0], counter := 9191 } } 21
        (pending1 open0));
      s.index.waiting = [.lookup 21 0] ∧ s.index.inflight.find? (fun o => o.kind.key == .lookup 21 0) = some op ∧ s.index.counter < 9192 ∧
        (s.slot 21).state.isOpen = true) ∧
    (let s := maintained running (.scan 0); s.mayWrite = true ∧ (s.requests.get 2).inflight = some 5) ∧
    (let j : FormatJob := { cell := 2, k := 12, counterStart := 0, epochStart := 0, cleared := true };
      ({ running with index := { running.index with format := some j } } : State).index.format = some j) := by
  refine ⟨?_, rfl, by decide +kernel, by decide +kernel, rfl⟩
  intro use _
  exact ⟨rfl, rfl⟩

/-- A halted walk whose waiter's stream is open, or ABORTING. -/
theorem test_meets_DescriptorWriteCompletes_halted :
    (let op : Op := { kind := .withdraw 0, bucket := 0xA35, halt := some (.walk 0 { slot := 34, ordinal := 0 }) };
      let s := writing .reserve { waiting1 .withdrawing 1 with index := { owned.index with
        inflight := [op], waiting := [.withdraw 0], counter := 9191, copy := desc1 12 9191 } };
      s.index.waiting = [.withdraw 0] ∧ s.index.inflight.find? (fun o => o.kind.key == .withdraw 0) = some op ∧
        (s.record 0).map (·.waiters) = some ({ slot := 34, ordinal := 0 } :: []) ∧ s.index.counter < 9192 ∧ (s.slot 34).state.isOpen = true ∧
        (s.slot 34).provCount < (s.slot 34).cls.provisionalLimit ∧ (s.entry 0xA35 0).isSome = true) ∧
    (let s := withSlot (waiting1 .withdrawing 1) 34 (dying 1); (s.slot 34).state = .aborting ∧ tableWf s.pool ∧ tableWf s.mem.ways) ∧
    Calm (waiting1 .withdrawing 1) ∧ Calm (withSlot (waiting1 .withdrawing 1) 34 (dying 1)) ∧ Calm running ∧ Calm (withSlot running 21 (pending1 open0)) :=
  ⟨by decide +kernel, by decide +kernel, waiting1_calm _ _, calm_withSlot (waiting1_calm _ _) 34 _ rfl rfl, running_calm, withSlot_calm _ _ rfl rfl⟩

/-- The walk of slot 21's record, halted at this waiter: slot 34 is at its Provisional Limit, slot 40 is ABORTING, and slot 50 is below its limit. -/
def walking (h : Waiter) (waiters : List Waiter) : State :=
  let held (limit : Nat) : Slot := { pending1 open0 with
    state := .held, cls := { ChunkClass.class0 with provisionalLimit := limit }, inflight := 2
    pending := (List.range 2).map fun n => { ordinal := n, offset := 100, length := 9000, digest := digest1, check := 77, cond := .held 0 } }
  let s := withSlot (withSlot (withSlot owned 34 (held 0)) 40 (dying 1)) 50 (held 1)
  writing .reserve { s with
    pool := [(0, { bucket := 0xA35, way := 0, owner := 21, ordinal := 0, disp := .withdrawing, waiters := waiters })]
    index := { s.index with
      inflight := [{ kind := .withdraw 0, bucket := 0xA35, halt := some (.walk 0 h) }]
      waiting := [.withdraw 0], counter := 5096, copy := desc1 12 5096 } }

theorem walking_calm (h : Waiter) (waiters : List Waiter) : Calm (walking h waiters) :=
  calm_withSlot (s := withSlot (withSlot owned 34 _) 40 _)
    (calm_withSlot (s := withSlot owned 34 _) (calm_withSlot owned_calm 34 _ rfl rfl) 40 _ rfl rfl) 50 _ rfl rfl

/-- Slots 34 and 40 each wait once, and behind them slots 50, 34 and 50 again. -/
def walkers : List Waiter :=
  [{ slot := 34, ordinal := 0 }, { slot := 40, ordinal := 0 }, { slot := 50, ordinal := 0 }, { slot := 34, ordinal := 1 }, { slot := 50, ordinal := 1 }]

/-- R108, R109, R111: the waiter at its limit is passed over, the ABORTING one discarded, each with its number, and the third takes over. -/
theorem test_walk_resumed :
    yields (.descriptorWriteComplete .clean) (walking { slot := 34, ordinal := 0 } walkers)
      (fun t => (t.slot 34).pending.map (·.cond) == [.resolved .unindexed 5096 .provisionalLimit, .held 0] && (t.slot 40).state == .aborted &&
        (t.slot 50).pending.map (·.cond) == [.resolved .new 5098 .none, .resolved .dup 5098 .none] && (t.slot 50).provList == [0] &&
        (t.record 0).map (·.waiters) == some [{ slot := 34, ordinal := 1 }] && t.index.counter == 5099 && t.index.stats.takeovers == 1) =
    true := by decide +kernel

/-- R109, R110: with no new owner the way is EMPTY at the end of the list. -/
theorem test_walk_resumed_unowned :
    yields (.descriptorWriteComplete .clean) (walking { slot := 34, ordinal := 0 } (walkers.take 2))
      (fun t => (t.slot 34).pending.map (·.cond) == [.resolved .unindexed 5096 .provisionalLimit, .held 0] && (t.slot 34).inflight == 1 &&
        t.pool == [] && t.entry 0xA35 0 == none && t.index.counter == 5098 && t.index.stats.withdrawals == 1 && t.index.stats.takeovers == 0) =
    true := by decide +kernel

theorem test_meets_DescriptorWriteCompletes_walk :
    (∀ h : Waiter, ∀ waiters, Calm (walking h waiters)) ∧ walkers.Nodup ∧
    walkers = walkers.take 2 ++ { slot := 50, ordinal := 0 } :: [{ slot := 34, ordinal := 1 }, { slot := 50, ordinal := 1 }] ∧
    walkers.head? = some { slot := 34, ordinal := 0 } ∧ { slot := 40, ordinal := 7 } ∉ walkers ∧
    (let s := walking { slot := 34, ordinal := 0 } walkers;
      (∀ x ∈ walkers.take 2, (s.slot x.slot).state = .aborting ∨
        (s.slot x.slot).state.isOpen = true ∧ (s.slot x.slot).cls.provisionalLimit ≤ (s.slot x.slot).provCount) ∧
      (s.slot 50).state.isOpen = true ∧ (s.slot 50).provCount < (s.slot 50).cls.provisionalLimit ∧
      s.index.counter + 1 + 2 < 9192 ∧ (s.record 0).map (·.waiters) = some walkers ∧ (s.entry 0xA35 0).isSome = true ∧
      tableWf s.pool ∧ tableWf s.mem.ways ∧ ∀ e ∈ s.pool, e.1 < 16384) :=
  ⟨walking_calm, by decide +kernel⟩

theorem test_meets_DescriptorWriteCompletes_lost :
    let s := writing .reserve running
    s.index.writeFailed = false ∧ s.index.writes = { desc := desc1 12 9192, use := .reserve } :: [] ∧ s.ctl.engine ≠ .faulted := by decide +kernel

theorem test_meets_FormatClears :
    let j : FormatJob := { cell := 3, k := 24, counterStart := 9, epochStart := 8, cleared := false }
    let s := { running with index := { running.index with state := .formatting, format := some j } }
    s.Settled ∧ s.index.format = some j ∧ j.cleared = false ∧ s.index.inflight = [] ∧ s.lookups = [] ∧ s.index.firming = [] ∧
      s.index.withdrawal = [] ∧ s.index.requests = [] ∧ s.index.writes = [] :=
  ⟨running_settled, by decide +kernel⟩

theorem test_meets_EmissionWritesTheHead :
    let c := { stalled1 with written := 63 }
    let s := withSlot running 1023 c
    c = s.slot 1023 ∧ s.mayWrite = true ∧ c.state = .active ∧ c.written - c.taken < c.areaSize ∧
      c.pending.map (·.cond) = [.resolved .new 5 .none] ∧ s.Settled :=
  ⟨by decide +kernel, by decide +kernel, by decide +kernel, by decide +kernel, by decide +kernel, settled_withSlot running_settled _ _ rfl⟩

theorem test_meets_EmissionWritesTheHead_finished :
    let c := { stalled1 with written := 63, stored := 63, inflight := 0, chunker := { Chunker.fresh with finished := true } }
    c.chunker.finished = true ∧ c.pending.length = 1 ∧ c.inflight = 0 := by decide +kernel

theorem test_meets_EventsOutOfPlaceStop :
    running.Settled ∧ State.reset.Settled ∧
    State.reset.time.running = false ∧ running.time.countdown ≠ 0 ∧ running.ctl.starting = false ∧ running.ctl.engine ≠ .quiescing ∧
      running.sweep.flight = none ∧ running.runList = [] ∧ (running.lanes.get 31).read = none ∧
      64 ≤ ({ running with index := { running.index with inflight := List.replicate 64 { kind := .scan 1, bucket := 1, halt := none } } } : State).index.inflight.length ∧
      readyOp (.firm 0) running.index.inflight = none ∧ running.index.writes = [] ∧ running.index.format = none ∧ (running.slot 12).pending = [] := 
  ⟨running_settled, running_settled, by decide +kernel⟩

/-! ### The laws -/

/-- The counters of an engine with no stream are lawful, and a step is taken from it. -/
theorem test_meets_CountersStayLawful :
    let s := { running with pending := [.tick] }
    s.Canonical ∧ s.index.inflight.length ≤ 64 ∧ s.CountsOk ∧ isReset .tick = false ∧ ∃ t, step s = .next t := by
  refine ⟨⟨by decide +kernel, by decide +kernel, by decide +kernel⟩, by decide +kernel, fun i => ?_, rfl,
    answers_of_yields (c := .tick) (s := running) (p := fun _ => true) (by decide +kernel)⟩
  rw [show ({ running with pending := [.tick] } : State).slot i = _ from running_slot i]
  exact ⟨by decide, by decide, by decide, by decide, by decide, by decide, by decide, by decide, by decide⟩

/-- So are its engine state and its slots' states. -/
theorem test_meets_ControlStaysLawful : running.ControlOk ∧ running.StatesDecided :=
  ⟨⟨by decide +kernel, by decide +kernel, by decide +kernel, by decide +kernel, by decide +kernel,
    fun i h => absurd (h.symm.trans (running_settled i)) (by decide)⟩, fun i h => by rw [running_slot] at h; cases h⟩

/-- The lists of an engine with no stream are lawful. -/
theorem test_meets_ListsStayLawful : running.ListsOk := by
  have lanes (n : LaneNo) : running.lanes.get n = { turn := none, read := none } := by simp [running, State.reset, Vector.get]
  refine ⟨by decide, fun i h => (by cases h), fun n m t u h => (by rw [lanes] at h; cases h), fun i => ?_⟩
  rw [running_slot]
  refine ⟨by decide, by decide, fun n tag => ?_, by decide, by decide, by decide⟩
  simp [CellRecord.fresh, Slot.fresh]

/-- An empty pool is lawful. -/
theorem test_meets_PoolStaysLawful_empty : running.Canonical ∧ running.PoolOk :=
  ⟨⟨by decide +kernel, by decide +kernel, by decide +kernel⟩, by decide, fun r h => (by cases h), fun r h => (by cases h),
    fun i r h => (by rw [running_slot] at h; cases h), fun i => by rw [running_slot]; decide,
    fun i => by rw [running_slot]; exact List.Pairwise.nil, fun i h => (by rw [running_slot] at h; cases h),
    fun r p h => (by cases h), fun os o qs h => (by cases os <;> cases h), fun o h => (by cases h), fun o h => (by cases h), fun o h => (by cases h)⟩

/-- The slots of sequence 12.1 with slot 34 waiting. -/
theorem waiting1_slot (d : Disposition) (limit : Nat) (i : SlotNo) : i = 34 ∧ (waiting1 d limit).slot i =
      { open0 with
        state := .held, cls := { ChunkClass.class0 with provisionalLimit := limit }, inflight := 1
        pending := [{ ordinal := 0, offset := 100, length := 9000, digest := digest1, check := 77, cond := .held 0 }] } ∨
    i ≠ 34 ∧ i = 21 ∧ (waiting1 d limit).slot i = { open0 with provList := [0], provCount := 1 } ∨
    i ≠ 34 ∧ i ≠ 21 ∧ (waiting1 d limit).slot i = .fresh := by
  by_cases h : i = 34
  · subst h; exact .inl ⟨rfl, State.slot_setSlot_self _ _ _⟩
  · have e : (waiting1 d limit).slot i = (withSlot running 21 { open0 with provList := [0], provCount := 1 }).slot i :=
      (State.slot_setSlot_of_ne _ _ _ _ h).trans (State.slot_setSlot_of_ne _ _ _ _ h)
    by_cases k : i = 21
    · subst k; exact .inr (.inl ⟨h, rfl, e.trans (State.slot_setSlot_self _ _ _)⟩)
    · exact .inr (.inr ⟨h, k, e.trans ((State.slot_setSlot_of_ne _ _ _ _ k).trans (running_slot i))⟩)

/-- So is the pool of sequence 12.1, slot 34 waiting on slot 21's LIVE record. -/
theorem test_meets_PoolStaysLawful : (waiting1 .live 256).Canonical ∧ (waiting1 .live 256).PoolOk := by
  have only : ∀ r p, (waiting1 .live 256).record r = some p → r = 0 ∧ p.disp = Disposition.live := by
    intro r p h
    cases r with
    | zero => cases h; exact ⟨rfl, rfl⟩
    | succ n => simp [State.record, waiting1, withSlot, State.setSlot, tableGet] at h
  refine ⟨⟨by decide +kernel, by decide +kernel, by decide +kernel⟩, by decide, fun r h => (by cases h), fun r h => (by cases h), fun i r h => ?_,
    fun i => ?_, fun i => ?_, fun i h x hx r hr => ?_, fun r p h k => ?_, fun os o qs h => (by cases os <;> cases h), fun o h => (by cases h),
    fun o h => (by cases h), fun o h => (by cases h)⟩
  · rcases waiting1_slot .live 256 i with ⟨_, e⟩ | ⟨_, rfl, e⟩ | ⟨_, _, e⟩ <;> rw [e] at h
    · cases h
    · obtain rfl : r = 0 := by simpa using h
      exact ⟨_, rfl, rfl, rfl⟩
    · cases h
  · rcases waiting1_slot .live 256 i with ⟨_, e⟩ | ⟨_, rfl, e⟩ | ⟨_, _, e⟩ <;> rw [e] <;> decide
  · rcases waiting1_slot .live 256 i with ⟨_, e⟩ | ⟨_, rfl, e⟩ | ⟨_, _, e⟩ <;> rw [e]
    · exact List.Pairwise.nil
    · exact List.pairwise_singleton _ _
    · exact List.Pairwise.nil
  · rcases waiting1_slot .live 256 i with ⟨rfl, e⟩ | ⟨_, rfl, e⟩ | ⟨_, _, e⟩ <;> rw [e] at hx
    · obtain rfl : x = _ := by simpa using hx
      cases hr
      exact ⟨_, rfl, by decide⟩
    · cases hx
    · cases hx
  · rw [(only r p h).2] at k; cases k

theorem test_meets_StoresAndNumbersStayLawful : running.NumbersOk :=
  ⟨fun _ => by decide, by decide, by decide, fun w h => (by cases h), fun j h => (by cases h), fun j h => (by cases h), fun w h => (by cases h), by decide⟩

theorem test_meets_NoticesStayHandedOn : running.NoticesOk :=
  ⟨running_calm.2, fun i => by rw [running_slot]; simp [running, State.reset, NoticeUnit.fresh, Vector.get, Slot.fresh, Marks.off, Marks.any],
    fun i h => by rw [running_slot] at h; exact absurd rfl h, fun n c => by revert n c; decide +kernel, by decide, fun _ l h => (by cases h)⟩

/-- An engine that is not yet RUNNING shows nothing, and a START completes from it. -/
theorem test_meets_EngineShowsWhatItHolds :
    startingState.ShownOk ∧ ∃ t, step { startingState with pending := [.startComplete headerBytes table0] } = .next t :=
  ⟨⟨fun h => (by cases h), fun h => (by cases h), fun i _ => by rw [show startingState.slot i = _ from reset_slot i]; rfl⟩,
    answers_of_yields (c := .startComplete headerBytes table0) (s := startingState) (p := fun _ => true) (by decide +kernel)⟩

/-- In FAULTED commands still answer a next state. -/
theorem test_meets_FaultedIsSilent :
    let s := { State.reset with ctl := { State.reset.ctl with engine := .faulted, faultCause := .hostMemory } }
    s.ctl.engine = .faulted ∧ s.ControlOk ∧ isReset .start = false ∧ ∃ t, exec .start s = .next t :=
  ⟨rfl, ⟨by decide, by decide, by decide +kernel, by decide, by decide, fun i h =>
      absurd (h.symm.trans (running_settled i)) (by decide)⟩, rfl, answers_of_yields (p := fun _ => true) (by decide +kernel)⟩

theorem test_meets_EngineWritesItsOwn :
    (∃ t, exec (.snapshotSlot 2) (asked (withSlot running 12 open0) 2 (.snapshot 12)) = .next t) ∧ isReset (.snapshotSlot 2) = false ∧
    (∃ t, exec (.reset ⟨false, 1⟩ .clean) { running with port := { posted := [⟨0, .slotWritten 1 2⟩], lostReads := 0, recent := 1 } } = .next t) ∧
    isReset (.reset ⟨false, 1⟩ .clean) = true :=
  ⟨answers_of_yields (p := fun t => t.port.posted.length == 4) (by decide +kernel), rfl,
    answers_of_yields (p := fun t => t.port.posted.isEmpty) (by decide +kernel), rfl⟩

/-! ### Events taken first, and writes not yet issued -/

/-- R42: a QUIESCE after the tick that has brought slot 12's idle countdown to 0 meets its stream aborted. -/
theorem test_quiesce_after_expiry :
    yields .quiesce idled (fun t => t.ctl.engine == .quiescing && (t.slot 12).state == .aborted && (t.slot 12).reason == some .idle) = true := by
  decide +kernel

/-- R134: a reset during an emission can leave the entry's write without its Recipe Written write. -/
theorem test_reset_unissued :
    yields (.reset ⟨false, 1⟩ .clean)
      { running with port := { posted := [⟨0x100000, .slotSeen 12 1⟩, ⟨0x100000, .slotMarks 12 .off⟩, ⟨0x100000, .slotWritten 12 65⟩], lostReads := 0, recent := 2 } }
      (fun t => t.port.posted == [⟨0x100000, .slotSeen 12 1⟩, ⟨0x100000, .slotMarks 12 .off⟩]) = true := by decide +kernel

/-- R87: step 1's write is to complete before steps 3 and 4. -/
theorem test_format_clear_waits :
    stops .formatClear (writing .formatStart { running with index := { running.index with
      state := .formatting, format := some { cell := 3, k := 13, counterStart := 9, epochStart := 8, cleared := false } } }) .noFormat = true := by
  decide +kernel

/-- R155: a slot is taken in its turn only. -/
theorem test_slot_not_due :
    stops (.slotHostHalfTaken 13 1 (zeros 640)) { running with sweep := { flight := some (.slots [12, 13]), remembered := false } } .slotNotDue = true := by
  decide +kernel

/-! ### What waited goes on, and what a command leaves for a reset -/

/-- R169: the tick issues the message that the event before it posted, so no reset takes it back. -/
theorem test_message_stands :
    yields .tick { running with port := { posted := [⟨0x100000, .notice 0x9000 0xABCD⟩], lostReads := 0, recent := 1 } }
      (fun t => t.port.recent == 0 && t.port.posted.length == 1) = true := by decide +kernel

/-- A lookup halted for its number, with the reservation's write outstanding. -/
def numberless (use : NumberUse) (c : Slot) : State :=
  let s := withSlot running 21 c
  writing .reserve { s with index := { s.index with
    inflight := [{ kind := .lookup (lookup1 21), bucket := 0xA35, halt := some (.number use) }], waiting := [.lookup 21 0], counter := 5096 } }

/-- R78, R74: an insertion that waited for a reservation is NEW, under the counter's number. -/
theorem test_lookup_resumed :
    yields (.descriptorWriteComplete .clean) (numberless .insert (pending1 open0))
      (fun t => (t.slot 21).pending.map (·.cond) == [.resolved .new 5096 .none] && (t.slot 21).provList == [0] && t.index.counter == 5097 &&
        t.index.copy.reserved == 9192 && t.index.inflight == [] && (t.entry 0xA35 0).map (·.number) == some 5096) = true := by decide +kernel

/-- R75, R106: where its stream has become ABORTING, the outcome is dropped and the record given up for withdrawal. -/
theorem test_lookup_resumed_aborting :
    yields (.descriptorWriteComplete .clean) (numberless .insert (dying 1))
      (fun t => (t.slot 21).state == .aborted && t.index.withdrawal == [0] && (t.record 0).map (·.disp) == some .withdrawing &&
        t.index.counter == 5097) = true := by decide +kernel

theorem test_meets_DescriptorWriteCompletes_numberless :
    (∀ use : NumberUse, ∀ c ∈ [pending1 open0, dying 1, pending1 { open0 with provCount := 256 }],
      let s := numberless use c
      s.index.waiting = [.lookup (lookup1 21).slot (lookup1 21).ordinal] ∧ s.index.counter < 9192 ∧
        ((s.slot 21).state.isOpen = true ∨ (s.slot 21).state = .aborting)) ∧
    (let s := numberless .insert (pending1 open0);
      s.index.inflight.find? (fun o => o.kind.key == .lookup 21 0) = some { kind := .lookup (lookup1 21), bucket := 0xA35, halt := some (.number .insert) } ∧
        s.entry 0xA35 0 = none ∧ (∀ x : WayNo, x < 0 → s.entry 0xA35 x ≠ none) ∧ (s.slot 21).provCount < (s.slot 21).cls.provisionalLimit ∧
        s.pool.length < 16384 ∧ tableWf s.mem.ways ∧ tableWf s.pool ∧ ∀ e ∈ s.pool, e.1 < 16384) ∧
    (pending1 { open0 with provCount := 256 }).cls.provisionalLimit ≤ 256 ∧
    ∀ use : NumberUse, Calm (numberless use (pending1 open0)) ∧ Calm (numberless use (dying 1)) := by
  refine ⟨fun use => by cases use <;> decide +kernel, by decide +kernel, by decide, fun use => ?_⟩
  exact ⟨calm_withSlot running_calm 21 (pending1 open0) rfl rfl, calm_withSlot running_calm 21 (dying 1) rfl rfl⟩

/-- A SCAN halted in the loss of slot 21's entry at slot 34's waiter, with the reservation's write outstanding. -/
def losing (c : Slot) : State :=
  let s := withSlot (waiting1 .lost 256) 34 c
  writing .reserve { s with
    mem := { s.mem with ways := [] }
    index := { s.index with
      inflight := [{ kind := .scan 0xA35, bucket := 0xA35, halt := some (.loss 0 true { slot := 34, ordinal := 0 } [(15, .clean)]) }]
      waiting := [.scan 0xA35], counter := 9191, copy := desc1 12 9191 } }

/-- R113, R111: the waiter gets the reserved number and BUCKET_FULL, the record that was LIVE is free, and the SCAN goes on to its end. -/
theorem test_loss_resumed :
    yields (.descriptorWriteComplete .clean) (losing ((waiting1 .lost 256).slot 34))
      (fun t => (t.slot 34).pending.map (·.cond) == [.resolved .unindexed 9191 .bucketFull] && (t.slot 34).inflight == 0 && t.pool == [] &&
        t.index.counter == 9192 && t.index.inflight == [] && t.index.scanPosition == 1) = true := by decide +kernel

theorem test_meets_DescriptorWriteCompletes_loss :
    (∀ c ∈ [(waiting1 .lost 256).slot 34, dying 1],
      let s := losing c
      s.index.writeFailed = false ∧ s.index.waiting = [.scan 0xA35] ∧ (s.index.inflight.find? (fun o => o.kind.key == .scan 0xA35)).isSome = true ∧
        (s.record 0).map (·.waiters) = some [{ slot := 34, ordinal := 0 }] ∧ s.index.counter + 1 ≤ 9192 ∧
        tableWf s.mem.ways ∧ tableWf s.pool ∧ ∀ e ∈ s.pool, e.1 < 16384) ∧
    ((losing ((waiting1 .lost 256).slot 34)).slot 34).state.isOpen = true ∧ ((losing (dying 1)).slot 34).state = .aborting ∧
    Calm (losing ((waiting1 .lost 256).slot 34)) ∧ Calm (losing (dying 1)) :=
  ⟨by decide +kernel, by decide +kernel, by decide +kernel, calm_withSlot (s := waiting1 .lost 256) (waiting1_calm _ _) 34 _ (by decide +kernel) (by decide +kernel),
    calm_withSlot (s := waiting1 .lost 256) (waiting1_calm _ _) 34 _ rfl rfl⟩

/-- The engine with no number left, and a SCAN of the bucket of slot 21's entry, on whose record's list slot 34 waits. -/
def exhausted : State :=
  flying { waiting1 .live 256 with index := { owned.index with counter := 2 ^ 40, copy := desc1 12 (2 ^ 40) } } (.scan 0xA35)

/-- R111, R113: the waiter's stream is aborted with NUMBERS, and the operation goes on. -/
theorem test_loss_exhausted :
    yields (.scanComplete 0xA35 (clean.set 0 .uncorrectable)) exhausted
      (fun t => (t.slot 34).reason == some .numbers && (t.slot 34).state == .aborted && t.pool == [] && t.index.counter == 2 ^ 40 &&
        t.index.inflight == [] && t.index.error) = true := by decide +kernel

theorem test_meets_AllocationsMeetTheReserve_lossExhausted :
    Calm exhausted ∧ (readyOp (.scan 0xA35) exhausted.index.inflight).isSome = true ∧ exhausted.index.inflight = [] ++ { kind := .scan 0xA35, bucket := 0xA35, halt := none } :: [] ∧
    exhausted.index.counter = exhausted.index.copy.reserved ∧ exhausted.index.counter = 2 ^ 40 ∧
    exhausted.recordAt 0xA35 0 =
      some (0, { bucket := 0xA35, way := 0, owner := 21, ordinal := 0, disp := .live, waiters := [{ slot := 34, ordinal := 0 }] }) ∧
    (exhausted.entry 0xA35 0).map (·.state) = some (.provisional 21 0) ∧ exhausted.index.state ≠ .scanning ∧
    (exhausted.slot 34).state.isOpen = true ∧ 0 ∉ (exhausted.slot 34).provList ∧ tableWf exhausted.mem.ways ∧ tableWf exhausted.pool :=
  ⟨waiting1_calm .live 256, by decide +kernel⟩

/-- R119, R17: an emission from a full list makes the stream eligible, and it joins the Run List. -/
theorem test_emission_joins_run_list :
    let c := { stalled1 with
      written := 63, pending := (List.range 8).map fun n => { ordinal := n, offset := 100, length := 900, digest := digest1, check := 77, cond := .resolved .new 5 .none }
      feed := [{ cell := 7, addr := 0x500000, offset := 100, length := 8192, tag := 1, count := 0 }] }
    yields (.emission 12) { withSlot running 12 c with runList := [3] } (fun t => t.runList == [3, 12] && (t.slot 12).eligible) = true := by
  decide +kernel

/-- R19: the byte that brings a turn to 262,144 ends it, and the slot, still eligible, joins the tail of the Run List. -/
theorem test_turn_limit_rejoins :
    yields (.segmentReadComplete (.lane 4) [7])
      { resent with
        runList := [3]
        lanes := resent.lanes.set 4 { turn := some { slot := 12, count := 262143 }, read := some { cell := 7, addr := 0x501000, length := 1 } } }
      (fun t => t.runList == [3, 12] && (t.lanes.get 4).turn == none && (t.slot 12).consumed == 40961) = true := by decide +kernel

/-- A slot that Stored Through closes, and one that Recipe Taken makes ACTIVE again: the writes of each, in their order. -/
theorem test_host_half_closes :
    let half := put (put (zeros 640) 0 [1]) 8 [3]
    let s := { withSlot settling 12 { settling.slot 12 with provList := [], provCount := 0, taken := 3, watch := 0 } with pool := [] }
    yields (.slotHostHalfTaken 12 1 half) s (fun t => (since s t).take 5 ==
      [.slotSeen 12 1, .slotSafe 12 19000, .slotStats 12 .zero, .slotConsumed 12 19000, .slotState 12 .closed]) = true := by decide +kernel

theorem test_host_half_resumes :
    let half := put (put (zeros 640) 0 [1]) 16 [1]
    let s := { withSlot running 12 { stalled1 with state := .stalled, marks := stalled1.marksDue } with sweep := { flight := some (.slots [12]), remembered := false } }
    yields (.slotHostHalfTaken 12 1 half) s (fun t => since s t == [.slotSeen 12 1, .slotConsumed 12 100, .slotState 12 .active]) = true := by
  decide +kernel

theorem test_meets_SlotIsSwept_changes :
    let s := { withSlot settling 12 { settling.slot 12 with provList := [], provCount := 0, taken := 3 } with pool := [] }
    let u := { withSlot running 12 { stalled1 with state := .stalled, marks := stalled1.marksDue } with sweep := { flight := some (.slots [12]), remembered := false } }
    ((s.slot 12).stored < 3 ∧ (s.slot 12).written = 3 ∧ (s.slot 12).state = .settling ∧ (s.slot 12).inflight = 0) ∧
    ((u.slot 12).taken < 1 ∧ (u.slot 12).state.isOpen = true ∧ ({ u.slot 12 with taken := 1 } : Slot).decided ≠ (u.slot 12).state) ∧ s.Settled ∧ u.Settled :=
  ⟨by decide +kernel, by decide +kernel, settled_withSlot (s := settling) (settled_withSlot running_settled _ _ rfl) 12 _ (by decide +kernel),
    settled_withSlot running_settled 12 _ (by decide +kernel)⟩

/-! ### Commands that write nothing, and what an abort leaves to the others -/

/-- The last event's two writes may still be unissued. -/
def unissued (s : State) : State :=
  { s with port := { posted := [⟨0x100000, .slotSeen 12 1⟩, ⟨0x100000, .notice 0x9000 0xABCD⟩], lostReads := 0, recent := 2 } }

/-- R169: after a SCAN, which writes nothing, no reset takes them back. -/
theorem test_scan_issues :
    yields (.scanComplete 0xA35 clean) (unissued (flying { firm1 with index := { firm1.index with state := .scanning } } (.scan 0xA35)))
      (fun t => t.port.recent == 0 && t.port.posted.length == 2 && t.index.occupancy == 2) = true := by decide +kernel

theorem test_meets_ScanCompletes_unissued :
    let s := unissued (flying { owned with index := { owned.index with state := .scanning, scanPosition := 4095 } } (.scan 0xA35))
    Calm s ∧ s.port.recent ≠ 0 ∧ (readyOp (.scan 0xA35) s.index.inflight).isSome = true ∧ tableWf s.mem.ways ∧ tableWf s.pool ∧
      (∀ e ∈ s.pool, e.1 < 16384) ∧ s.index.scanPosition + 1 = 2 ^ s.index.copy.k :=
  ⟨owned_calm, by decide +kernel⟩

/-- An expiry due in an engine that writes nothing, one with no expiry due, and a slot that is not live: the last event's writes are issued. -/
theorem test_meets_IdleExpiryAborts_unissued :
    let s := unissued { idled with ctl := { idled.ctl with engine := .faulted } }
    (unissued running).Settled ∧ (unissued running).port.recent ≠ 0 ∧ (s.slot 12).idleDue = true ∧ s.mayWrite = false ∧ s.port.recent ≠ 0 ∧
      yields (.idleCountdownExpiry 12) s (fun t => t.port == s.begun.port) = true ∧
      yields (.idleCountdownExpiry 13) s (fun t => t.port == s.begun.port) = true :=
  ⟨running_settled, by decide +kernel⟩

/-- R22, R30, R106: an abort of slot 21 leaves the Run List, the Lookup Queue, the lanes and the records of the others. -/
theorem test_abort_leaves_others :
    let other : PoolRecord := { bucket := 7, way := 3, owner := 34, ordinal := 2, disp := .firming, waiters := [] }
    yields (.abort 2) (asked { owned with
        runList := [34, 21, 40], lookups := [lookup1 34, lookup1 21], pool := owned.pool ++ [(9, other)]
        lanes := owned.lanes.set 4 { turn := some { slot := 50, count := 7 }, read := none } } 2 (.abort 21))
      (fun t => t.runList == [34, 40] && t.lookups == [lookup1 34] && (t.lanes.get 4).turn == some { slot := 50, count := 7 } &&
        (t.record 0).map (·.disp) == some .withdrawing && t.record 9 == some other && t.index.withdrawal == [0]) = true := by decide +kernel

/-- R17: a CLOSE that makes a final chunk due puts its slot on the Run List behind the others. -/
theorem test_close_joins_run_list :
    yields (.close 2)
      (asked { withSlot running 12 { open0 with chunker := { Chunker.fresh with len := 60 } } with runList := [3] } 2 (.close 12 100))
      (fun t => t.runList == [3, 12]) = true := by decide +kernel

/-- And one below which bytes are still to come leaves it, the stream not being eligible. -/
theorem test_close_leaves_run_list :
    yields (.close 2) (asked { withSlot running 12 open0 with runList := [3, 7] } 2 (.close 12 101)) (fun t => t.runList == [3, 7]) = true := by
  decide +kernel

end Sys2Proof.Tests
end

namespace Sys2Proof.Machine

set_option Elab.async false

/-! ### FAULTED is silent (R46, R152, R168, R170, R174) -/

/-- What no command but a reset touches in FAULTED: the Engine Controller, the Timebase, the Class Table and the writes posted. -/
structure State.Silent (s t : State) : Prop where
  ctl : t.ctl = s.ctl
  time : t.time = s.time
  classes : t.classes = s.classes
  posted : t.port.posted = s.port.posted

theorem State.Silent.of_same {s t : State} (ctl : t.ctl = s.ctl := by rfl) (time : t.time = s.time := by rfl)
    (classes : t.classes = s.classes := by rfl) (posted : t.port.posted = s.port.posted := by rfl) : s.Silent t :=
  ⟨ctl, time, classes, posted⟩

theorem State.Silent.trans {s t u : State} (h : s.Silent t) (k : t.Silent u) : s.Silent u :=
  ⟨k.ctl.trans h.ctl, k.time.trans h.time, k.classes.trans h.classes, k.posted.trans h.posted⟩

/-- What `State.Keeps` lets happen is silent where the port takes no writes. -/
theorem State.Keeps.silent {s t : State} (h : s.Keeps t) (m : s.mayWrite = false) : s.Silent t := by
  obtain ⟨ws, hw, hm, -⟩ := h.posted
  exact ⟨h.ctl, h.time, h.classes, by simp [hw, hm m]⟩

/-- What FAULTED means for the blocks, by the laws of the Engine Controller: nothing starts, runs, sweeps or is written. -/
structure State.Halted (s : State) : Prop where
  faulted : s.ctl.engine = .faulted
  silent : s.mayWrite = false
  starting : s.ctl.starting = false
  time : s.time.running = false
  flight : s.sweep.flight = none

theorem State.ControlOk.halted {s : State} (h : s.ControlOk) (e : s.ctl.engine = .faulted) : s.Halted := by
  have m : s.mayWrite = false := by simp [State.mayWrite, e]
  refine ⟨e, m, ?_, h.timebase.trans m, ?_⟩
  · by_contra k
    simp [h.starting_stopped (by simpa using k)] at e
  · by_contra k
    simp [h.flight_writes (Option.isSome_iff_ne_none.2 k)] at m

/-- A halted engine stays halted through what keeps the control state and the sweep. -/
theorem State.Halted.keeps {s t : State} (h : s.Halted) (k : s.Keeps t) : t.Halted :=
  ⟨k.ctl ▸ h.faulted, k.mayWrite ▸ h.silent, k.ctl ▸ h.starting, k.time ▸ h.time, k.sweep ▸ h.flight⟩

theorem State.Halted.settled {s : State} (h : s.Halted) : s.settled.Halted := h.keeps s.settled_keeps

theorem State.Halted.settled_silent {s : State} (h : s.Halted) : s.Silent s.settled := s.settled_keeps.silent h.silent

/-- With no sweep in flight there is no request to carry out. -/
theorem State.nextRequest_of_idle {s : State} (h : s.sweep.flight = none) (cell : ReqNo) : s.nextRequest cell = none := by
  simp [State.nextRequest, h]

/-- The passage to FAULTED of an engine that is FAULTED already does nothing: the first cause stands (R174). -/
theorem State.enterFaulted_of_faulted {s : State} (h : s.ctl.engine = .faulted) (c : FaultCause) : s.enterFaulted c = s := by
  simp [State.enterFaulted, h]

theorem State.Halted.failRead {s t : State} (h : s.Halted) (id : ReadId) (e : s.failRead id = .next t) : s.Silent t := by
  cases id with
  | lane n =>
    simp only [State.failRead] at e
    split at e
    · rw [State.enterFaulted_of_faulted (by exact h.faulted)] at e
      cases e
      exact .of_same
    · cases e
  | sweep => simp [State.failRead, h.flight] at e
  | openHalf => simp [State.failRead, State.openReading, h.flight] at e
  | start => simp [State.failRead, h.starting] at e
  | lost =>
    simp only [State.failRead] at e
    split at e <;> cases e
    exact .of_same

theorem State.offer_silent {s t : State} {a : Source} {op : Op} (e : s.offer a = some (op, t)) : s.Silent t := by
  cases a <;> simp only [State.offer] at e <;> split at e <;> cases e <;> exact .of_same

theorem State.Halted.writeDone {s : State} (h : s.Halted) (w : DescWrite) (rest : List DescWrite) : s.Silent (s.writeDone w rest) := by
  unfold State.writeDone
  dsimp only
  split
  · exact (State.Silent.of_same (t := { s with mem := { s.mem with desc := w.desc }, index := { s.index with
      writes := rest, copy := { s.index.copy with reserved := w.desc.reserved } } })).trans ((State.resumeAll_keeps _).silent h.silent)
  · exact (State.Silent.of_same (t := { s with mem := { s.mem with desc := w.desc }, index := { s.index with writes := rest } })).trans
      ((State.answer_keeps _ _ _ _).silent h.silent)
  · exact .of_same
  · split
    · exact .of_same
    · rename_i j _
      exact (State.Silent.of_same (t := { s with mem := { s.mem with desc := w.desc }, index := { s.index with
        writes := rest, state := .ready, counter := j.counterStart, occupancy := 0, fill := .normal, fillCount := 0, format := none } })).trans
        ((State.answer_keeps _ _ _ _).silent h.silent)

/-- The end of a silent event is silent. -/
theorem State.Halted.endEvent {s t : State} (h : s.Halted) (k : s.Silent t) : s.Silent (s.endEvent t) := by
  have m : t.mayWrite = false := by simpa [State.mayWrite, k.ctl] using h.silent
  refine k.trans ?_
  unfold State.endEvent State.notify
  split
  · exact .of_same
  · exact ((t.testDue_keeps).silent m).trans .of_same

theorem State.Halted.complete {s t : State} (h : s.Halted) (key : OpKey) (ecc : Vector Ecc 16) (e : s.complete key ecc = .next t) : s.Silent t := by
  unfold State.complete at e
  split at e
  · cases e
    exact h.endEvent ((s.carryOut_keeps _ _).silent h.silent)
  · cases e

/-- What a command does to a halted engine whose due expiries have been taken. -/
theorem State.Halted.descriptorWrite {s t : State} (h : s.Halted) (ecc : Ecc) (e : execDescriptorWriteComplete ecc s = .next t) : s.Silent t := by
  unfold execDescriptorWriteComplete at e
  refine h.settled_silent.trans ?_
  replace h := h.settled
  generalize s.settled = s at *
  dsimp only at e
  split at e
  · cases e
  · split at e
    · cases e
    · split at e <;> cases e
      · exact h.endEvent (h.writeDone _ _)
      · refine h.endEvent ?_
        have k := s.editStats_keeps fun t => { t with corrected := sat32 (t.corrected + 1) }
        exact (k.silent h.silent).trans ((h.keeps k).writeDone _ _)
      · unfold State.writeLost
        rw [State.enterFaulted_of_faulted (by exact h.faulted)]
        exact .of_same

/-- A command that begins with the due expiries and then meets only a halted engine. -/
theorem State.Halted.after_settled {s t : State} (h : s.Halted) (k : s.settled.Halted → s.settled.Silent t) : s.Silent t :=
  h.settled_silent.trans (k h.settled)

theorem State.Halted.exec {s t : State} (h : s.Halted) (c : Instr) (r : isReset c = false) (e : exec c s = .next t) : s.Silent t := by
  have hs := h.settled
  cases c with
  | powerOn => cases r
  | linkReset point desc => cases r
  | reset point desc => cases r
  | start =>
    simp [Machine.exec, execStart, h.faulted] at e
    subst e; exact .of_same
  | startComplete header table => simp [Machine.exec, execStartComplete, h.starting] at e
  | quiesce =>
    simp [Machine.exec, execQuiesce, hs.faulted] at e
    subst e; exact h.settled_silent
  | exchangeBase first data =>
    simp [Machine.exec, execExchangeBase, h.faulted] at e
    subst e; exact .of_same
  | sweepNow value map =>
    simp [Machine.exec, execSweepNow, hs.silent] at e
    subst e; exact h.settled_silent
  | servingLevel value =>
    simp only [Machine.exec, execServingLevel, Host.Outcome.next.injEq] at e
    subst e
    refine h.after_settled fun h => ?_
    have k := State.testDue_keeps { s.settled with notice := { s.settled.notice with serving := min value.toNat 7 } }
    exact .trans (.trans .of_same (k.silent h.silent)) .of_same
  | registerWriteIgnored offset value =>
    simp only [Machine.exec, execRegisterWriteIgnored] at e
    split at e <;> cases e
    exact .of_same
  | tick => simp [Machine.exec, execTick, hs.time] at e
  | sweepCountdownExpiry map => simp [Machine.exec, execSweepCountdownExpiry, hs.silent] at e
  | idleCountdownExpiry slot =>
    simp only [Machine.exec, execIdleCountdownExpiry] at e
    split at e
    · cases e; exact (s.abortStream_keeps _ _).silent h.silent
    · split at e <;> cases e
      exact .of_same
  | slotHostHalfTaken slot post half => simp [Machine.exec, execSlotHostHalfTaken, hs.flight] at e
  | requestTableRead table => simp [Machine.exec, execRequestTableRead, hs.flight] at e
  | format cell => simp [Machine.exec, execFormat, State.nextRequest_of_idle hs.flight] at e
  | setClass cell => simp [Machine.exec, execSetClass, State.nextRequest_of_idle hs.flight] at e
  | openStream cell half => simp [Machine.exec, execOpenStream, State.nextRequest_of_idle hs.flight] at e
  | close cell => simp [Machine.exec, execClose, State.nextRequest_of_idle hs.flight] at e
  | abort cell => simp [Machine.exec, execAbort, State.nextRequest_of_idle hs.flight] at e
  | release cell => simp [Machine.exec, execRelease, State.nextRequest_of_idle hs.flight] at e
  | seed cell => simp [Machine.exec, execSeed, State.nextRequest_of_idle hs.flight] at e
  | retire cell => simp [Machine.exec, execRetire, State.nextRequest_of_idle hs.flight] at e
  | setEpoch cell => simp [Machine.exec, execSetEpoch, State.nextRequest_of_idle hs.flight] at e
  | snapshotSlot cell => simp [Machine.exec, execSnapshotSlot, State.nextRequest_of_idle hs.flight] at e
  | snapshotEngine cell => simp [Machine.exec, execSnapshotEngine, State.nextRequest_of_idle hs.flight] at e
  | unknownRequest cell => simp [Machine.exec, execUnknownRequest, State.nextRequest_of_idle hs.flight] at e
  | sweepEnd map => simp [Machine.exec, execSweepEnd, State.sweepOver, hs.flight] at e
  | laneTakesSlot lane => simp [Machine.exec, execLaneTakesSlot, hs.silent] at e
  | segmentReadComplete read data =>
    refine h.after_settled fun h => ?_
    simp only [Machine.exec, execSegmentReadComplete] at e
    generalize s.settled = s at *
    cases read with
    | lane n =>
      dsimp only at e
      split at e
      · cases e
      · split at e <;> cases e
        exact h.endEvent ((((s.setLane_keeps n _).trans (State.takeBytes_keeps _ n _ data)).trans (State.continueTurn_keeps _ n)).silent h.silent)
    | lost =>
      dsimp only at e
      split at e <;> cases e
      exact .of_same
    | sweep => cases e
    | openHalf => cases e
    | start => cases e
  | hostReadFailure read => exact h.after_settled fun h => h.failRead read e
  | readTimeout read => exact h.after_settled fun h => h.failRead read e
  | operationAccepted =>
    refine h.after_settled fun h => ?_
    simp only [Machine.exec, execOperationAccepted] at e
    split at e
    · cases e
    · split at e
      · cases e
      · split at e <;> cases e
        rename_i ho
        exact (State.offer_silent ho).trans .of_same
  | lookupInsertComplete slot ordinal ecc => exact h.after_settled fun h => h.complete _ ecc e
  | firmComplete record ecc => exact h.after_settled fun h => h.complete _ ecc e
  | withdrawComplete record ecc => exact h.after_settled fun h => h.complete _ ecc e
  | waiterRemoval slot ordinal =>
    refine h.after_settled fun h => ?_
    simp only [Machine.exec, execWaiterRemoval] at e
    split at e
    · cases e; exact .of_same
    · split at e <;> cases e
      · exact h.endEvent (((State.discardWaiter_keeps _ _ _).trans (State.refresh_keeps _ _)).silent h.silent)
      · exact .of_same
  | seedComplete cell ecc => exact h.after_settled fun h => h.complete _ ecc e
  | retireComplete cell ecc => exact h.after_settled fun h => h.complete _ ecc e
  | scanComplete bucket ecc => exact h.after_settled fun h => h.complete _ ecc e
  | descriptorWriteComplete ecc => exact h.descriptorWrite ecc e
  | formatClear =>
    refine h.after_settled fun h => ?_
    simp only [Machine.exec, execFormatClear] at e
    split at e
    · cases e
    · split at e <;> cases e
      exact .of_same
  | emission slot =>
    simp only [Machine.exec, execEmission, hs.silent] at e
    split at e <;> cases e
  | enterStopped => simp [Machine.exec, execEnterStopped, hs.faulted] at e

/-- Settles O59: by the laws of the Engine Controller a FAULTED engine is halted, and what a command then does is silent. -/
theorem faultedIsSilent : Obligations.FaultedIsSilent := by
  intro c s t faulted ok reset next
  obtain ⟨ctl, time, classes, posted⟩ := (ok.halted faulted).exec c reset next
  exact ⟨ctl, time, classes, posted⟩

end Sys2Proof.Machine

namespace Sys2Proof.Machine

set_option Elab.async false

/-! ### The laws of the lists: what each shared operation keeps (R15, R17, R47, R51, R57, R94) -/

/-- A change of a slot's context that keeps the laws of its lists. -/
def Slot.ListsKept (c d : Slot) : Prop := c.ListsOk → d.ListsOk

/-- The laws of a slot's lists read its Feed Queue, its cells, the Consumed Offset and the provisional list, count and limit. -/
theorem Slot.ListsKept.of_same {c d : Slot} (feed : d.feed = c.feed := by rfl) (cells : d.cells = c.cells := by rfl)
    (consumed : d.consumed = c.consumed := by rfl) (provList : d.provList = c.provList := by rfl)
    (provCount : d.provCount = c.provCount := by rfl) (cls : d.cls = c.cls := by rfl) : c.ListsKept d := fun h =>
  { feed_order := feed ▸ h.feed_order
    feed_cells := feed ▸ h.feed_cells
    queued := by rw [feed, cells]; exact h.queued
    unfinished := by rw [feed, consumed]; exact h.unfinished
    prov_le := by rw [provList, provCount]; exact h.prov_le
    prov_limit := by rw [provCount, cls]; exact h.prov_limit }

/-- A change of the provisional list and count alone. -/
theorem Slot.ListsKept.of_prov {c d : Slot} (le : c.ListsOk → d.provList.length ≤ d.provCount)
    (limit : c.ListsOk → d.provCount ≤ c.cls.provisionalLimit) (feed : d.feed = c.feed := by rfl) (cells : d.cells = c.cells := by rfl)
    (consumed : d.consumed = c.consumed := by rfl) (cls : d.cls = c.cls := by rfl) : c.ListsKept d := fun h =>
  { feed_order := feed ▸ h.feed_order
    feed_cells := feed ▸ h.feed_cells
    queued := by rw [feed, cells]; exact h.queued
    unfinished := by rw [feed, consumed]; exact h.unfinished
    prov_le := le h
    prov_limit := by rw [cls]; exact limit h }

/-- A context with nothing queued and no record. -/
theorem Slot.ListsOk.of_empty {c : Slot} (feed : c.feed = []) (cells : ∀ n, (c.cells.get n).queued = none) (provList : c.provList = [])
    (limit : c.provCount ≤ c.cls.provisionalLimit) : c.ListsOk where
  feed_order := by simp [feed]
  feed_cells := by simp [feed]
  queued := by simp [feed, cells]
  unfinished := by simp [feed]
  prov_le := by simp [provList]
  prov_limit := limit

/-- A change of the state that keeps the laws of the Run List, the lanes and every slot's lists. -/
def State.ListsKept (s t : State) : Prop := s.ListsOk → t.ListsOk

theorem State.ListsKept.refl (s : State) : s.ListsKept s := id

theorem State.ListsKept.trans {s t u : State} (h : s.ListsKept t) (k : t.ListsKept u) : s.ListsKept u := k ∘ h

theorem State.ListsKept.ite {s t u : State} {p : Prop} [Decidable p] (h : p → s.ListsKept t) (k : ¬p → s.ListsKept u) :
    s.ListsKept (if p then t else u) := by
  split
  · exact h ‹_›
  · exact k ‹_›

theorem State.ListsKept.foldl {α : Type} {f : State → α → State} (h : ∀ (s : State) (a : α), s.ListsKept (f s a)) (l : List α) (s : State) :
    s.ListsKept (l.foldl f s) := by
  induction l generalizing s with
  | nil => exact .refl s
  | cons a l ih => exact (h s a).trans (ih _)

/-- The Run List and the lanes stand, and every slot keeps its laws. -/
theorem State.ListsKept.of_slots {s t : State} (slots : ∀ i, (s.slot i).ListsKept (t.slot i)) (runList : t.runList = s.runList := by rfl)
    (lanes : t.lanes = s.lanes := by rfl) : s.ListsKept t := fun h =>
  { run_nodup := runList ▸ h.run_nodup
    run_idle := by rw [runList, lanes]; exact h.run_idle
    one_lane := by rw [lanes]; exact h.one_lane
    slots := fun i => slots i (h.slots i) }

/-- A change of blocks of which the laws do not speak. -/
theorem State.ListsKept.of_same {s t : State} (slots : t.slots = s.slots := by rfl) (runList : t.runList = s.runList := by rfl)
    (lanes : t.lanes = s.lanes := by rfl) : s.ListsKept t :=
  .of_slots (fun i => by rw [State.slot, State.slot, slots]; exact id) runList lanes

/-- A change of one slot. -/
theorem State.ListsKept.of_slot {s t : State} (i : SlotNo) (self : (s.slot i).ListsKept (t.slot i)) (others : ∀ j, j ≠ i → t.slot j = s.slot j)
    (runList : t.runList = s.runList := by rfl) (lanes : t.lanes = s.lanes := by rfl) : s.ListsKept t :=
  .of_slots (fun j => by
    by_cases e : j = i
    · exact e ▸ self
    · rw [others j e]; exact id) runList lanes

variable (s : State)

theorem State.setSlot_listsKept {i : SlotNo} {c : Slot} (h : (s.slot i).ListsKept c) : s.ListsKept (s.setSlot i c) :=
  .of_slot i (by simpa using h) fun j e => by simp [e]

theorem State.editSlot_listsKept {i : SlotNo} {f : Slot → Slot} (h : (s.slot i).ListsKept (f (s.slot i))) : s.ListsKept (s.editSlot i f) :=
  s.setSlot_listsKept h

theorem State.editStats_listsKept (f : EngineStats → EngineStats) : s.ListsKept (s.editStats f) := .of_same

theorem State.post_listsKept (ws : List HostWrite) : s.ListsKept (s.post ws) := .of_same (by simp) (by simp) (by simp)

/-! ### Notices (chapter 9) -/

theorem State.joinLevel_listsKept (l : Nat) : s.ListsKept (s.joinLevel l) := .ite (fun _ => .refl s) fun _ => .of_same

theorem State.testDue_listsKept : s.ListsKept s.testDue := by
  unfold State.testDue
  split
  · exact .refl s
  · exact .ite (fun _ => (s.post_listsKept _).trans .of_same) fun _ => .refl s

theorem State.notify_listsKept {t : State} (h : s.ListsKept t) : s.ListsKept (s.notify t) :=
  .ite (fun _ => h) fun _ => h.trans t.testDue_listsKept

/-- The end of an event keeps what its last state has. -/
theorem State.endEvent_listsKept_after (t : State) : t.ListsKept (s.endEvent t) :=
  .trans (t := s.notify t) (.ite (fun _ => .refl t) fun _ => t.testDue_listsKept) .of_same

theorem State.issued_listsKept {t : State} (h : s.ListsKept t) : s.ListsKept (s.issued t) := h.trans .of_same

theorem State.endEvent_listsKept {t : State} (h : s.ListsKept t) : s.ListsKept (s.endEvent t) := h.trans (s.endEvent_listsKept_after t)

theorem State.raiseLevel_listsKept (l : Nat) : s.ListsKept (s.raiseLevel l) := s.notify_listsKept (s.joinLevel_listsKept l)

theorem State.setReady_listsKept (i : SlotNo) (b : Bool) : s.ListsKept (s.setReady i b) :=
  .ite (fun _ => .refl s) fun _ => .trans .of_same (State.post_listsKept _ _)

theorem State.writeMarks_listsKept (i : SlotNo) (m : Marks) : s.ListsKept (s.writeMarks i m) :=
  ((s.editSlot_listsKept .of_same).trans (State.post_listsKept _ _)).trans (State.setReady_listsKept _ _ _)

theorem State.refresh_listsKept (i : SlotNo) : s.ListsKept (s.refresh i) :=
  .ite (fun _ => .refl s) fun _ => (s.writeMarks_listsKept i _).trans (.foldl (fun s l => s.joinLevel_listsKept l) _ _)

theorem State.refreshAll_listsKept : s.ListsKept s.refreshAll := .foldl (fun s i => s.refresh_listsKept i) _ s

theorem State.setError_listsKept : s.ListsKept s.setError := .ite (fun _ => .refl s) fun _ => .trans .of_same (State.joinLevel_listsKept _ _)

theorem State.setFill_listsKept (f : FillState) (n : Nat) : s.ListsKept (s.setFill f n) :=
  .ite (fun _ => .trans .of_same (State.raiseLevel_listsKept _ _)) fun _ => .of_same

/-! ### Slots (chapter 2) -/

theorem State.setSlotState_listsKept (i : SlotNo) (st : SlotState) : s.ListsKept (s.setSlotState i st) := by
  obtain ⟨rest, self, others⟩ := s.setSlotState_spec i st
  exact .of_slot i (by rw [self]; exact .of_same) others (by rw [rest]) (by rw [rest])

theorem State.writeConsumed_listsKept (i : SlotNo) : s.ListsKept (s.writeConsumed i) := by
  obtain ⟨rest, self, others⟩ := s.writeConsumed_spec i
  exact .of_slot i (by rw [self]; exact .of_same) others (by rw [rest]) (by rw [rest])

theorem State.decideState_listsKept (i : SlotNo) : s.ListsKept (s.decideState i) := .ite (fun _ => s.setSlotState_listsKept i _) fun _ => .refl s

theorem State.tryClose_listsKept (i : SlotNo) : s.ListsKept (s.tryClose i) :=
  .ite (fun _ => (s.post_listsKept _).trans (State.setSlotState_listsKept _ i _)) fun _ => .refl s

theorem State.trySettle_listsKept (i : SlotNo) : s.ListsKept (s.trySettle i) :=
  .ite (fun _ => (s.setSlotState_listsKept i _).trans (State.tryClose_listsKept _ i)) fun _ => .refl s

theorem State.tryAborted_listsKept (i : SlotNo) : s.ListsKept (s.tryAborted i) :=
  .ite (fun _ => (s.post_listsKept _).trans (State.setSlotState_listsKept _ i _)) fun _ => .refl s

theorem State.dropInflight_listsKept (i : SlotNo) : s.ListsKept (s.dropInflight i) :=
  (s.editSlot_listsKept .of_same).trans (State.tryAborted_listsKept _ i)

/-- A lane works the slot where some turn is of it. -/
theorem State.worked_iff (i : SlotNo) : s.worked i = true ↔ ∃ n t, (s.lanes.get n).turn = some t ∧ t.slot = i := by
  simp only [State.worked, List.any_eq_true]
  constructor
  · rintro ⟨l, m, h⟩
    obtain ⟨n, hn, rfl⟩ := List.getElem_of_mem m
    split at h
    · rename_i t e
      exact ⟨⟨n, by simpa using hn⟩, t, by simpa [Vector.get, Vector.toList] using e, by simpa using h⟩
    · cases h
  · rintro ⟨n, t, e, h⟩
    exact ⟨s.lanes.get n, by simp [Vector.get, Vector.toList], by simp [e, h]⟩

theorem State.worked_eq_false (i : SlotNo) : s.worked i = false ↔ ∀ n t, (s.lanes.get n).turn = some t → t.slot ≠ i := by
  rw [Bool.eq_false_iff, Ne, s.worked_iff]
  simp only [not_exists, not_and]

/-- A slot that joins the Run List stands at its tail, was not on it, and is worked by no lane (R17). -/
theorem State.joinRun_eq (i : SlotNo) :
    s.joinRun i = { s with runList := if (s.slot i).eligible = true ∧ i ∉ s.runList ∧ s.worked i = false then s.runList ++ [i] else s.runList } := by
  unfold State.joinRun
  simp only [Bool.and_eq_true, Bool.not_eq_true', List.contains_eq_mem, decide_eq_false_iff_not, and_assoc]
  split <;> rfl

theorem State.joinRun_listsKept (i : SlotNo) : s.ListsKept (s.joinRun i) := fun h => by
  rw [s.joinRun_eq]
  split
  · rename_i e
    obtain ⟨-, out, idle⟩ := e
    exact {
      run_nodup := by simpa [List.nodup_append] using ⟨h.run_nodup, fun j hj (e : j = i) => out (e ▸ hj)⟩
      run_idle := fun j hj => by
        rcases List.mem_append.1 hj with hj | hj
        · exact h.run_idle j hj
        · rw [List.mem_singleton.1 hj]
          exact (s.worked_eq_false i).1 idle
      one_lane := h.one_lane
      slots := h.slots }
  · exact h

/-- An abort takes the slot's lists away and gives up its place on the Run List and its lane (R22, R30, R56). -/
theorem State.Aborts.listsKept {s t : State} {i : SlotNo} {r : AbortReason} (k : s.Aborts t i r) : s.ListsKept t := fun h => by
  have turn {n u} (e : (t.lanes.get n).turn = some u) : (s.lanes.get n).turn = some u := by
    rw [(k.others_worked n).1] at e
    exact (Option.filter_eq_some_iff.1 e).1
  exact {
    run_nodup := by rw [k.others_listed.1]; exact h.run_nodup.filter _
    run_idle := fun j hj n u e => h.run_idle j (by rw [k.others_listed.1] at hj; exact (List.mem_filter.1 hj).1) n u (turn e)
    one_lane := fun n m u v e f => h.one_lane n m u v (turn e) (turn f)
    slots := fun j => by
      by_cases e : j = i
      · subst e
        have l := h.slots j
        refine .of_empty k.emptied.1 (fun n => by rw [k.cells]) k.emptied.2.2 ?_
        rw [k.context]
        exact (Nat.sub_le _ _).trans l.prov_limit
      · rw [k.others j e]
        exact h.slots j }

theorem State.enterAborting_listsKept (i : SlotNo) (r : AbortReason) : s.ListsKept (s.enterAborting i r) := by
  by_cases e : (s.slot i).state.isLive = true
  · exact (s.enterAborting_aborts i r e).listsKept
  · unfold State.enterAborting
    rw [if_neg e]
    exact .refl s

theorem State.abortStream_listsKept (i : SlotNo) (r : AbortReason) : s.ListsKept (s.abortStream i r) :=
  s.endEvent_listsKept ((s.enterAborting_listsKept i r).trans (State.refresh_listsKept _ i))

theorem State.begun_listsKept : s.ListsKept s.begun := .of_same

theorem State.settled_listsKept : s.ListsKept s.settled :=
  (State.ListsKept.foldl (fun s i => s.abortStream_listsKept i .idle) _ s).trans (State.begun_listsKept _)

theorem State.editRecord_listsKept (r : Nat) (f : PoolRecord → PoolRecord) : s.ListsKept (s.editRecord r f) := by
  unfold State.editRecord
  split
  · exact .of_same
  · exact .refl s

theorem State.issueWithdraw_listsKept (r : Nat) : s.ListsKept (s.issueWithdraw r) := (s.editRecord_listsKept r _).trans .of_same

theorem State.dropWaiter_listsKept (r : Nat) (w : Waiter) : s.ListsKept (s.dropWaiter r w) := (s.editRecord_listsKept r _).trans .of_same

theorem State.resolveChunk_listsKept (i : SlotNo) (o : Nat) (v : Verdict) (n : Nat) (c : Cause) : s.ListsKept (s.resolveChunk i o v n c) :=
  (s.editSlot_listsKept .of_same).trans (State.decideState_listsKept _ i)

theorem State.resolveWaiter_listsKept (r : Nat) (w : Waiter) (v : Verdict) (n : Nat) (c : Cause) : s.ListsKept (s.resolveWaiter r w v n c) :=
  ((s.dropWaiter_listsKept r w).trans (.ite (fun _ => State.resolveChunk_listsKept _ _ _ _ _ _) fun _ => .refl _)).trans
    (State.dropInflight_listsKept _ _)

theorem State.discardWaiter_listsKept (r : Nat) (w : Waiter) : s.ListsKept (s.discardWaiter r w) :=
  (s.dropWaiter_listsKept r w).trans (State.dropInflight_listsKept _ _)

/-- Records that leave a provisional list lower the count by as many (R96). -/
theorem Slot.dropProv_listsKept (c : Slot) (r : Nat) : c.ListsKept (c.dropProv r) := by
  refine .of_prov (fun h => ?_) fun h => (Nat.sub_le _ _).trans h.prov_limit
  have total := c.provList.length_eq_length_filter_add (· == r)
  have le := h.prov_le
  simp only [Slot.dropProv, List.count, List.countP_eq_length_filter, bne] at *
  omega

/-! ### Answers and turns -/

theorem State.answer_listsKept (c : ReqNo) (st : Status) (r : Option ReqResult) : s.ListsKept (s.answer c st r) := by
  unfold State.answer
  refine .ite (fun _ => ?_) fun _ => .refl s
  split
  · exact .trans (.trans .of_same (State.post_listsKept _ _)) (State.joinLevel_listsKept _ _)
  · exact .refl s

theorem State.lane_setLane_of_ne (n m : LaneNo) (l : Lane) (h : m ≠ n) : (s.setLane n l).lanes.get m = s.lanes.get m :=
  Vector.getElem_set_ne n.isLt m.isLt fun e => h (Fin.ext e.symm)

/-- A lane that goes on with its slot, or with none, keeps the laws of the lanes. -/
theorem State.setLane_listsKept (n : LaneNo) (l : Lane) (h : ∀ t, l.turn = some t → ∃ u, (s.lanes.get n).turn = some u ∧ u.slot = t.slot) :
    s.ListsKept (s.setLane n l) := fun k => by
  have turn {m t} (e : ((s.setLane n l).lanes.get m).turn = some t) : ∃ u, (s.lanes.get m).turn = some u ∧ u.slot = t.slot := by
    by_cases f : m = n
    · subst f; rw [State.lane_setLane_self] at e; exact h t e
    · rw [s.lane_setLane_of_ne n m l f] at e; exact ⟨t, e, rfl⟩
  exact {
    run_nodup := k.run_nodup
    run_idle := fun i hi m t e => by
      obtain ⟨u, hu, e⟩ := turn e
      exact e ▸ k.run_idle i hi m u hu
    one_lane := fun m m' t t' e e' f => by
      obtain ⟨u, hu, e⟩ := turn e
      obtain ⟨u', hu', e'⟩ := turn e'
      exact k.one_lane m m' u u' hu hu' (e.trans (f.trans e'.symm))
    slots := k.slots }

theorem State.endTurn_listsKept (n : LaneNo) : s.ListsKept (s.endTurn n) := by
  unfold State.endTurn
  split
  · exact .refl s
  · exact (s.setLane_listsKept n _ (by simp)).trans (State.joinRun_listsKept _ _)

theorem State.enterFaulted_listsKept (c : FaultCause) : s.ListsKept (s.enterFaulted c) :=
  .ite (fun _ => .refl s) fun _ => .trans .of_same (.foldl (fun s n => s.endTurn_listsKept n) _ _)

/-! ### The Index Unit and the Provisional Pool (chapters 4 and 5) -/

theorem State.allocate_listsKept : s.ListsKept s.allocate.2 := by
  have k (d : State) (h : d = s ∨ d = { s with index := d.index }) : s.ListsKept d := by
    rcases h with h | h
    · exact h ▸ .refl s
    · rw [h]; exact .of_same
  refine k _ ?_
  unfold State.allocate
  dsimp only
  split
  · exact .inr rfl
  · split
    · split
      · exact .inl rfl
      · exact .inr rfl
    · exact .inl rfl

theorem State.waiterExhausted_listsKept (r : Nat) (w : Waiter) : s.ListsKept (s.waiterExhausted r w) :=
  (s.enterAborting_listsKept _ _).trans (State.discardWaiter_listsKept _ _ _)

theorem State.lossGive_listsKept (r : Nat) (w : Waiter) (a : Alloc) : s.ListsKept (s.lossGive r w a) := by
  cases a with
  | number n => exact .ite (fun _ => s.resolveWaiter_listsKept _ _ _ _ _) fun _ => s.discardWaiter_listsKept _ _
  | exhausted => exact s.waiterExhausted_listsKept r w
  | wait => exact .refl s

theorem State.lossWaiters_listsKept (r : Nat) (ws : List Waiter) : s.ListsKept (s.lossWaiters r ws).1 := by
  induction ws generalizing s with
  | nil => exact .refl s
  | cons w ws ih =>
    unfold State.lossWaiters
    have h := s.allocate_listsKept
    split
    · rename_i e; rw [e] at h; exact h
    · rename_i e; rw [e] at h; exact (h.trans (State.lossGive_listsKept _ _ _ _)).trans (ih _)

theorem State.discardAborting_listsKept (r : Nat) : s.ListsKept (s.discardAborting r) :=
  .foldl (fun s w => .ite (fun _ => s.discardWaiter_listsKept r w) fun _ => .refl s) _ s

theorem State.loseRecord_listsKept (r : Nat) (p : PoolRecord) : s.ListsKept (s.loseRecord r p) := by
  unfold State.loseRecord
  dsimp only
  split
  · exact .trans (t := s.editSlot p.owner fun c => c.dropProv r) (s.editSlot_listsKept (Slot.dropProv_listsKept _ r)) .of_same
  · exact .of_same

theorem State.endLoss_listsKept (r : Nat) (b : Bool) : s.ListsKept (s.endLoss r b) := .ite (fun _ => .of_same) fun _ => .refl s

theorem State.destroyWay_listsKept (b : Nat) (w : WayNo) : s.ListsKept (s.destroyWay b w) := by
  unfold State.destroyWay
  have h : s.ListsKept ((s.emptyWay b w).editStats fun t => { t with uncorrected := sat32 (t.uncorrected + 1) }).setError :=
    .trans .of_same (State.setError_listsKept _)
  exact .ite (fun _ => h.trans .of_same) fun _ => h

theorem State.checkWays_listsKept (b : Nat) (ws : List (WayNo × Ecc)) : s.ListsKept (s.checkWays b ws).1 := by
  induction ws generalizing s with
  | nil => exact .refl s
  | cons a ws ih =>
    obtain ⟨w, e⟩ := a
    unfold State.checkWays
    cases e with
    | clean => exact ih s
    | correctable => exact .trans .of_same (ih _)
    | uncorrectable =>
      refine (s.destroyWay_listsKept b w).trans ?_
      dsimp only
      split
      · rename_i r p _ _
        refine ((State.loseRecord_listsKept _ r p).trans (State.discardAborting_listsKept _ r)).trans ?_
        have l := State.lossWaiters_listsKept (((s.destroyWay b w).loseRecord r p).discardAborting r) r
          ((((s.destroyWay b w).loseRecord r p).discardAborting r).waitersOf r)
        split
        · rename_i e; rw [e] at l; exact (l.trans (State.endLoss_listsKept _ _ _)).trans (ih _)
        · rename_i e; rw [e] at l; exact l
      · exact ih _

/-! ### LOOKUP_INSERT (R72 to R75, R94, R95, R99) -/

theorem State.takeResolved_listsKept (l : Lookup) (v : Verdict) (n : Nat) (c : Cause) : s.ListsKept (s.takeResolved l v n c) :=
  .trans (.ite (fun _ => s.resolveChunk_listsKept _ _ _ _ _) fun _ => .refl s) (State.dropInflight_listsKept _ _)

/-- A record joins a provisional list once (R95). -/
theorem State.joinProvList_length (r o : Nat) (qs : List Nat) : (s.joinProvList r o qs).length = qs.length + 1 := by
  induction qs with
  | nil => rfl
  | cons q qs ih =>
    unfold State.joinProvList
    split
    · split <;> simp [ih]
    · simp [ih]

/-- A lookup that has inserted an entry holds a record counted for its stream and not yet listed: it is listed, or given up (R95). -/
theorem State.takeNew_listsKept (l : Lookup) (n r : Nat) (granted : (s.slot l.slot).provList.length < (s.slot l.slot).provCount) :
    s.ListsKept (s.takeOutcome l (.new n r)) := by
  simp only [State.takeOutcome]
  refine State.ListsKept.trans ?_ (State.takeResolved_listsKept _ _ _ _ _)
  split
  · refine s.editSlot_listsKept (.of_prov (fun _ => ?_) fun h => h.prov_limit)
    simpa [State.joinProvList_length] using granted
  · refine (s.editSlot_listsKept (.of_prov (fun _ => ?_) fun h => (Nat.sub_le _ _).trans h.prov_limit)).trans (State.issueWithdraw_listsKept _ r)
    simpa using Nat.le_sub_one_of_lt granted

theorem State.takeOutcome_listsKept (l : Lookup) (o : LookupOutcome)
    (granted : ∀ n r, o = .new n r → (s.slot l.slot).provList.length < (s.slot l.slot).provCount) : s.ListsKept (s.takeOutcome l o) := by
  cases o with
  | dup n => exact s.takeResolved_listsKept _ _ _ _
  | conflict n => exact s.takeResolved_listsKept _ _ _ _
  | unindexed n c => exact s.takeResolved_listsKept _ _ _ _
  | new n r => exact s.takeNew_listsKept l n r (granted n r rfl)
  | held r =>
    simp only [State.takeOutcome]
    split
    · exact ((s.editRecord_listsKept r _).trans (State.editSlot_listsKept _ .of_same)).trans (State.decideState_listsKept _ _)
    · exact s.dropInflight_listsKept _
  | numbers => exact (s.enterAborting_listsKept _ _).trans (State.dropInflight_listsKept _ _)

theorem State.endLookup_listsKept (l : Lookup) (o : LookupOutcome)
    (granted : ∀ n r, o = .new n r → (s.slot l.slot).provList.length < (s.slot l.slot).provCount) : s.ListsKept (s.endLookup l o) := by
  unfold State.endLookup
  refine State.ListsKept.trans (t := s.editStats o.count) .of_same ?_
  dsimp only
  split
  · exact (State.setError_listsKept _).trans (State.takeOutcome_listsKept _ _ _ (by simp))
  all_goals exact State.takeOutcome_listsKept _ _ _ granted

@[simp] theorem State.slot_setRecord (r : Nat) (p : PoolRecord) (i : SlotNo) : (s.setRecord r p).slot i = s.slot i := rfl

/-- A record granted is counted for its stream before it is listed (R94). -/
theorem State.grant_lists {l : Lookup} {b : Nat} {w : WayNo} {r : Nat} {t : State} (e : s.grant l b w = some (r, t)) (h : s.ListsOk) :
    t.ListsOk ∧ (t.slot l.slot).provList.length < (t.slot l.slot).provCount := by
  unfold State.grant at e
  dsimp only at e
  split at e
  · rename_i below
    cases e
    refine ⟨State.editSlot_listsKept _ (.of_prov (fun h => h.prov_le.trans (Nat.le_succ _)) fun _ => below.2) ?_, ?_⟩
    · exact State.ListsKept.of_same (s := s) rfl rfl rfl h
    · simpa using Nat.lt_succ_of_le (h.slots l.slot).prov_le
  · cases e

theorem State.lookupNumber_listsKept (l : Lookup) (b : Nat) (u : NumberUse) (a : Alloc) : s.ListsKept (s.lookupNumber l b u a) := by
  unfold State.lookupNumber
  split
  · exact .refl s
  · exact s.endLookup_listsKept _ _ (by simp)
  · split
    · exact s.endLookup_listsKept _ _ (by simp)
    · exact s.endLookup_listsKept _ _ (by simp)
    · exact s.endLookup_listsKept _ _ (by simp)
    · split
      · exact s.endLookup_listsKept _ _ (by simp)
      · split
        · exact s.endLookup_listsKept _ _ (by simp)
        · rename_i r u e
          intro h
          obtain ⟨ok, granted⟩ := s.grant_lists e h
          exact State.endLookup_listsKept _ _ _ (fun _ _ _ => granted) (State.ListsKept.of_same (s := u) rfl rfl rfl ok)

theorem State.runLookup_listsKept (l : Lookup) (b : Nat) : s.ListsKept (s.runLookup l b).1 := by
  unfold State.runLookup
  split
  · rename_i o w e need
    refine .trans .of_same (State.endLookup_listsKept _ _ _ ?_)
    rintro n r rfl
    unfold State.decideLookup at need
    split at need
    · split at need
      · cases need
      · split at need
        · cases need
        · split at need
          · split at need <;> cases need
          · cases need
    · split at need
      · cases need
      · split at need <;> cases need
  · have h := s.allocate_listsKept
    split
    · rename_i e; rw [e] at h; exact h
    · rename_i e; rw [e] at h; exact h.trans (State.lookupNumber_listsKept _ _ _ _ _)

/-! ### FIRM, WITHDRAW, SEED, RETIRE and SCAN -/

theorem State.endFirm_listsKept (i : SlotNo) : s.ListsKept (s.endFirm i) := (s.dropInflight_listsKept i).trans (State.tryClose_listsKept _ i)

theorem State.resolveAll_listsKept (r n : Nat) (v : Verdict) (c : Cause) (ws : List Waiter) :
    s.ListsKept (ws.foldl (fun s w => s.resolveWaiter r w v n c) s) :=
  .foldl (fun s w => s.resolveWaiter_listsKept r w v n c) ws s

theorem State.runFirm_listsKept (r : Nat) : s.ListsKept (s.runFirm r) := by
  unfold State.runFirm
  split
  · exact .refl s
  · split
    · exact .trans .of_same (State.endFirm_listsKept _ _)
    · exact .refl s
    · rename_i p _ _ _ e _ _
      dsimp only
      have h : s.ListsKept ((s.writeEntry p.bucket p.way { e with state := .firm }).editStats fun t => { t with firms := sat48 (t.firms + 1) }) :=
        .of_same
      generalize (s.writeEntry p.bucket p.way { e with state := .firm }).editStats _ = t at h
      have k := h.trans (t.resolveAll_listsKept r e.number .dup .none p.waiters)
      generalize p.waiters.foldl _ t = u at k
      exact k.trans (.trans .of_same (State.endFirm_listsKept _ _))

/-- A waiter takes an entry over where its stream's provisional count is below the limit (R108). -/
theorem State.takeover_listsKept (r : Nat) (p : PoolRecord) (e : Entry) (w : Waiter) (n : Nat)
    (below : (s.slot w.slot).provCount < (s.slot w.slot).cls.provisionalLimit) : s.ListsKept (s.takeover r p e w n) := by
  unfold State.takeover
  dsimp only
  refine State.ListsKept.trans ?_ (State.resolveAll_listsKept _ _ _ _ _ _)
  refine State.ListsKept.trans (State.ListsKept.trans ?_ (State.resolveWaiter_listsKept _ r w .new n .none)) (State.editStats_listsKept _ _)
  generalize hu : (s.writeEntry p.bucket p.way
    { e with state := .provisional w.slot w.ordinal, number := n, lastHit := s.index.copy.epoch }).editRecord r _ = u
  have slots : u.slots = s.slots := by
    rw [← hu]
    unfold State.editRecord
    split <;> rfl
  have kept : s.ListsKept u := hu ▸ .trans .of_same (State.editRecord_listsKept _ _ _)
  refine kept.trans (State.editSlot_listsKept _ (.of_prov (fun h => ?_) fun _ => ?_))
  · simpa [State.joinProvList_length] using h.prov_le
  · simpa [State.slot, slots] using below

theorem State.examine_listsKept (r : Nat) (w : Waiter) (a : Alloc) : s.ListsKept (s.examine r w a).2 := by
  unfold State.examine
  split
  · exact .refl s
  · exact s.waiterExhausted_listsKept r w
  · dsimp only
    split
    · exact s.discardWaiter_listsKept r w
    · split
      · rename_i below
        split
        · exact .refl s
        · split
          · exact s.resolveWaiter_listsKept _ _ _ _ _
          · exact s.takeover_listsKept _ _ _ _ _ below
      · exact s.resolveWaiter_listsKept _ _ _ _ _

theorem State.walk_listsKept (r : Nat) (ws : List Waiter) : s.ListsKept (s.walk r ws).2 := by
  induction ws generalizing s with
  | nil => exact .refl s
  | cons w ws ih =>
    unfold State.walk
    have h := s.allocate_listsKept
    split
    · rename_i e; rw [e] at h; exact h
    · rename_i a t _ e
      rw [e] at h
      have k := State.examine_listsKept t r w a
      split
      · rename_i f; rw [f] at k; exact h.trans k
      · rename_i f; rw [f] at k; exact (h.trans k).trans (ih _)

theorem State.endUnowned_listsKept (r : Nat) : s.ListsKept (s.endUnowned r) := by
  unfold State.endUnowned
  split
  · exact .refl s
  · exact .of_same

theorem State.endWalk_listsKept (r : Nat) (x : WalkEnd × State) (h : s.ListsKept x.2) : s.ListsKept (State.endWalk r x).1 := by
  obtain ⟨e, t⟩ := x
  cases e with
  | owner => exact State.ListsKept.trans (t := t) h .of_same
  | noOwner => exact (State.ListsKept.trans (t := t) h (t.endUnowned_listsKept r)).trans .of_same
  | halted w => exact h

theorem State.runWithdraw_listsKept (r : Nat) : s.ListsKept (s.runWithdraw r).1 := by
  unfold State.runWithdraw
  split
  · exact .refl s
  · dsimp only
    split
    · exact .of_same
    split
    · exact .refl s
    · exact s.endWalk_listsKept r _ ((s.discardAborting_listsKept r).trans (State.walk_listsKept _ r _))

theorem State.runSeed_listsKept (o : SeedOp) (b : Nat) : s.ListsKept (s.runSeed o b) := by
  unfold State.runSeed
  refine s.refreshAll_listsKept.trans ?_
  generalize s.refreshAll = s
  dsimp only
  split
  · split
    · exact s.answer_listsKept _ _ _
    · split
      · exact .trans .of_same (State.answer_listsKept _ _ _ _)
      · exact s.answer_listsKept _ _ _
  · split
    · exact s.answer_listsKept _ _ _
    · exact .trans .of_same (State.answer_listsKept _ _ _ _)

theorem State.runRetire_listsKept (o : RetireOp) (b : Nat) : s.ListsKept (s.runRetire o b) := by
  unfold State.runRetire
  refine s.refreshAll_listsKept.trans ?_
  generalize s.refreshAll = s
  dsimp only
  split
  · exact s.answer_listsKept _ _ _
  · split
    · exact s.answer_listsKept _ _ _
    · split
      · exact s.answer_listsKept _ _ _
      · split
        · exact s.answer_listsKept _ _ _
        · exact .trans .of_same (State.answer_listsKept _ _ _ _)

theorem State.scanWay_listsKept (b : Nat) (w : WayNo) : s.ListsKept (s.scanWay b w) := by
  unfold State.scanWay
  split
  · exact .refl s
  · split <;> exact .of_same

theorem State.runScan_listsKept (b : Nat) : s.ListsKept (s.runScan b) := by
  unfold State.runScan
  have h := State.ListsKept.foldl (fun s w => s.scanWay_listsKept b w) (List.finRange 16) s
  dsimp only
  generalize List.foldl (fun s w => s.scanWay b w) s (List.finRange 16) = t at h
  exact h.trans .of_same

theorem State.runBody_listsKept (op : Op) : s.ListsKept (s.runBody op).1 := by
  unfold State.runBody
  split
  · exact s.runLookup_listsKept _ _
  · exact s.runFirm_listsKept _
  · exact s.runWithdraw_listsKept _
  · exact s.runSeed_listsKept _ _
  · exact s.runRetire_listsKept _ _
  · exact s.runScan_listsKept _

theorem State.runFrom_listsKept (op : Op) (ws : List (WayNo × Ecc)) : s.ListsKept (s.runFrom op ws).1 := by
  unfold State.runFrom
  have h := s.checkWays_listsKept op.bucket ws
  split
  · rename_i e; rw [e] at h; exact h.trans (State.runBody_listsKept _ op)
  · rename_i e; rw [e] at h; exact h

theorem State.settleOp_listsKept (k : OpKey) (x : RunEnd) (h : s.ListsKept x.1) : s.ListsKept (State.settleOp k x) := by
  obtain ⟨t, e⟩ := x
  cases e <;> exact State.ListsKept.trans (t := t) h .of_same

theorem State.carryOut_listsKept (op : Op) (ecc : Vector Ecc 16) : s.ListsKept (s.carryOut op ecc) :=
  (State.settleOp_listsKept s _ _ (s.runFrom_listsKept _ _)).trans (State.refreshAll_listsKept _)

theorem State.goOn_listsKept (op : Op) (a : Alloc) : s.ListsKept (s.goOn op a).1 := by
  unfold State.goOn
  split
  · exact .refl s
  · split
    · exact .refl s
    · split
      · split
        · exact s.lookupNumber_listsKept _ _ _ _
        all_goals exact .refl s
      · rename_i r w _
        split
        · have k := s.examine_listsKept r w a
          split
          · rename_i f; rw [f] at k; exact s.endWalk_listsKept r _ k
          · rename_i f; rw [f] at k; exact s.endWalk_listsKept r _ (k.trans (State.walk_listsKept _ r _))
        · exact s.endWalk_listsKept r _ (s.walk_listsKept r _)
      · rename_i r live w rest _
        dsimp only
        have h0 : s.ListsKept (if s.stillWaits r w then s.lossGive r w a else s) := .ite (fun _ => s.lossGive_listsKept r w a) fun _ => .refl s
        generalize (if s.stillWaits r w then s.lossGive r w a else s) = t at h0
        have k := State.lossWaiters_listsKept t r (t.waitersOf r)
        split
        · rename_i f; rw [f] at k; exact ((h0.trans k).trans (State.endLoss_listsKept _ _ _)).trans (State.runFrom_listsKept _ _ _)
        · rename_i f; rw [f] at k; exact h0.trans k

theorem State.allocateAll_listsKept (ks : List OpKey) : s.ListsKept (s.allocateAll ks).2 := by
  induction ks generalizing s with
  | nil => exact .refl s
  | cons k ks ih => exact s.allocate_listsKept.trans (ih _)

theorem State.resume_listsKept (k : OpKey) (a : Alloc) : s.ListsKept (s.resume k a) := by
  unfold State.resume
  split
  · exact .refl s
  · exact State.settleOp_listsKept s _ _ (s.goOn_listsKept _ _)

theorem State.resumeAll_listsKept : s.ListsKept s.resumeAll := by
  unfold State.resumeAll
  dsimp only
  refine State.ListsKept.trans ?_ (State.refreshAll_listsKept _)
  refine State.ListsKept.trans ?_ (.foldl (fun (s : State) (p : OpKey × Alloc) => s.resume_listsKept p.1 p.2) _ _)
  exact .trans .of_same (State.allocateAll_listsKept _ _)

end Sys2Proof.Machine

namespace Sys2Proof.Machine

set_option Elab.async false

variable (s : State)

/-! ### What the passages of a slot do to its context -/

/-- A state is decided again for an open slot only, and the Consumed Offset last written is all that may change beside it (R26, R46). -/
theorem State.decideState_spec (i : SlotNo) :
    s.SlotsAndPort (s.decideState i) ∧
    (s.decideState i).slot i = { s.slot i with
      state := if (s.slot i).state.isOpen = true then (s.slot i).decided else (s.slot i).state, shown := ((s.decideState i).slot i).shown } ∧
    ∀ j, j ≠ i → (s.decideState i).slot j = s.slot j := by
  unfold State.decideState
  dsimp only
  by_cases o : (s.slot i).state.isOpen = true
  · by_cases d : (s.slot i).decided = (s.slot i).state
    · rw [if_neg (by simp [d])]
      exact ⟨rfl, by simp [d], fun _ _ => rfl⟩
    · rw [if_pos ⟨o, d⟩, if_pos o]
      obtain ⟨rest, self, others⟩ := s.setSlotState_spec i (s.slot i).decided
      exact ⟨rest, by rw [self], others⟩
  · rw [if_neg (by simp [o]), if_neg o]
    exact ⟨rfl, rfl, fun _ _ => rfl⟩

/-- The state decided depends on the pending chunk list and the counters of the recipe area alone (R26). -/
theorem Slot.decided_congr {c d : Slot} (pending : d.pending = c.pending := by rfl) (written : d.written = c.written := by rfl)
    (taken : d.taken = c.taken := by rfl) (areaSize : d.areaSize = c.areaSize := by rfl) : d.decided = c.decided := by
  simp only [Slot.decided, pending, written, taken, areaSize]

/-! ### The chunker (chapter 1) -/

/-- The context of a slot whose open chunk becomes a pending chunk (R6). -/
def Slot.cut (c : Slot) : Slot := { c with pending := c.pending ++ [c.openChunk], chunker := c.chunker.nextChunk }

/-- A boundary: the pending chunk is appended, its lookup joins the Lookup Queue, and the state of an open slot is decided again (R6, R21, R26). -/
theorem State.cutChunk_spec (i : SlotNo) :
    s.cutChunk i = { s with slots := (s.cutChunk i).slots, port := (s.cutChunk i).port,
                            lookups := s.lookups ++ [lookupOf i (s.slot i).openChunk] } ∧
    (s.cutChunk i).slot i = { (s.slot i).cut with
      state := if (s.slot i).state.isOpen = true then (s.slot i).cut.decided else (s.slot i).state, shown := ((s.cutChunk i).slot i).shown } ∧
    ∀ j, j ≠ i → (s.cutChunk i).slot j = s.slot j := by
  unfold State.cutChunk
  dsimp only
  generalize hu : State.editSlot _ i _ = u
  have self : u.slot i = (s.slot i).cut := by rw [← hu, State.slot_editSlot_self]; rfl
  obtain ⟨rest, decided, others⟩ := u.decideState_spec i
  rw [self] at decided
  refine ⟨?_, ?_, fun j e => ?_⟩
  · rw [rest, ← hu]; rfl
  · exact decided
  · rw [others j e, ← hu]
    exact State.slot_editSlot_of_ne _ i j _ e

/-- The Finished mark is due: the Final Offset is known and reached and no byte is open (R8). -/
def Slot.finishes (c : Slot) : Bool := c.final == some c.consumed && c.chunker.len == 0

/-- The context of a slot once the Finished mark is decided. -/
def Slot.marked (c : Slot) : Slot := { c with chunker := { c.chunker with finished := c.chunker.finished || c.finishes } }

theorem Slot.marked_of_not {c : Slot} (h : c.finishes = false) : c.marked = c := by simp [Slot.marked, h]

theorem State.setSlot_slot (i : SlotNo) : s.setSlot i (s.slot i) = s := by
  have : s.slots.set i (s.slot i) = s.slots := Vector.set_getElem_self i.isLt
  simp only [State.setSlot, this]

theorem State.markFinished_eq (i : SlotNo) : s.markFinished i = s.setSlot i (s.slot i).marked := by
  unfold State.markFinished
  dsimp only
  by_cases h : (s.slot i).finishes = true
  · rw [if_pos (by simpa [Slot.finishes] using h)]
    simp [State.editSlot, Slot.marked, h]
  · rw [if_neg (by simpa [Slot.finishes] using h), Slot.marked_of_not (by simpa using h), s.setSlot_slot]

/-- Where the stream's end has not come, or the final chunk has no room and bytes are open, nothing is done (R7, R8). -/
theorem State.endStream_of_not (i : SlotNo) (h : (s.slot i).final ≠ some (s.slot i).consumed) : s.endStream i = s := by
  have due : (s.slot i).finalDue = false := by simp [Slot.finalDue, h]
  have fin : (s.slot i).finishes = false := by simp [Slot.finishes, h]
  simp [State.endStream, due, s.markFinished_eq, Slot.marked_of_not fin, s.setSlot_slot]

/-- Chunks have been found in a stream: the pending chunks `ps` are appended with their lookups, and of the context only the chunker, the state and the Consumed
Offset last written follow (R6, R7, R8, R21, R26). -/
structure State.Chunks (s t : State) (i : SlotNo) (ps : List PendingChunk) : Prop where
  rest : t = { s with slots := t.slots, port := t.port, lookups := s.lookups ++ ps.map (lookupOf i) }
  self : t.slot i = { s.slot i with
    pending := (s.slot i).pending ++ ps, chunker := (t.slot i).chunker, state := (t.slot i).state, shown := (t.slot i).shown }
  others : ∀ j, j ≠ i → t.slot j = s.slot j
  looking : ∀ p ∈ ps, p.cond = .looking
  isOpen : (t.slot i).state.isOpen = (s.slot i).state.isOpen

theorem State.Chunks.refl (i : SlotNo) : s.Chunks s i [] := ⟨by simp, by simp, fun _ _ => rfl, by simp, rfl⟩

theorem State.Chunks.trans {s t u : State} {i : SlotNo} {ps qs : List PendingChunk} (h : s.Chunks t i ps) (k : t.Chunks u i qs) :
    s.Chunks u i (ps ++ qs) where
  rest := by rw [k.rest, h.rest]; simp
  self := by rw [k.self, h.self]; simp
  others := fun j e => (k.others j e).trans (h.others j e)
  looking := fun p hp => (List.mem_append.1 hp).elim (h.looking p) (k.looking p)
  isOpen := k.isOpen.trans h.isOpen

theorem Slot.decided_isOpen (c : Slot) : c.decided.isOpen = true := by
  unfold Slot.decided
  split
  · rfl
  · split
    · rfl
    · split <;> rfl
    · rfl

theorem State.cutChunk_chunks (i : SlotNo) : s.Chunks (s.cutChunk i) i [(s.slot i).openChunk] := by
  obtain ⟨rest, self, others⟩ := s.cutChunk_spec i
  refine ⟨rest, by rw [self]; rfl, others, by simp [Slot.openChunk], ?_⟩
  rw [self]
  dsimp only
  split
  · rename_i o
    rw [o, Slot.decided_isOpen]
  · rfl

theorem State.markFinished_chunks (i : SlotNo) : s.Chunks (s.markFinished i) i [] := by
  rw [s.markFinished_eq]
  exact ⟨by simp [State.setSlot], by simp [Slot.marked], fun j e => by simp [e], by simp, by simp [Slot.marked]⟩

theorem State.endStream_chunks (i : SlotNo) : ∃ ps, s.Chunks (s.endStream i) i ps := by
  unfold State.endStream
  dsimp only
  split
  · exact ⟨_, (s.cutChunk_chunks i).trans (State.markFinished_chunks _ i)⟩
  · exact ⟨_, s.markFinished_chunks i⟩

/-- The context of a slot that takes a byte, before the boundary test (R2, R3, R43). -/
def Slot.takeByte (c : Slot) (b : Byte) : Slot :=
  { c with consumed := c.consumed + 1, stats := { c.stats with bytes := sat48 (c.stats.bytes + 1) }, chunker := c.chunker.take b }

/-- A byte is taken into the context, and a chunk may end after it, or the stream (R2, R3, R4, R7, R8). -/
theorem State.chunkByte_eq (i : SlotNo) (b : Byte) :
    s.chunkByte i b =
      (if boundary (s.slot i).cls ((s.slot i).chunker.take b).len ((s.slot i).chunker.take b).hash = true then
        (s.setSlot i ((s.slot i).takeByte b)).cutChunk i else s.setSlot i ((s.slot i).takeByte b)).endStream i := by
  unfold State.chunkByte
  simp only [State.slot_editSlot_self]
  rfl

theorem State.chunkByte_chunks (i : SlotNo) (b : Byte) : ∃ ps, (s.setSlot i ((s.slot i).takeByte b)).Chunks (s.chunkByte i b) i ps := by
  rw [s.chunkByte_eq]
  split
  · obtain ⟨ps, h⟩ := State.endStream_chunks ((s.setSlot i ((s.slot i).takeByte b)).cutChunk i) i
    exact ⟨_, (State.cutChunk_chunks _ i).trans h⟩
  · exact State.endStream_chunks _ i

/-- A byte that ends neither a chunk nor the stream is in the open chunk, and nothing else comes of it (R2, R3). -/
theorem State.chunkByte_of_open (i : SlotNo) (b : Byte)
    (inside : boundary (s.slot i).cls ((s.slot i).chunker.take b).len ((s.slot i).chunker.take b).hash = false)
    (more : (s.slot i).final ≠ some ((s.slot i).consumed + 1)) : s.chunkByte i b = s.setSlot i ((s.slot i).takeByte b) := by
  rw [s.chunkByte_eq, if_neg (by simp [inside])]
  exact State.endStream_of_not _ i (by simpa [Slot.takeByte] using more)

/-- The end of a stream at a final chunk that is due and has room (R7, R8). -/
theorem State.endStream_of_due (i : SlotNo) (due : (s.slot i).finalDue = true) (room : (s.slot i).pending.length < 8) :
    s.endStream i = (s.cutChunk i).setSlot i ((s.cutChunk i).slot i).marked := by
  simp [State.endStream, due, room, State.markFinished_eq]

/-- The end of a stream with no byte open: the Finished mark alone is decided (R8). -/
theorem State.endStream_of_empty (i : SlotNo) (h : (s.slot i).chunker.len = 0) : s.endStream i = s.setSlot i (s.slot i).marked := by
  simp [State.endStream, Slot.finalDue, h, State.markFinished_eq]

/-- The chunker behind a chunk that has been cut, its Finished mark decided (R6, R8). -/
theorem State.cutChunk_marked_chunker (i : SlotNo) :
    ((s.cutChunk i).slot i).marked.chunker = { (s.slot i).chunker.nextChunk with
      finished := (s.slot i).chunker.finished || decide ((s.slot i).final = some (s.slot i).consumed) } := by
  rw [(s.cutChunk_spec i).2.1]
  simp [Slot.marked, Slot.finishes, Slot.cut, Chunker.nextChunk, beq_eq_decide]

/-- Settles O29: where the byte ends a chunk or the stream, one chunk is cut from the context with the byte in it; else none is. -/
theorem boundaryMakesAPendingChunk : Obligations.BoundaryMakesAPendingChunk := by
  rintro s t i b h p rfl rfl rfl
  have taken : (s.setSlot i ((s.slot i).takeByte b)).slot i = (s.slot i).takeByte b := s.slot_setSlot_self i _
  refine ⟨?_, ?_, fun ends => ?_, fun inside more => ?_⟩
  · obtain ⟨ps, k⟩ := s.chunkByte_chunks i b
    rw [k.self, taken]; rfl
  · obtain ⟨ps, k⟩ := s.chunkByte_chunks i b
    rw [k.self, taken]; rfl
  · generalize hu : s.setSlot i ((s.slot i).takeByte b) = u at taken
    have cut : s.chunkByte i b = (u.cutChunk i).setSlot i ((u.cutChunk i).slot i).marked := by
      rw [s.chunkByte_eq, hu]
      split
      · exact State.endStream_of_empty _ i (by rw [(u.cutChunk_spec i).2.1]; rfl)
      · rename_i inside
        obtain ⟨final, room⟩ := ends.resolve_left inside
        exact u.endStream_of_due i (by simp [taken, Slot.takeByte, Slot.finalDue, Chunker.take, final]) (by simpa [taken, Slot.takeByte] using room)
    have k := u.cutChunk_chunks i
    rw [cut]
    refine ⟨?_, ?_, ?_⟩
    · rw [State.slot_setSlot_self, Slot.marked, k.self, taken]; rfl
    · rw [State.setSlot_lookups, k.rest, taken, ← hu]; rfl
    · rw [State.slot_setSlot_self, State.cutChunk_marked_chunker, taken]; rfl
  · rw [s.chunkByte_of_open i b inside more, taken]
    exact ⟨rfl, rfl, rfl⟩

end Sys2Proof.Machine

namespace Sys2Proof.Machine

set_option Elab.async false

variable (s : State)

/-! ### The writes of an event -/

theorem State.Writes.refl : s.Writes s [] := ⟨by simp, rfl⟩

theorem State.Writes.trans {s t u : State} {ws vs : List HostWrite} (h : s.Writes t ws) (k : t.Writes u vs) (area : t.ctl.area = s.ctl.area) :
    s.Writes u (ws ++ vs) :=
  ⟨by rw [k.1, h.1, area]; simp, k.2.trans h.2⟩

theorem State.post_writes (ws : List HostWrite) (m : s.mayWrite = true) : s.Writes (s.post ws) ws := by
  rw [s.post_of_mayWrite ws m]
  exact ⟨rfl, rfl⟩

/-! ### Segments that leave (R50, R57) -/

/-- The Resent Bytes after segments have left: of each, the bytes not taken from it (R43, R50). -/
def resentAfter (gs : List Segment) (n : Nat) : Nat := gs.foldl (fun x g => sat48 (x + (g.length - g.count))) n

/-- The status that answers a segment that leaves (R50). -/
def Segment.leaves (g : Segment) : CellStatus := if g.count = 0 then .resent else .done

/-- The record of a cell that is answered as its segment leaves (R47, R50). -/
def Segment.record (g : Segment) : CellRecord := { done := g.tag, status := g.leaves, queued := none }

/-- The two writes that answer a segment that leaves (R50). -/
def Segment.writes (i : SlotNo) (g : Segment) : List HostWrite := [.cellStatus i g.cell g.leaves, .cellTag i g.cell g.tag]

theorem get_set_self {α : Type} {n : Nat} (v : Vector α n) (k : Fin n) (x : α) : (v.set k x).get k = x := Vector.getElem_set_self k.isLt

theorem get_set_of_ne {α : Type} {n : Nat} (v : Vector α n) {k m : Fin n} (x : α) (h : m ≠ k) : (v.set k x).get m = v.get m :=
  Vector.getElem_set_ne k.isLt m.isLt fun e => h (Fin.ext e.symm)

/-- A cell is answered: its record, and the two writes (R47, R50). -/
theorem State.answerCell_spec (i : SlotNo) (n : CellNo) (tag : Tag) (st : CellStatus) :
    s.SlotsAndPort (s.answerCell i n tag st) ∧
    (s.answerCell i n tag st).slot i = { s.slot i with cells := (s.slot i).cells.set n { done := tag, status := st, queued := none } } ∧
    (∀ j, j ≠ i → (s.answerCell i n tag st).slot j = s.slot j) ∧
    (s.mayWrite = true → s.Writes (s.answerCell i n tag st) [.cellStatus i n st, .cellTag i n tag]) := by
  unfold State.answerCell
  exact ⟨(s.editSlot_slotsAndPort i _).trans (State.post_slotsAndPort _ _), by simp, fun j e => by simp [e],
    fun m => State.Writes.trans (ws := []) ⟨by simp, rfl⟩ (State.post_writes _ _ m) rfl⟩

/-- What the answers to segments that leave do, but for the cells: the Resent Bytes and the writes, in the segments' order. -/
theorem State.answerLeaving_spec (i : SlotNo) (gs : List Segment) :
    s.SlotsAndPort (s.answerLeaving i gs) ∧
    (s.answerLeaving i gs).slot i = { s.slot i with
      cells := ((s.answerLeaving i gs).slot i).cells, stats := { (s.slot i).stats with resent := resentAfter gs (s.slot i).stats.resent } } ∧
    (∀ j, j ≠ i → (s.answerLeaving i gs).slot j = s.slot j) ∧
    (s.mayWrite = true → s.Writes (s.answerLeaving i gs) (gs.flatMap (Segment.writes i))) := by
  induction gs generalizing s with
  | nil => exact ⟨rfl, rfl, fun _ _ => rfl, fun _ => .refl s⟩
  | cons g gs ih =>
    unfold State.answerLeaving
    dsimp only
    generalize hu : s.editSlot i _ = u
    have uself : u.slot i = { s.slot i with stats := { (s.slot i).stats with resent := sat48 ((s.slot i).stats.resent + (g.length - g.count)) } } := by
      rw [← hu]; exact s.slot_editSlot_self i _
    have urest : s.SlotsAndPort u := hu ▸ s.editSlot_slotsAndPort i _
    obtain ⟨arest, aself, aothers, awrites⟩ := u.answerCell_spec i g.cell g.tag g.leaves
    obtain ⟨rest, self, others, writes⟩ := ih (u.answerCell i g.cell g.tag g.leaves)
    have au := urest.trans arest
    refine ⟨au.trans rest, ?_, fun j e => ?_, fun m => ?_⟩
    · refine self.trans ?_
      rw [aself, uself]
      rfl
    · refine (others j e).trans ((aothers j e).trans ?_)
      rw [← hu]; exact s.slot_editSlot_of_ne i j _ e
    · refine State.Writes.trans (t := u.answerCell i g.cell g.tag g.leaves) (ws := g.writes i) ?_ (writes (au.mayWrite.trans m)) (by rw [au])
      rw [← hu] at awrites ⊢
      exact awrites m

/-- A cell of none of the segments that leave keeps its record. -/
theorem State.answerLeaving_cells_other (i : SlotNo) (gs : List Segment) (m : CellNo) (h : ∀ g ∈ gs, g.cell ≠ m) :
    ((s.answerLeaving i gs).slot i).cells.get m = (s.slot i).cells.get m := by
  induction gs generalizing s with
  | nil => rfl
  | cons g gs ih =>
    unfold State.answerLeaving
    dsimp only
    rw [ih _ fun x hx => h x (List.mem_cons_of_mem _ hx), (State.answerCell_spec _ _ _ _ _).2.1, State.slot_editSlot_self]
    exact get_set_of_ne _ _ (h g List.mem_cons_self).symm

/-- The cell of a segment that leaves is answered for it, where no two are of one cell (R47, R50). -/
theorem State.answerLeaving_cells (i : SlotNo) (gs : List Segment) (distinct : (gs.map Segment.cell).Nodup) (g : Segment) (h : g ∈ gs) :
    ((s.answerLeaving i gs).slot i).cells.get g.cell = g.record := by
  induction gs generalizing s with
  | nil => cases h
  | cons x gs ih =>
    obtain ⟨fresh, distinct⟩ := List.nodup_cons.1 distinct
    unfold State.answerLeaving
    dsimp only
    rcases List.mem_cons.1 h with rfl | h
    · rw [State.answerLeaving_cells_other _ i gs g.cell fun y hy e => fresh (e ▸ List.mem_map_of_mem hy), (State.answerCell_spec _ _ _ _ _).2.1]
      exact get_set_self _ _ _
    · exact ih _ distinct h

/-! ### A byte of a turn (R19, R55, R57) -/

/-- The segments of a Feed Queue, a byte counted from the one of a cell (R51). -/
def countByte (cell : CellNo) (feed : List Segment) : List Segment := feed.map fun g => if g.cell = cell then { g with count := g.count + 1 } else g

/-- The segments that leave once the Consumed Offset has come to `n` (R57). -/
def leaving (n : Nat) (feed : List Segment) : List Segment := feed.filter fun g => decide (g.stop ≤ n)

/-- Those that stay. -/
def staying (n : Nat) (feed : List Segment) : List Segment := feed.filter fun g => !decide (g.stop ≤ n)

/-- A counted byte changes neither the cells nor the places of the segments. -/
theorem countByte_cells (cell : CellNo) (feed : List Segment) : (countByte cell feed).map Segment.cell = feed.map Segment.cell := by
  simp only [countByte, List.map_map]
  refine List.map_congr_left fun g _ => ?_
  simp only [Function.comp]
  split <;> rfl

/-- The context that the chunker leaves of a stream which has taken a byte: its lists are as they were (R2, R3). -/
theorem State.chunkByte_self (i : SlotNo) (b : Byte) : (s.chunkByte i b).slot i = { s.slot i with
    consumed := (s.slot i).consumed + 1, stats := { (s.slot i).stats with bytes := sat48 ((s.slot i).stats.bytes + 1) }
    pending := ((s.chunkByte i b).slot i).pending, chunker := ((s.chunkByte i b).slot i).chunker
    state := ((s.chunkByte i b).slot i).state, shown := ((s.chunkByte i b).slot i).shown } := by
  obtain ⟨ps, k⟩ := s.chunkByte_chunks i b
  have self := k.self
  rw [s.slot_setSlot_self] at self
  rw [self]; rfl

/-- A byte of a turn, from its stream as the chunker leaves it: the segments it ends leave, and the turn counts it (R19, R55, R57). -/
theorem State.takeByte_spec (n : LaneNo) (turn : Turn) (cell : CellNo) (b : Byte) :
    let c := s.slot turn.slot
    let v := s.chunkByte turn.slot b
    let t := s.takeByte n turn cell b
    let gone := leaving (c.consumed + 1) (countByte cell c.feed)
    t = { v with slots := t.slots, lanes := v.lanes.set n { v.lanes.get n with turn := some { turn with count := turn.count + 1 } }, port := t.port } ∧
    (∀ j, j ≠ turn.slot → t.slot j = v.slot j) ∧
    t.slot turn.slot = { v.slot turn.slot with
      feed := staying (c.consumed + 1) (countByte cell c.feed), cells := (t.slot turn.slot).cells
      stats := { (v.slot turn.slot).stats with resent := resentAfter gone (v.slot turn.slot).stats.resent } } ∧
    ((c.feed.map Segment.cell).Nodup → ∀ g ∈ gone, (t.slot turn.slot).cells.get g.cell = g.record) ∧
    (∀ m : CellNo, (∀ g ∈ gone, g.cell ≠ m) → (t.slot turn.slot).cells.get m = c.cells.get m) ∧
    (v.mayWrite = true → v.Writes t (gone.flatMap (Segment.writes turn.slot))) := by
  dsimp only
  have base := s.chunkByte_self turn.slot b
  unfold State.takeByte State.leaveSegments
  dsimp only
  generalize s.chunkByte turn.slot b = v at base ⊢
  generalize hu : v.editSlot turn.slot _ = u
  have uself : u.slot turn.slot = { v.slot turn.slot with feed := countByte cell (s.slot turn.slot).feed } := by
    rw [← hu, State.slot_editSlot_self, base]; rfl
  generalize hw : u.editSlot turn.slot _ = w
  have wself : w.slot turn.slot = { v.slot turn.slot with feed := staying ((s.slot turn.slot).consumed + 1) (countByte cell (s.slot turn.slot).feed) } := by
    rw [← hw, State.slot_editSlot_self, uself, base]; rfl
  have wrest : v.SlotsAndPort w := by rw [← hw, ← hu]; exact (v.editSlot_slotsAndPort _ _).trans (State.editSlot_slotsAndPort _ _ _)
  have gone : ((u.slot turn.slot).feed.filter fun g => decide (g.stop ≤ (u.slot turn.slot).consumed)) =
      leaving ((s.slot turn.slot).consumed + 1) (countByte cell (s.slot turn.slot).feed) := by
    rw [uself, base]; rfl
  rw [gone]
  generalize hg : leaving ((s.slot turn.slot).consumed + 1) (countByte cell (s.slot turn.slot).feed) = gs
  obtain ⟨rest, self, others, writes⟩ := w.answerLeaving_spec turn.slot gs
  have other := w.answerLeaving_cells_other turn.slot gs
  have own := w.answerLeaving_cells turn.slot gs
  generalize w.answerLeaving turn.slot gs = x at rest self others writes other own ⊢
  have xrest := wrest.trans rest
  refine ⟨?_, fun j e => ?_, ?_, fun distinct => ?_, fun m h => ?_, fun m => ?_⟩
  · rw [xrest]; rfl
  · rw [State.slot_setLane, others j e, ← hw, ← hu]
    simp [e]
  · rw [State.slot_setLane, self, wself]
  · refine own (?_ : (gs.map Segment.cell).Nodup)
    refine List.Nodup.sublist ?_ (countByte_cells cell (s.slot turn.slot).feed ▸ distinct)
    exact hg ▸ List.filter_sublist.map _
  · rw [State.slot_setLane, other m h, wself, base]
  · have k := writes (wrest.mayWrite.trans m)
    rw [← hw, ← hu] at k
    exact k

end Sys2Proof.Machine

namespace Sys2Proof.Machine

set_option Elab.async false

/-! ### The laws of the lists: the Intake Unit and the lanes (R47, R51, R57) -/

theorem mem_countByte {cell : CellNo} {feed : List Segment} {g : Segment} (h : g ∈ countByte cell feed) :
    ∃ x ∈ feed, g.cell = x.cell ∧ g.tag = x.tag ∧ g.offset = x.offset ∧ g.length = x.length := by
  obtain ⟨x, hx, rfl⟩ := List.mem_map.1 h
  exact ⟨x, hx, by split <;> simp⟩

theorem exists_mem_countByte {cell : CellNo} {feed : List Segment} {x : Segment} (h : x ∈ feed) :
    ∃ g ∈ countByte cell feed, g.cell = x.cell ∧ g.tag = x.tag :=
  ⟨_, List.mem_map_of_mem h, by split <;> simp⟩

/-- The lists of a stream that has taken a byte: what leaves the Feed Queue is queued no more (R47, R57). -/
theorem Slot.ListsOk.takeByte {c d : Slot} {cell : CellNo} (h : c.ListsOk)
    (feed : d.feed = staying (c.consumed + 1) (countByte cell c.feed)) (consumed : d.consumed = c.consumed + 1)
    (gone : ∀ g ∈ leaving (c.consumed + 1) (countByte cell c.feed), d.cells.get g.cell = g.record)
    (stay : ∀ m : CellNo, (∀ g ∈ leaving (c.consumed + 1) (countByte cell c.feed), g.cell ≠ m) → d.cells.get m = c.cells.get m)
    (provList : d.provList = c.provList) (provCount : d.provCount = c.provCount) (cls : d.cls = c.cls) : d.ListsOk where
  feed_order := by
    rw [feed]
    refine List.Pairwise.filter _ (List.pairwise_map.2 (h.feed_order.imp fun {a b} r => ?_))
    split <;> split <;> exact r
  feed_cells := by
    rw [feed]
    exact List.Nodup.sublist (List.filter_sublist.map _) (countByte_cells cell c.feed ▸ h.feed_cells)
  queued := fun m tag => by
    have distinct : ((countByte cell c.feed).map Segment.cell).Nodup := countByte_cells cell c.feed ▸ h.feed_cells
    rw [feed]
    by_cases left : ∃ g ∈ leaving (c.consumed + 1) (countByte cell c.feed), g.cell = m
    · obtain ⟨g, hg, rfl⟩ := left
      rw [gone g hg]
      refine ⟨fun e => by simp [Segment.record] at e, ?_⟩
      rintro ⟨x, hx, e, -⟩
      obtain ⟨gin, gstop⟩ := List.mem_filter.1 hg
      obtain ⟨xin, xstop⟩ := List.mem_filter.1 hx
      rw [List.inj_on_of_nodup_map distinct xin gin e] at xstop
      simp [of_decide_eq_true gstop] at xstop
    · push Not at left
      rw [stay m left, h.queued]
      constructor
      · rintro ⟨x, hx, rfl, rfl⟩
        obtain ⟨g, hg, e, f⟩ := exists_mem_countByte (cell := cell) hx
        have : ¬ g.stop ≤ c.consumed + 1 := fun k => left g (List.mem_filter.2 ⟨hg, decide_eq_true k⟩) e
        exact ⟨g, List.mem_filter.2 ⟨hg, by simpa using this⟩, e, f⟩
      · rintro ⟨g, hg, rfl, rfl⟩
        obtain ⟨x, hx, e, f, -⟩ := mem_countByte (List.mem_filter.1 hg).1
        exact ⟨x, hx, e.symm, f.symm⟩
  unfinished := fun g hg => by
    rw [feed] at hg
    have stop : ¬ g.stop ≤ c.consumed + 1 := by simpa using (List.mem_filter.1 hg).2
    rw [consumed]
    exact Nat.lt_of_not_le stop
  prov_le := by rw [provList, provCount]; exact h.prov_le
  prov_limit := by rw [provCount, cls]; exact h.prov_limit

variable (s : State)

/-- The lanes after a turn goes on with its slot. -/
theorem State.takeByte_listsKept (n : LaneNo) (turn : Turn) (cell : CellNo) (b : Byte) (at_turn : (s.lanes.get n).turn = some turn) :
    s.ListsKept (s.takeByte n turn cell b) := fun h => by
  obtain ⟨rest, others, self, gone, stay, -⟩ := s.takeByte_spec n turn cell b
  obtain ⟨ps, k⟩ := s.chunkByte_chunks turn.slot b
  have base := s.chunkByte_self turn.slot b
  have vother (j : SlotNo) (e : j ≠ turn.slot) : (s.chunkByte turn.slot b).slot j = s.slot j := by rw [k.others j e]; simp [e]
  have vrest := k.rest
  generalize s.chunkByte turn.slot b = v at rest others self base vother vrest
  generalize s.takeByte n turn cell b = t at rest others self gone stay
  have slot (j : SlotNo) : (t.slot j).ListsOk := by
    by_cases e : j = turn.slot
    · subst e
      have l := h.slots turn.slot
      have kept : t.slot turn.slot = { s.slot turn.slot with
          consumed := (s.slot turn.slot).consumed + 1, feed := (t.slot turn.slot).feed, cells := (t.slot turn.slot).cells
          stats := (t.slot turn.slot).stats, pending := (t.slot turn.slot).pending, chunker := (t.slot turn.slot).chunker
          state := (t.slot turn.slot).state, shown := (t.slot turn.slot).shown } := by rw [self, base]
      exact l.takeByte (by rw [self]) (by rw [kept]) (gone l.feed_cells) stay (by rw [kept]) (by rw [kept]) (by rw [kept])
    · rw [others j e, vother j e]
      exact h.slots j
  have lane : s.ListsKept (s.setLane n { s.lanes.get n with turn := some { turn with count := turn.count + 1 } }) :=
    s.setLane_listsKept n _ fun u e => by cases e; exact ⟨turn, at_turn, rfl⟩
  have ok := lane h
  have runList : t.runList = s.runList := by rw [rest, vrest]; rfl
  have lanes : t.lanes = (s.setLane n { s.lanes.get n with turn := some { turn with count := turn.count + 1 } }).lanes := by rw [rest, vrest]; rfl
  exact {
    run_nodup := runList ▸ ok.run_nodup
    run_idle := by rw [runList, lanes]; exact ok.run_idle
    one_lane := by rw [lanes]; exact ok.one_lane
    slots := slot }

theorem State.clearRead_listsKept (n : LaneNo) : s.ListsKept (s.clearRead n) := by
  unfold State.clearRead
  exact s.setLane_listsKept n _ fun u k => ⟨u, k, rfl⟩

theorem State.takeBytes_listsKept (n : LaneNo) (cell : CellNo) (bs : List Byte) : s.ListsKept (s.takeBytes n cell bs) := by
  induction bs generalizing s with
  | nil => exact .refl s
  | cons b bs ih =>
    unfold State.takeBytes
    split
    · exact .refl s
    · rename_i t e
      exact .ite (fun _ => (s.takeByte_listsKept n t cell b e).trans (ih _)) fun _ => .refl s

theorem State.Chunks.listsKept {s t : State} {i : SlotNo} {ps : List PendingChunk} (h : s.Chunks t i ps) : s.ListsKept t :=
  .of_slot i (by rw [h.self]; exact .of_same) h.others (by rw [h.rest]) (by rw [h.rest])

theorem State.endStream_listsKept (i : SlotNo) : s.ListsKept (s.endStream i) := by
  obtain ⟨ps, h⟩ := s.endStream_chunks i
  exact h.listsKept

theorem State.endStream_lanes (i : SlotNo) : (s.endStream i).lanes = s.lanes := by
  obtain ⟨ps, h⟩ := s.endStream_chunks i
  rw [h.rest]

theorem State.continueTurn_listsKept (n : LaneNo) : s.ListsKept (s.continueTurn n) := by
  unfold State.continueTurn
  split
  · exact .refl s
  · rename_i t e
    refine .ite (fun _ => s.endTurn_listsKept n) fun _ => (s.endStream_listsKept t.slot).trans ?_
    refine .ite (fun _ => State.endTurn_listsKept _ n) fun _ => ?_
    split
    · refine State.setLane_listsKept _ n _ fun u f => ⟨t, by rw [s.endStream_lanes, e], ?_⟩
      cases f; rfl
    · exact State.endTurn_listsKept _ n

/-- A lane begins a turn on a slot that has left the head of the Run List (R15, R17, R18). -/
theorem State.beginTurn_listsKept (n : LaneNo) (i : SlotNo) (rest : List SlotNo) (e : s.runList = i :: rest) :
    s.ListsKept (({ s with runList := rest } : State).beginTurn n i) := fun h => by
  have fresh : i ∉ rest ∧ rest.Nodup := List.nodup_cons.1 (e ▸ h.run_nodup)
  have idle {j} (hj : j ∈ s.runList) := h.run_idle j hj
  refine State.continueTurn_listsKept _ n ?_
  generalize hl : ({ turn := some { slot := i, count := 0 }, read := none } : Lane) = l
  have lane (m : LaneNo) (u : Turn) (k : ((s.setLane n l).lanes.get m).turn = some u) :
      m = n ∧ u.slot = i ∨ m ≠ n ∧ (s.lanes.get m).turn = some u := by
    by_cases f : m = n
    · subst f hl
      rw [State.lane_setLane_self] at k
      cases k
      exact .inl ⟨rfl, rfl⟩
    · rw [s.lane_setLane_of_ne n m l f] at k
      exact .inr ⟨f, k⟩
  exact {
    run_nodup := fresh.2
    run_idle := fun j hj m u k => by
      rcases lane m u k with ⟨-, f⟩ | ⟨-, k⟩
      · exact fun g => fresh.1 (f ▸ g ▸ hj)
      · exact idle (e ▸ List.mem_cons_of_mem i hj) m u k
    one_lane := fun m m' u u' k k' f => by
      rcases lane m u k with ⟨g, v⟩ | ⟨g, k⟩ <;> rcases lane m' u' k' with ⟨g', v'⟩ | ⟨g', k'⟩
      · exact g.trans g'.symm
      · exact absurd (f.symm.trans v) (idle (e ▸ List.mem_cons_self) m' u' k')
      · exact absurd (f.trans v') (idle (e ▸ List.mem_cons_self) m u k)
      · exact h.one_lane m m' u u' k k' f
    slots := h.slots }

/-! ### The laws of the lists: the cells of a host half (R47, R48, R49, R51, R53) -/

theorem mem_joinFeed {g x : Segment} {feed : List Segment} : x ∈ joinFeed g feed ↔ x = g ∨ x ∈ feed := by
  induction feed with
  | nil => simp [joinFeed]
  | cons h t ih =>
    unfold joinFeed
    split
    · simp only [List.mem_cons, ih]; tauto
    · simp

/-- The order of a Feed Queue: by Offset and then by cell number (R51). -/
def feedOrder (g h : Segment) : Prop := g.offset < h.offset ∨ g.offset = h.offset ∧ g.cell < h.cell

theorem feedOrder.trans {a b c : Segment} (h : feedOrder a b) (k : feedOrder b c) : feedOrder a c := by
  rcases h with h | ⟨h, h'⟩ <;> rcases k with k | ⟨k, k'⟩
  · exact .inl (h.trans k)
  · exact .inl (k ▸ h)
  · exact .inl (h ▸ k)
  · exact .inr ⟨h.trans k, h'.trans k'⟩

theorem feedOrder_of_not {g h : Segment} (n : ¬ feedOrder h g) (cells : g.cell ≠ h.cell) : feedOrder g h := by
  simp only [feedOrder, not_or, not_and, not_lt] at n ⊢
  obtain ⟨le, cell⟩ := n
  rcases le.lt_or_eq with lt | eq
  · exact .inl lt
  · exact .inr ⟨eq, (cell eq.symm).lt_of_ne cells⟩

/-- A segment of a cell that has none in the Feed Queue is placed in the order of the queue (R51). -/
theorem joinFeed_order {g : Segment} {feed : List Segment} (order : feed.Pairwise feedOrder) (fresh : ∀ x ∈ feed, x.cell ≠ g.cell) :
    (joinFeed g feed).Pairwise feedOrder := by
  induction feed with
  | nil => exact List.pairwise_singleton _ _
  | cons h t ih =>
    obtain ⟨first, order⟩ := List.pairwise_cons.1 order
    unfold joinFeed
    split
    · rename_i before
      refine List.pairwise_cons.2 ⟨fun x hx => ?_, ih order fun x hx => fresh x (List.mem_cons_of_mem _ hx)⟩
      rcases mem_joinFeed.1 hx with rfl | hx
      · exact before
      · exact first x hx
    · rename_i after
      have behind : feedOrder g h := feedOrder_of_not after (fresh h List.mem_cons_self).symm
      refine List.pairwise_cons.2 ⟨fun x hx => ?_, List.pairwise_cons.2 ⟨first, order⟩⟩
      rcases List.mem_cons.1 hx with rfl | hx
      · exact behind
      · exact behind.trans (first x hx)

/-- No two segments of a Feed Queue in order are of one cell, where a joining one is of a new cell. -/
theorem joinFeed_nodup {g : Segment} {feed : List Segment} (distinct : (feed.map Segment.cell).Nodup) (fresh : ∀ x ∈ feed, x.cell ≠ g.cell) :
    ((joinFeed g feed).map Segment.cell).Nodup := by
  induction feed with
  | nil => simp [joinFeed]
  | cons h t ih =>
    obtain ⟨first, distinct⟩ := List.nodup_cons.1 distinct
    unfold joinFeed
    split
    · refine List.nodup_cons.2 ⟨fun m => ?_, ih distinct fun x hx => fresh x (List.mem_cons_of_mem _ hx)⟩
      obtain ⟨x, hx, e⟩ := List.mem_map.1 m
      rcases mem_joinFeed.1 hx with rfl | hx
      · exact fresh h List.mem_cons_self e.symm
      · exact first (e ▸ List.mem_map_of_mem hx)
    · refine List.nodup_cons.2 ⟨fun m => ?_, List.nodup_cons.2 ⟨first, distinct⟩⟩
      obtain ⟨x, hx, e⟩ := List.mem_map.1 m
      exact fresh x hx e

/-- A cell that is not queued has no segment in the Feed Queue (R47). -/
theorem Slot.ListsOk.not_queued {c : Slot} (h : c.ListsOk) {n : CellNo} (idle : (c.cells.get n).queued = none) : ∀ g ∈ c.feed, g.cell ≠ n := by
  intro g hg e
  have := (h.queued n g.tag).2 ⟨g, hg, e, rfl⟩
  simp [idle] at this

/-- A cell that is not queued is answered (R47, R49). -/
theorem State.answerCell_listsKept (i : SlotNo) (n : CellNo) (tag : Tag) (st : CellStatus) (idle : ((s.slot i).cells.get n).queued = none) :
    s.ListsKept (s.answerCell i n tag st) := by
  obtain ⟨rest, self, others, -⟩ := s.answerCell_spec i n tag st
  refine .of_slot i (fun h => ?_) others (by rw [rest]) (by rw [rest])
  rw [self]
  refine { h with queued := fun m t => ?_ }
  rw [← h.queued m t]
  by_cases e : m = n
  · subst e; rw [get_set_self, idle]
  · rw [get_set_of_ne _ _ e]

/-- A segment joins a Feed Queue from a cell that is not queued, not yet reached by the Consumed Offset (R47, R51). -/
theorem Slot.join_listsKept (c : Slot) (g : Segment) (idle : (c.cells.get g.cell).queued = none) (ahead : c.consumed < g.offset + g.length) :
    c.ListsKept { c with feed := joinFeed g c.feed, cells := c.cells.set g.cell { c.cells.get g.cell with queued := some g.tag } } := fun h =>
  have fresh := h.not_queued idle
  { feed_order := joinFeed_order h.feed_order fresh
    feed_cells := joinFeed_nodup h.feed_cells fresh
    queued := fun m t => by
      simp only [mem_joinFeed]
      by_cases e : m = g.cell
      · subst e
        rw [get_set_self]
        constructor
        · exact fun k => ⟨g, .inl rfl, rfl, Option.some.inj k⟩
        · rintro ⟨x, rfl | hx, e, f⟩
          · exact congrArg some f
          · exact absurd e (fresh x hx)
      · rw [get_set_of_ne _ _ e, h.queued]
        constructor
        · rintro ⟨x, hx, k⟩; exact ⟨x, .inr hx, k⟩
        · rintro ⟨x, rfl | hx, k⟩
          · exact absurd k.1.symm e
          · exact ⟨x, hx, k⟩
    unfinished := fun x hx => by
      rcases mem_joinFeed.1 hx with rfl | hx
      · exact ahead
      · exact h.unfinished x hx
    prov_le := h.prov_le
    prov_limit := h.prov_limit }

theorem State.joinSegment_listsKept (i : SlotNo) (g : Segment) (idle : ((s.slot i).cells.get g.cell).queued = none)
    (ahead : (s.slot i).consumed < g.offset + g.length) : s.ListsKept (s.joinSegment i g) := by
  unfold State.joinSegment
  refine State.ListsKept.trans ((s.setSlot_listsKept ((s.slot i).join_listsKept g idle ahead)).trans (State.joinRun_listsKept _ i)) ?_
  exact .ite (fun _ => State.enterAborting_listsKept _ i _) fun _ => .refl _

theorem State.takeSegment_listsKept (i : SlotNo) (g : Segment) (idle : ((s.slot i).cells.get g.cell).queued = none) :
    s.ListsKept (s.takeSegment i g) := by
  unfold State.takeSegment
  refine .ite (fun _ => s.answerCell_listsKept i _ _ _ idle) fun _ => .ite (fun _ => s.answerCell_listsKept i _ _ _ idle) fun _ => .ite (fun _ => ?_) fun past => ?_
  · exact (s.editSlot_listsKept .of_same).trans (State.answerCell_listsKept _ i _ _ _ (by rw [State.slot_editSlot_self]; exact idle))
  · have ahead : (s.slot i).consumed < g.offset + g.length := Nat.lt_of_not_le past
    split
    · exact .ite (fun _ => s.enterAborting_listsKept i _) fun _ => s.joinSegment_listsKept i g idle ahead
    · exact s.joinSegment_listsKept i g idle ahead

theorem State.takeCell_listsKept (i : SlotNo) (half : List Byte) (n : CellNo) : s.ListsKept (s.takeCell i half n) := by
  unfold State.takeCell
  refine .ite (fun _ => .refl s) fun taken => s.takeSegment_listsKept i _ ?_
  simp only [not_or, Bool.not_eq_true, Option.isSome_eq_false_iff, Option.isNone_iff_eq_none] at taken
  exact taken.2.1

theorem State.takeCells_listsKept (i : SlotNo) (half : List Byte) : s.ListsKept (s.takeCells i half) :=
  .foldl (fun s n => s.takeCell_listsKept i half n) _ s

end Sys2Proof.Machine

namespace Sys2Proof.Machine

set_option Elab.async false

variable (s : State)

/-! ### The laws of the lists: recipes, sweeps, requests and the engine's states -/

theorem State.emit_listsKept (i : SlotNo) (p : PendingChunk) (v : Verdict) (n : Nat) (k : Cause) : s.ListsKept (s.emit i p v n k) := by
  unfold State.emit
  dsimp only
  have h := s.post_listsKept [.recipe ((s.slot i).entryAddr p.ordinal) (recipeOf p v n k)]
  generalize s.post [.recipe ((s.slot i).entryAddr p.ordinal) (recipeOf p v n k)] = t at h
  refine State.ListsKept.trans ?_ (State.refresh_listsKept _ i)
  refine State.ListsKept.trans ?_ (State.trySettle_listsKept _ i)
  refine State.ListsKept.trans ?_ (State.joinRun_listsKept _ i)
  refine State.ListsKept.trans ?_ (State.decideState_listsKept _ i)
  exact (h.trans (t.editSlot_listsKept .of_same)).trans (State.post_listsKept _ _)

theorem State.issueFirm_listsKept (i : SlotNo) (r : Nat) : s.ListsKept (s.issueFirm i r) := by
  unfold State.issueFirm
  have h : s.ListsKept (s.editSlot i fun c => { c.dropProv r with inflight := c.inflight + 1 }) :=
    s.editSlot_listsKept fun l => Slot.ListsKept.of_same (c := (s.slot i).dropProv r) rfl rfl rfl rfl rfl rfl ((s.slot i).dropProv_listsKept r l)
  exact (h.trans (State.editRecord_listsKept _ r _)).trans .of_same

theorem State.holdStored_listsKept (i : SlotNo) (read : Nat) : s.ListsKept (s.holdStored i read) := by
  unfold State.holdStored
  refine .ite (fun _ => .refl s) fun _ => ?_
  dsimp only
  generalize holdValue read (s.slot i).stored (s.slot i).written = t
  have h : s.ListsKept (s.editSlot i fun c => { c with stored := t }) := s.editSlot_listsKept .of_same
  generalize s.editSlot i (fun c => { c with stored := t }) = u at h
  have k := h.trans (.foldl (fun (s : State) r => s.issueFirm_listsKept i r) (u.firmDue i t) u)
  generalize (u.firmDue i t).foldl (State.issueFirm i) u = v at k
  have l : v.ListsKept (v.editSlot i fun c => { c with safe := c.safeAt t, extents := c.extents.dropWhile fun e => decide (e.ordinal < t) }) :=
    v.editSlot_listsKept .of_same
  exact ((k.trans l).trans (State.post_listsKept _ _)).trans (State.tryClose_listsKept _ i)

theorem State.holdTaken_listsKept (i : SlotNo) (read : Nat) : s.ListsKept (s.holdTaken i read) :=
  .ite (fun _ => .refl s) fun _ => (s.editSlot_listsKept .of_same).trans (State.decideState_listsKept _ i)

theorem State.holdWatch_listsKept (i : SlotNo) (read : Nat) : s.ListsKept (s.holdWatch i read) := s.editSlot_listsKept .of_same

/-- The Seen Sequence taken from a host half, and its write. -/
theorem State.takeSeen_listsKept (i : SlotNo) (v : BitVec 32) :
    s.ListsKept ((s.editSlot i fun c => { c with seen := v }).post [.slotSeen i v]) :=
  (s.editSlot_listsKept .of_same).trans (State.post_listsKept _ _)

theorem State.reloadIdle_listsKept (i : SlotNo) : s.ListsKept (s.editSlot i fun c => { c with idle := c.cls.idleLimit }) :=
  s.editSlot_listsKept .of_same

theorem State.takeHostHalf_listsKept (i : SlotNo) (half : List Byte) : s.ListsKept (s.takeHostHalf i half) := by
  unfold State.takeHostHalf
  dsimp only
  refine State.ListsKept.trans ?_ (State.refresh_listsKept _ i)
  refine State.ListsKept.trans ?_ (.ite (fun _ => State.takeCells_listsKept _ i half) fun _ => .refl _)
  refine .trans (.trans (.trans ?_ (State.holdStored_listsKept _ i _)) (State.holdTaken_listsKept _ i _)) (State.holdWatch_listsKept _ i _)
  refine State.ListsKept.trans ?_ (.ite (fun _ => State.reloadIdle_listsKept _ i) fun _ => .refl _)
  exact .ite (fun _ => .refl s) fun _ => s.takeSeen_listsKept i _

theorem State.evaluateFill_listsKept : s.ListsKept s.evaluateFill := by
  unfold State.evaluateFill
  refine .ite (fun _ => .refl s) fun _ => ?_
  split <;> exact .ite (fun _ => .ite (fun _ => s.setFill_listsKept _ _) fun _ => s.setFill_listsKept _ _) fun _ => s.setFill_listsKept _ _

/-- A change made of every slot in the same way. -/
theorem State.ListsKept.of_map {s t : State} (f : Slot → Slot) (slots : t.slots = mapVector f s.slots) (same : ∀ c : Slot, c.ListsKept (f c))
    (runList : t.runList = s.runList := by rfl) (lanes : t.lanes = s.lanes := by rfl) : s.ListsKept t :=
  .of_slots (fun i => by
    have : t.slot i = f (s.slot i) := by rw [State.slot, slots, get_mapVector]; rfl
    rw [this]
    exact same _) runList lanes

theorem State.writeConsumedAll_listsKept : s.ListsKept s.writeConsumedAll :=
  .of_map (fun c => { c with shown := c.consumed }) rfl (fun _ => .of_same) (by simp [State.writeConsumedAll]) (by simp [State.writeConsumedAll])

theorem State.closeSweep_listsKept (map : List Byte) : s.ListsKept (s.closeSweep map) := by
  unfold State.closeSweep
  dsimp only
  split <;> exact .of_same

theorem State.tick_listsKept : s.ListsKept s.tick := by
  have kept (c : Slot) : c.ListsKept c.tick := by
    unfold Slot.tick
    split
    · exact .of_same
    · exact id
  by_cases e : s.ctl.engine = .running
  · exact .of_map Slot.tick (by simp [State.tick, e]) kept
  · exact .of_same (by simp [State.tick, e])

theorem State.period_listsKept : s.ListsKept s.period := by
  unfold State.period
  split
  · exact s.abortStream_listsKept _ _
  · exact .ite (fun _ => .refl s) fun _ => .ite (fun _ => s.begun_listsKept.trans (State.tick_listsKept _)) fun _ => .of_same

theorem State.completeStart_listsKept (h : Header) (table : List (List Byte)) : s.ListsKept (s.completeStart h table) := by
  unfold State.completeStart
  dsimp only
  refine State.ListsKept.trans ?_ (State.testDue_listsKept _)
  generalize hu : ({ s with
    header := h
    ctl := { s.ctl with starting := false, startError := .none, area := s.ctl.base.toNat }
    requests := s.completeRecords table
    slots := mapVector (fun c : Slot => { c with shown := c.consumed }) s.slots } : State).postAlways _ = u
  have begun : s.ListsKept u := hu ▸ .of_map (fun c => { c with shown := c.consumed }) rfl fun _ => .of_same
  have fill : u.ListsKept (if u.index.fill = .declared then u.joinLevel h.fillLevel else u) :=
    .ite (fun _ => u.joinLevel_listsKept _) fun _ => .refl u
  generalize (if u.index.fill = .declared then u.joinLevel h.fillLevel else u) = v at fill
  have error : v.ListsKept (if v.index.error then v.joinLevel h.errorLevel else v) := .ite (fun _ => v.joinLevel_listsKept _) fun _ => .refl v
  generalize (if v.index.error then v.joinLevel h.errorLevel else v) = w at error
  exact ((begun.trans fill).trans error).trans .of_same

theorem State.acceptFormat_listsKept (cell : ReqNo) (k n : Nat) (e : BitVec 32) : s.ListsKept (s.acceptFormat cell k n e) :=
  (s.setFill_listsKept .normal 0).trans .of_same

theorem State.closeStream_listsKept (i : SlotNo) (f : Nat) : s.ListsKept (s.closeStream i f) := by
  have h : s.ListsKept (s.editSlot i fun c => { c with final := some f }) := s.editSlot_listsKept .of_same
  exact ((((h.trans (State.post_listsKept _ _)).trans (State.markFinished_chunks _ i).listsKept).trans (State.trySettle_listsKept _ i)).trans
    (State.refresh_listsKept _ i)).trans (State.joinRun_listsKept _ i)

theorem State.releaseSlot_listsKept (i : SlotNo) : s.ListsKept (s.releaseSlot i) := by
  have h : s.ListsKept (s.editSlot i Slot.released) := s.editSlot_listsKept .of_same
  exact (((h.trans (State.post_listsKept _ _)).trans (State.writeConsumed_listsKept _ i)).trans (State.post_listsKept _ _)).trans
    (State.writeMarks_listsKept _ i _)

/-- An opened slot has no segment, no queued cell and no record (R24, R35). -/
theorem Slot.opened_listsOk (cls : ChunkClass) (start addr size : Nat) (half : List Byte) : (Slot.opened cls start addr size half).ListsOk :=
  .of_empty rfl (fun n => by simp [Slot.opened, cellsAtOpen, Vector.get]) rfl (Nat.zero_le _)

theorem State.openSlot_listsKept (i : SlotNo) (cls : ChunkClass) (start addr size : Nat) (half : List Byte) :
    s.ListsKept (s.openSlot i (.opened cls start addr size half)) :=
  (s.setSlot_listsKept fun _ => Slot.opened_listsOk cls start addr size half).trans (State.post_listsKept _ _)

/-- Every slot after a reset, and the Run List and the lanes, meet the laws (R15, R25, R47). -/
theorem State.ListsOk.of_reset (slots : s.slots = Vector.replicate 1024 .fresh) (runList : s.runList = [])
    (lanes : s.lanes = Vector.replicate 32 { turn := none, read := none }) : s.ListsOk := by
  have turn (n : LaneNo) : (s.lanes.get n).turn = none := by simp [lanes, Vector.get]
  have slot (i : SlotNo) : s.slot i = .fresh := by simp [State.slot, slots, Vector.get]
  exact {
    run_nodup := by simp [runList]
    run_idle := by simp [runList]
    one_lane := by simp [turn]
    slots := fun i => by
      rw [slot]
      exact .of_empty rfl (fun n => by simp [Slot.fresh, CellRecord.fresh, Vector.get]) rfl le_rfl }

/-- The next request of a sweep leaves it, and nothing else of the state changes. -/
theorem State.nextRequest_listsKept {cell : ReqNo} {r : Request} {t : State} (e : s.nextRequest cell = some (r, t)) : s.ListsKept t := by
  unfold State.nextRequest at e
  split at e
  · split at e <;> cases e
    exact .of_same
  all_goals cases e

end Sys2Proof.Machine

namespace Sys2Proof.Machine

set_option Elab.async false

variable {s t : State}

/-! ### The laws of the lists: the commands -/

theorem State.afterReset_listsOk (k : ResetKind) (index : IndexUnit) (mem : IndexMemory) (n : Nat) : (s.afterReset k index mem n).ListsOk :=
  .of_reset _ rfl rfl rfl

theorem State.failSweep_listsKept (s : State) : s.ListsKept s.failSweep :=
  .trans (t := { s with sweep := { s.sweep with flight := none } }) .of_same (State.enterFaulted_listsKept _ _)

theorem State.failRead_listsKept (id : ReadId) (e : s.failRead id = .next t) : s.ListsKept t := by
  cases id with
  | lane n =>
    simp only [State.failRead] at e
    split at e <;> cases e
    exact (s.clearRead_listsKept n).trans (State.enterFaulted_listsKept _ _)
  | sweep =>
    simp only [State.failRead] at e
    split at e <;> cases e
    exact s.failSweep_listsKept
  | openHalf =>
    simp only [State.failRead] at e
    split at e <;> cases e
    exact s.failSweep_listsKept
  | start =>
    simp only [State.failRead] at e
    split at e <;> cases e
    exact .of_same
  | lost =>
    simp only [State.failRead] at e
    split at e <;> cases e
    exact .of_same

theorem State.complete_listsKept (key : OpKey) (ecc : Vector Ecc 16) (e : s.complete key ecc = .next t) : s.ListsKept t := by
  unfold State.complete at e
  split at e <;> cases e
  exact s.endEvent_listsKept (s.carryOut_listsKept _ _)

theorem State.writeDone_listsKept (w : DescWrite) (rest : List DescWrite) : s.ListsKept (s.writeDone w rest) := by
  unfold State.writeDone
  dsimp only
  split
  · exact .trans .of_same (State.resumeAll_listsKept _)
  · exact .trans .of_same (State.answer_listsKept _ _ _ _)
  · exact .of_same
  · split
    · exact .of_same
    · exact .trans .of_same (State.answer_listsKept _ _ _ _)

theorem State.offer_listsKept {a : Source} {op : Op} (e : s.offer a = some (op, t)) : s.ListsKept t := by
  cases a <;> simp only [State.offer] at e <;> split at e <;> cases e
  · exact .trans .of_same (State.editSlot_listsKept _ .of_same)
  all_goals exact .of_same

/-- The next request leaves the sweep, and what it then does keeps the laws. -/
theorem State.ListsKept.request {u v : State} {cell : ReqNo} {r : Request} (e : s.nextRequest cell = some (r, u)) (h : u.ListsKept v) : s.ListsKept v :=
  (s.nextRequest_listsKept e).trans h

/-- A request that is one event with its answer (R157, R166). -/
theorem State.ListsKept.answer {u v : State} {cell : ReqNo} {r : Request} (e : s.nextRequest cell = some (r, u)) (h : u.ListsKept v)
    {st : Status} {res : Option ReqResult} : s.ListsKept (s.endEvent (v.answer cell st res)) :=
  s.endEvent_listsKept ((s.nextRequest_listsKept e).trans (h.trans (v.answer_listsKept cell st res)))

/-- What the requests of a sweep do, once its expiries are taken. -/
theorem execFormat_listsKept (cell : ReqNo) (e : execFormat cell s = .next t) : s.ListsKept t := by
  unfold execFormat at e
  refine s.settled_listsKept.trans ?_
  generalize s.settled = s at *
  dsimp only at e
  split at e
  · rename_i next
    split at e <;> cases e
    · exact .answer next (.refl _)
    · exact .request next (State.acceptFormat_listsKept _ _ _ _ _)
  · cases e

theorem execSetClass_listsKept (cell : ReqNo) (e : execSetClass cell s = .next t) : s.ListsKept t := by
  unfold execSetClass at e
  refine s.settled_listsKept.trans ?_
  generalize s.settled = s at *
  dsimp only at e
  split at e
  · rename_i next
    split at e <;> cases e
    · exact .answer next .of_same
    · exact .answer next (.refl _)
  · cases e

theorem execOpenStream_listsKept (cell : ReqNo) (half : List Byte) (e : execOpenStream cell half s = .next t) : s.ListsKept t := by
  unfold execOpenStream at e
  refine s.settled_listsKept.trans ?_
  generalize s.settled = s at *
  dsimp only at e
  split at e
  · rename_i next
    split at e
    · cases e; exact .answer next (.refl _)
    · split at e <;> cases e
      exact .answer next (State.openSlot_listsKept _ _ _ _ _ _ _)
  · cases e

theorem execClose_listsKept (cell : ReqNo) (e : execClose cell s = .next t) : s.ListsKept t := by
  unfold execClose at e
  refine s.settled_listsKept.trans ?_
  generalize s.settled = s at *
  dsimp only at e
  split at e
  · rename_i next
    split at e
    · cases e; exact .answer next (.refl _)
    · split at e
      · cases e; exact .answer next (.refl _)
      · obtain rfl := Host.Outcome.next.inj e
        exact .answer next (State.closeStream_listsKept _ _ _)
  · cases e

theorem execAbort_listsKept (cell : ReqNo) (e : execAbort cell s = .next t) : s.ListsKept t := by
  unfold execAbort at e
  refine s.settled_listsKept.trans ?_
  generalize s.settled = s at *
  dsimp only at e
  split at e
  · rename_i next
    split at e
    · cases e; exact .answer next (.refl _)
    · split at e <;> cases e
      · exact .answer next ((State.enterAborting_listsKept _ _ _).trans (State.refresh_listsKept _ _))
      · exact .answer next (.refl _)
  · cases e

theorem execRelease_listsKept (cell : ReqNo) (e : execRelease cell s = .next t) : s.ListsKept t := by
  unfold execRelease at e
  refine s.settled_listsKept.trans ?_
  generalize s.settled = s at *
  dsimp only at e
  split at e
  · rename_i next
    split at e
    · cases e; exact .answer next (.refl _)
    · split at e <;> obtain rfl := Host.Outcome.next.inj e
      · exact .answer next (State.releaseSlot_listsKept _ _)
      · exact .answer next (State.releaseSlot_listsKept _ _)
      all_goals exact .answer next (.refl _)
  · cases e

theorem execSeed_listsKept (cell : ReqNo) (e : execSeed cell s = .next t) : s.ListsKept t := by
  unfold execSeed at e
  refine s.settled_listsKept.trans ?_
  generalize s.settled = s at *
  dsimp only at e
  split at e
  · rename_i next
    split at e
    · cases e; exact .answer next (.refl _)
    · split at e
      · cases e; exact .answer next (.refl _)
      · split at e <;> cases e
        · exact .answer next (.refl _)
        · exact .request next .of_same
  · cases e

theorem execRetire_listsKept (cell : ReqNo) (e : execRetire cell s = .next t) : s.ListsKept t := by
  unfold execRetire at e
  refine s.settled_listsKept.trans ?_
  generalize s.settled = s at *
  dsimp only at e
  split at e
  · rename_i next
    split at e <;> cases e
    · exact .answer next (.refl _)
    · exact .request next .of_same
  · cases e

theorem execSetEpoch_listsKept (cell : ReqNo) (e : execSetEpoch cell s = .next t) : s.ListsKept t := by
  unfold execSetEpoch at e
  refine s.settled_listsKept.trans ?_
  generalize s.settled = s at *
  dsimp only at e
  split at e
  · rename_i next
    split at e
    · cases e; exact .answer next (.refl _)
    · split at e <;> cases e
      · exact .answer next (.refl _)
      · exact .request next .of_same
  · cases e

theorem execSnapshotSlot_listsKept (cell : ReqNo) (e : execSnapshotSlot cell s = .next t) : s.ListsKept t := by
  unfold execSnapshotSlot at e
  refine s.settled_listsKept.trans ?_
  generalize s.settled = s at *
  dsimp only at e
  split at e
  · rename_i next
    split at e
    · cases e
    · split at e
      · cases e; exact .answer next (.refl _)
      · split at e <;> cases e
        · exact .answer next (.refl _)
        · exact .answer next (State.post_listsKept _ _)
  · cases e

theorem execSnapshotEngine_listsKept (cell : ReqNo) (e : execSnapshotEngine cell s = .next t) : s.ListsKept t := by
  unfold execSnapshotEngine at e
  refine s.settled_listsKept.trans ?_
  generalize s.settled = s at *
  dsimp only at e
  split at e
  · rename_i u next
    split at e <;> cases e
    exact .answer next (.trans (t := { u with index := { u.index with error := false } }) .of_same (State.post_listsKept _ _))
  · cases e

theorem execUnknownRequest_listsKept (cell : ReqNo) (e : execUnknownRequest cell s = .next t) : s.ListsKept t := by
  unfold execUnknownRequest at e
  refine s.settled_listsKept.trans ?_
  generalize s.settled = s at *
  dsimp only at e
  split at e
  · rename_i next
    cases e; exact .answer next (.refl _)
  · cases e

/-- The commands of the Sweep Unit and the Timebase. -/
theorem execSlotHostHalfTaken_listsKept (i : SlotNo) (post : BitVec 32) (half : List Byte) (e : execSlotHostHalfTaken i post half s = .next t) :
    s.ListsKept t := by
  unfold execSlotHostHalfTaken at e
  refine s.settled_listsKept.trans ?_
  generalize s.settled = s at *
  dsimp only at e
  split at e
  · rename_i left _
    split at e
    · split at e
      · cases e; exact .of_same
      · split at e <;> cases e
        exact .trans (t := { s with sweep := { s.sweep with flight := some (.slots left) } }) .of_same
          (State.endEvent_listsKept _ (State.takeHostHalf_listsKept _ i half))
    · cases e
  all_goals cases e

theorem execRequestTableRead_listsKept (table : List (List Byte)) (e : execRequestTableRead table s = .next t) : s.ListsKept t := by
  unfold execRequestTableRead at e
  refine s.settled_listsKept.trans ?_
  generalize s.settled = s at *
  dsimp only at e
  split at e
  · split at e
    · cases e
    · split at e <;> cases e
      exact .of_same
  all_goals cases e

theorem execSweepEnd_listsKept (map : List Byte) (e : execSweepEnd map s = .next t) : s.ListsKept t := by
  unfold execSweepEnd at e
  refine s.settled_listsKept.trans ?_
  generalize s.settled = s at *
  dsimp only at e
  split at e
  · cases e
  · split at e <;> cases e
    exact s.issued_listsKept (((s.evaluateFill_listsKept.trans (State.writeConsumedAll_listsKept _)).trans (State.post_listsKept _ _)).trans
      (State.closeSweep_listsKept _ map))

theorem execSweepNow_listsKept (v : BitVec 32) (map : List Byte) (e : execSweepNow v map s = .next t) : s.ListsKept t := by
  unfold execSweepNow at e
  refine s.settled_listsKept.trans ?_
  generalize s.settled = s at *
  dsimp only at e
  repeat' split at e
  all_goals cases e
  all_goals exact .of_same

theorem execSweepCountdownExpiry_listsKept (map : List Byte) (e : execSweepCountdownExpiry map s = .next t) : s.ListsKept t := by
  unfold execSweepCountdownExpiry at e
  refine s.settled_listsKept.trans ?_
  generalize s.settled = s at *
  dsimp only at e
  repeat' split at e
  all_goals cases e
  all_goals exact .of_same

theorem execStartComplete_listsKept (header : List Byte) (table : List (List Byte)) (e : execStartComplete header table s = .next t) : s.ListsKept t := by
  unfold execStartComplete at e
  refine s.begun_listsKept.trans ?_
  generalize s.begun = s at *
  dsimp only at e
  repeat' split at e
  all_goals cases e
  · exact .of_same
  · exact .of_same
  · exact s.issued_listsKept (s.completeStart_listsKept _ table)

/-- The commands of the lanes and the Index Unit. -/
theorem execLaneTakesSlot_listsKept (n : LaneNo) (e : execLaneTakesSlot n s = .next t) : s.ListsKept t := by
  unfold execLaneTakesSlot at e
  refine s.settled_listsKept.trans ?_
  generalize s.settled = s at *
  dsimp only at e
  split at e
  · split at e
    · cases e
    · rename_i i rest runList
      split at e <;> cases e
      · exact (s.beginTurn_listsKept n i rest runList).trans (State.endEvent_listsKept_after _ _)
      · intro h
        have fresh := List.nodup_cons.1 (runList ▸ h.run_nodup)
        exact { h with run_nodup := fresh.2, run_idle := fun j hj => h.run_idle j (runList ▸ List.mem_cons_of_mem i hj) }
  · cases e

theorem execSegmentReadComplete_listsKept (id : ReadId) (data : List Byte) (e : execSegmentReadComplete id data s = .next t) : s.ListsKept t := by
  unfold execSegmentReadComplete at e
  refine s.settled_listsKept.trans ?_
  generalize s.settled = s at *
  cases id with
  | lane n =>
    dsimp only at e
    split at e
    · cases e
    · split at e <;> cases e
      exact s.endEvent_listsKept (((s.clearRead_listsKept n).trans (State.takeBytes_listsKept _ n _ data)).trans
        (State.continueTurn_listsKept _ n))
  | lost =>
    dsimp only at e
    split at e <;> cases e
    exact .of_same
  | sweep => cases e
  | openHalf => cases e
  | start => cases e

theorem execOperationAccepted_listsKept (e : execOperationAccepted s = .next t) : s.ListsKept t := by
  unfold execOperationAccepted at e
  refine s.settled_listsKept.trans ?_
  generalize s.settled = s at *
  dsimp only at e
  split at e
  · cases e
  · split at e
    · cases e
    · split at e <;> cases e
      rename_i offered
      exact (State.offer_listsKept offered).trans .of_same

theorem execWaiterRemoval_listsKept (i : SlotNo) (o : Nat) (e : execWaiterRemoval i o s = .next t) : s.ListsKept t := by
  unfold execWaiterRemoval at e
  refine s.settled_listsKept.trans ?_
  generalize s.settled = s at *
  dsimp only at e
  split at e
  · cases e; exact .refl _
  · split at e <;> cases e
    · exact s.endEvent_listsKept ((s.discardWaiter_listsKept _ _).trans (State.refresh_listsKept _ _))
    · exact .of_same

theorem execDescriptorWriteComplete_listsKept (ecc : Ecc) (e : execDescriptorWriteComplete ecc s = .next t) : s.ListsKept t := by
  unfold execDescriptorWriteComplete at e
  refine s.settled_listsKept.trans ?_
  generalize s.settled = s at *
  dsimp only at e
  split at e
  · cases e
  · split at e
    · cases e
    · rename_i w rest _
      split at e <;> cases e
      · exact s.endEvent_listsKept (State.writeDone_listsKept _ _)
      · exact s.endEvent_listsKept ((s.editStats_listsKept _).trans (State.writeDone_listsKept _ _))
      · exact .trans (t := { s with mem := { s.mem with desc := w.desc }, index := { s.index with writeFailed := true } }) .of_same
          (State.enterFaulted_listsKept _ _)

theorem execFormatClear_listsKept (e : execFormatClear s = .next t) : s.ListsKept t := by
  unfold execFormatClear at e
  refine s.settled_listsKept.trans ?_
  generalize s.settled = s at *
  dsimp only at e
  split at e
  · cases e
  · split at e <;> cases e
    exact .of_same

theorem execEmission_listsKept (i : SlotNo) (e : execEmission i s = .next t) : s.ListsKept t := by
  unfold execEmission at e
  refine s.settled_listsKept.trans ?_
  generalize s.settled = s at *
  dsimp only at e
  split at e
  · split at e
    · obtain rfl := Host.Outcome.next.inj e
      exact s.endEvent_listsKept (s.emit_listsKept _ _ _ _ _)
    · cases e
  · cases e

/-- Every command keeps the laws of the lists. -/
theorem exec_listsKept (c : Instr) (e : exec c s = .next t) : s.ListsKept t := by
  cases c with
  | powerOn => cases e; exact fun _ => State.afterReset_listsOk _ _ _ _
  | linkReset point desc => cases e; exact fun _ => State.afterReset_listsOk _ _ _ _
  | start =>
    simp only [exec, execStart] at e
    repeat' split at e
    all_goals cases e
    all_goals exact .of_same
  | startComplete header table => exact execStartComplete_listsKept header table e
  | quiesce =>
    simp only [exec, execQuiesce] at e
    split at e <;> cases e
    · exact s.settled_listsKept.trans .of_same
    · exact s.settled_listsKept
  | reset point desc => cases e; exact fun _ => State.afterReset_listsOk _ _ _ _
  | exchangeBase first data =>
    simp only [exec, execExchangeBase] at e
    split at e <;> cases e
    all_goals exact .of_same
  | sweepNow value map => exact execSweepNow_listsKept value map e
  | servingLevel value =>
    cases e
    have k := State.testDue_listsKept { s.settled with notice := { s.settled.notice with serving := min value.toNat 7 } }
    exact s.settled_listsKept.trans (.trans (.trans .of_same k) .of_same)
  | registerWriteIgnored offset value =>
    simp only [exec, execRegisterWriteIgnored] at e
    split at e <;> cases e
    exact s.begun_listsKept
  | tick =>
    simp only [exec, execTick] at e
    split at e <;> cases e
    exact s.settled_listsKept.trans (State.tick_listsKept _)
  | sweepCountdownExpiry map => exact execSweepCountdownExpiry_listsKept map e
  | idleCountdownExpiry slot =>
    simp only [exec, execIdleCountdownExpiry] at e
    split at e
    · cases e; exact s.abortStream_listsKept _ _
    · split at e <;> cases e
      exact s.begun_listsKept
  | slotHostHalfTaken slot post half => exact execSlotHostHalfTaken_listsKept slot post half e
  | requestTableRead table => exact execRequestTableRead_listsKept table e
  | format cell => exact execFormat_listsKept cell e
  | setClass cell => exact execSetClass_listsKept cell e
  | openStream cell half => exact execOpenStream_listsKept cell half e
  | close cell => exact execClose_listsKept cell e
  | abort cell => exact execAbort_listsKept cell e
  | release cell => exact execRelease_listsKept cell e
  | seed cell => exact execSeed_listsKept cell e
  | retire cell => exact execRetire_listsKept cell e
  | setEpoch cell => exact execSetEpoch_listsKept cell e
  | snapshotSlot cell => exact execSnapshotSlot_listsKept cell e
  | snapshotEngine cell => exact execSnapshotEngine_listsKept cell e
  | unknownRequest cell => exact execUnknownRequest_listsKept cell e
  | sweepEnd map => exact execSweepEnd_listsKept map e
  | laneTakesSlot lane => exact execLaneTakesSlot_listsKept lane e
  | segmentReadComplete id data => exact execSegmentReadComplete_listsKept id data e
  | hostReadFailure id => exact s.settled_listsKept.trans (State.failRead_listsKept id e)
  | readTimeout id => exact s.settled_listsKept.trans (State.failRead_listsKept id e)
  | operationAccepted => exact execOperationAccepted_listsKept e
  | lookupInsertComplete slot ordinal ecc => exact s.settled_listsKept.trans (State.complete_listsKept _ ecc e)
  | firmComplete record ecc => exact s.settled_listsKept.trans (State.complete_listsKept _ ecc e)
  | withdrawComplete record ecc => exact s.settled_listsKept.trans (State.complete_listsKept _ ecc e)
  | waiterRemoval slot ordinal => exact execWaiterRemoval_listsKept slot ordinal e
  | seedComplete cell ecc => exact s.settled_listsKept.trans (State.complete_listsKept _ ecc e)
  | retireComplete cell ecc => exact s.settled_listsKept.trans (State.complete_listsKept _ ecc e)
  | scanComplete bucket ecc => exact s.settled_listsKept.trans (State.complete_listsKept _ ecc e)
  | descriptorWriteComplete ecc => exact execDescriptorWriteComplete_listsKept ecc e
  | formatClear => exact execFormatClear_listsKept e
  | emission slot => exact execEmission_listsKept slot e
  | enterStopped =>
    simp only [exec, execEnterStopped] at e
    split at e <;> cases e
    exact s.settled_listsKept.trans .of_same

/-- Settles O55: a step is a command on the rest of the queue, or a period of the reference clock. -/
theorem listsStayLawful : Obligations.ListsStayLawful := by
  intro s t next
  unfold step at next
  split at next
  · rename_i c rest _
    exact State.ListsKept.trans (t := { s with pending := rest }) .of_same (exec_listsKept c next)
  · cases next
    exact s.period_listsKept

end Sys2Proof.Machine

namespace Sys2Proof.Machine

set_option Elab.async false

variable {s t : State}

/-! ### Resets (R12, R15, R25, R150, R175) -/

/-- Settles O4: each block's reset value, read from the definition of the machine after a cold reset. -/
theorem resetEmptiesEveryBlock : Obligations.ResetEmptiesEveryBlock :=
  ⟨rfl, rfl, rfl, rfl, rfl, rfl, rfl, rfl, Vector.get_replicate _ _, Vector.get_replicate _ _, Vector.get_replicate _ _, rfl, rfl, rfl, rfl, rfl, rfl, rfl,
    fun i => ⟨.unbound, Vector.get_replicate _ Slot.fresh i⟩⟩

/-- Every reset leaves the machine as `State.afterReset` has it (R175). -/
theorem exec_reset {c : Instr} (r : isReset c = true) (e : exec c s = .next t) : ∃ kind index mem n, t = s.afterReset kind index mem n := by
  cases c <;> cases r <;> cases e <;> exact ⟨_, _, _, _, rfl⟩

/-- Settles O5: the Class Table of every reset is the one of the machine after a cold reset. -/
theorem resetClassTable : Obligations.ResetClassTable := by
  intro c s t r e
  obtain ⟨kind, index, mem, n, rfl⟩ := exec_reset r e
  refine ⟨get_set_self _ 0 _, fun n other => ?_⟩
  exact (get_set_of_ne (k := (0 : Fin 8)) _ _ other).trans (Vector.get_replicate _ _ _)

/-! ### The boundary test (R4) -/

/-- Settles O28: the rows of R4 are the branches of the test, in their order. -/
theorem boundaryTest : Obligations.BoundaryTest := by
  intro c len hash
  refine ⟨fun below => ?_, fun min max => ?_, fun min max normal => ?_, fun min max normal => ?_⟩
  · rw [boundary, if_pos below]
  · rw [boundary, if_neg (Nat.not_lt.2 min), if_pos max]
  · rw [boundary, if_neg (Nat.not_lt.2 min), if_neg max, if_pos normal, decide_eq_true_iff]
  · rw [boundary, if_neg (Nat.not_lt.2 min), if_neg max, if_neg (Nat.not_lt.2 normal), decide_eq_true_iff]

/-! ### Stops -/

/-- An idle expiry is due at no slot of a state where none is due, so the expiry of a live one has no place (R42). -/
theorem State.Settled.idleCountdownExpiry (h : s.Settled) {i : SlotNo} (live : (s.slot i).state.isLive = true) :
    exec (.idleCountdownExpiry i) s = .fault .countdownRunning := by
  simp [exec, execIdleCountdownExpiry, h i, live]

/-- Without a sweep in flight no request is the next (R156). -/
theorem State.Settled.no_request (h : s.Settled) (idle : s.sweep.flight = none) {c : Instr} {cell : ReqNo} {half : List Byte}
    (m : c ∈ [Instr.format cell, .setClass cell, .openStream cell half, .close cell, .abort cell, .release cell, .seed cell, .retire cell,
      .setEpoch cell, .snapshotSlot cell, .snapshotEngine cell, .unknownRequest cell]) : exec c s = .fault .notNextRequest := by
  have none : s.begun.nextRequest cell = none := State.nextRequest_of_idle (s := s.begun) idle cell
  simp only [List.mem_cons, List.not_mem_nil, or_false] at m
  rcases m with rfl | rfl | rfl | rfl | rfl | rfl | rfl | rfl | rfl | rfl | rfl | rfl
  · simp [exec, execFormat, h.eq, none]
  · simp [exec, execSetClass, h.eq, none]
  · simp [exec, execOpenStream, h.eq, none]
  · simp [exec, execClose, h.eq, none]
  · simp [exec, execAbort, h.eq, none]
  · simp [exec, execRelease, h.eq, none]
  · simp [exec, execSeed, h.eq, none]
  · simp [exec, execRetire, h.eq, none]
  · simp [exec, execSetEpoch, h.eq, none]
  · simp [exec, execSnapshotSlot, h.eq, none]
  · simp [exec, execSnapshotEngine, h.eq, none]
  · simp [exec, execUnknownRequest, h.eq, none]

/-- With no operation of its key ready, a completion has no place (R70). -/
theorem State.Settled.no_operation (h : s.Settled) {key : OpKey} {ecc : Vector Ecc 16} {c : Instr} (none : readyOp key s.index.inflight = none)
    (m : (∃ i o, key = .lookup i o ∧ c = .lookupInsertComplete i o ecc) ∨ (∃ r, key = .firm r ∧ c = .firmComplete r ecc) ∨
      (∃ r, key = .withdraw r ∧ c = .withdrawComplete r ecc) ∨ (∃ cell, key = .seed cell ∧ c = .seedComplete cell ecc) ∨
      (∃ cell, key = .retire cell ∧ c = .retireComplete cell ecc) ∨ (∃ b, key = .scan b ∧ c = .scanComplete b ecc)) :
    exec c s = .fault .notReady := by
  have stops : s.settled.complete key ecc = .fault .notReady := by
    rw [h.eq]
    simp [State.complete, none]
  rcases m with ⟨i, o, rfl, rfl⟩ | ⟨r, rfl, rfl⟩ | ⟨r, rfl, rfl⟩ | ⟨cell, rfl, rfl⟩ | ⟨cell, rfl, rfl⟩ | ⟨b, rfl, rfl⟩ <;> exact stops

/-- Nothing is emitted from a stream that is not ACTIVE or has nothing pending (R119). -/
theorem Slot.emittable_eq_none {c : Slot} (h : c.state ≠ .active ∨ c.pending = []) : c.emittable = none := by
  unfold Slot.emittable
  split
  · rfl
  · rename_i p ps pending
    split
    · exact if_neg fun k => h.elim (fun a => a k.1) fun e => by simp [pending] at e
    all_goals rfl

/-- The engine is not drained with a sweep in flight, a descriptor write outstanding or a removal to come (R173). -/
theorem State.drained_eq_false (h : s.sweep.flight.isSome = true ∨ s.index.writes ≠ [] ∨ s.removals ≠ []) : s.drained = false := by
  unfold State.drained
  rcases h with h | h | h
  · simp [Option.isNone_eq_false_iff.2 h]
  · simp [h]
  · simp [h]

/-- Settles O50: in each place the command's own guard fails. -/
theorem eventsOutOfPlaceStop : Obligations.EventsOutOfPlaceStop := by
  intro s h
  have settled := h.eq
  have silent (m : s.mayWrite = false) : s.begun.mayWrite = false := m
  refine ⟨fun time => ?_, fun map out => ?_, fun header table starting => ?_, fun busy => ?_, fun i live => h.idleCountdownExpiry live,
    fun i post half idle => ?_, fun i j left post half flight ne => ?_, fun table out => ?_, fun map out => ?_, fun cell half c idle m => h.no_request idle m,
    fun n out => ?_, fun n data idle => ?_, fun full => ?_, fun key ecc c none m => h.no_operation none m, fun ecc out => ?_, fun out => ?_, fun i out => ?_⟩
  · simp [exec, execTick, settled, time]
  · rcases out with out | out | out
    · simp [exec, execSweepCountdownExpiry, settled, out]
    · simp [exec, execSweepCountdownExpiry, settled, out]
    · simp [exec, execSweepCountdownExpiry, settled, silent out]
  · simp [exec, execStartComplete, starting]
  · rcases busy with engine | busy
    · simp [exec, execEnterStopped, settled, engine]
    · have : s.begun.drained = false := State.drained_eq_false busy
      simp [exec, execEnterStopped, settled, this]
  · simp [exec, execSlotHostHalfTaken, settled, idle]
  · simp [exec, execSlotHostHalfTaken, settled, flight, ne.symm]
  · rcases out with idle | ⟨engine, flight⟩ | ⟨j, left, flight⟩
    · simp [exec, execRequestTableRead, settled, idle]
    · simp [exec, execRequestTableRead, settled, flight, engine]
    · simp [exec, execRequestTableRead, settled, flight]
  · rcases out with flight | ⟨j, left, flight⟩ | ⟨x, xs, flight⟩ <;> simp [exec, execSweepEnd, settled, State.sweepOver, flight]
  · rcases out with out | out | out | out
    · simp [exec, execLaneTakesSlot, settled, silent out]
    · simp [exec, execLaneTakesSlot, settled, Lane.idle, Option.isNone_eq_false_iff.2 out]
    · simp [exec, execLaneTakesSlot, settled, Lane.idle, Option.isNone_eq_false_iff.2 out]
    · simp [exec, execLaneTakesSlot, settled, out]
  · refine ⟨?_, ?_, ?_⟩
    · simp [exec, execSegmentReadComplete, settled, idle]
    · simp [exec, execHostReadFailure, State.failRead, settled, idle]
    · simp [exec, execReadTimeout, State.failRead, settled, idle]
  · simp [exec, execOperationAccepted, settled, full]
  · rcases out with out | out <;> simp [exec, execDescriptorWriteComplete, settled, out]
  · rcases out with out | out
    · simp [exec, execFormatClear, settled, out]
    · have : s.begun.formatMayClear = false := by simp [State.formatMayClear, out]
      simp only [exec, execFormatClear, settled, this]
      split <;> simp
  · rcases out with out | out
    · simp only [exec, execEmission, settled, silent out]
      split <;> simp
    · simp [exec, execEmission, settled, Slot.emittable_eq_none out]

end Sys2Proof.Machine

namespace Sys2Proof.Machine

set_option Elab.async false

variable {s t : State}

/-! ### Failed reads (R58, R174) -/

/-- A change of the lanes and the Run List alone. -/
def State.LanesAndRun (s t : State) : Prop := t = { s with lanes := t.lanes, runList := t.runList }

theorem State.LanesAndRun.trans {u : State} (h : s.LanesAndRun t) (k : t.LanesAndRun u) : s.LanesAndRun u := by
  unfold State.LanesAndRun at *; rw [k, h]

/-- The end of a turn changes the lanes and the Run List, and leaves no turn where there was none (R19). -/
theorem State.endTurn_spec (s : State) (n : LaneNo) :
    s.LanesAndRun (s.endTurn n) ∧ ((s.endTurn n).lanes.get n).turn = none ∧
    ∀ m, m ≠ n → (s.endTurn n).lanes.get m = s.lanes.get m := by
  unfold State.endTurn
  split
  · rename_i idle
    exact ⟨rfl, idle, fun _ _ => rfl⟩
  · rw [State.joinRun_eq]
    refine ⟨rfl, ?_, fun m e => s.lane_setLane_of_ne n m _ e⟩
    exact congrArg Lane.turn (s.lane_setLane_self n _)

/-- So do the ends of several; each of the lanes is left without a turn. -/
theorem State.endTurns_spec (ns : List LaneNo) (s : State) :
    s.LanesAndRun (ns.foldl State.endTurn s) ∧
    ∀ n, (n ∈ ns ∨ (s.lanes.get n).turn = none) → ((ns.foldl State.endTurn s).lanes.get n).turn = none := by
  induction ns generalizing s with
  | nil => exact ⟨rfl, fun n h => h.resolve_left (by simp)⟩
  | cons m ns ih =>
    obtain ⟨rest, ended, others⟩ := s.endTurn_spec m
    obtain ⟨rests, all⟩ := ih (s.endTurn m)
    refine ⟨rest.trans rests, fun n h => all n ?_⟩
    by_cases e : n = m
    · exact .inr (e ▸ ended)
    · rw [others n e]
      exact h.imp_left fun k => (List.mem_cons.1 k).resolve_left e

/-- The entry of an engine that is not FAULTED to FAULTED (R19, R23, R152, R155, R174). -/
theorem State.enterFaulted_spec (c : FaultCause) (h : s.ctl.engine ≠ .faulted) :
    let t := s.enterFaulted c
    t = { s with
      ctl := { s.ctl with engine := .faulted, faultCause := c, starting := false }, time := { s.time with running := false }
      sweep := { flight := none, remembered := false }, port := { s.port with lostReads := s.port.lostReads + s.sweep.readsOut }
      lanes := t.lanes, runList := t.runList } ∧
    ∀ n, (t.lanes.get n).turn = none := by
  unfold State.enterFaulted
  rw [if_neg h]
  obtain ⟨rest, all⟩ := State.endTurns_spec (List.finRange 32) { s with
    ctl := { s.ctl with engine := .faulted, faultCause := c, starting := false }, time := { s.time with running := false }
    sweep := { flight := none, remembered := false }, port := { s.port with lostReads := s.port.lostReads + s.sweep.readsOut } }
  exact ⟨rest, fun n => all n (.inl (List.mem_finRange n))⟩

/-- What a failed read leaves of the engine, whichever block had issued it: the outcome that R174 gives (R58, R174). -/
structure State.ReadFails (s t : State) : Prop where
  posted : t.port.posted = s.port.posted
  slots : t.slots = s.slots
  rest : t = { s with ctl := t.ctl, time := t.time, sweep := t.sweep, lanes := t.lanes, runList := t.runList, port := t.port }
  faults : s.ctl.engine ≠ .faulted →
    t.ctl = { s.ctl with engine := .faulted, faultCause := .hostMemory, starting := false } ∧ t.time = { s.time with running := false } ∧
    t.sweep = { flight := none, remembered := false } ∧ ∀ n : LaneNo, (t.lanes.get n).turn = none
  stands : s.ctl.engine = .faulted → t.ctl = s.ctl ∧ t.time = s.time

/-- A read leaves its block, and the engine enters FAULTED (R174). -/
theorem State.ReadFails.of_enterFaulted {u : State} (ctl : u.ctl = s.ctl := by rfl) (time : u.time = s.time := by rfl)
    (posted : u.port.posted = s.port.posted := by rfl) (slots : u.slots = s.slots := by rfl)
    (rest : u = { s with ctl := u.ctl, time := u.time, sweep := u.sweep, lanes := u.lanes, runList := u.runList, port := u.port } := by rfl) :
    s.ReadFails (u.enterFaulted .hostMemory) := by
  by_cases e : s.ctl.engine = .faulted
  · rw [State.enterFaulted_of_faulted (ctl ▸ e)]
    exact ⟨posted, slots, rest, fun k => absurd e k, fun _ => ⟨ctl, time⟩⟩
  · obtain ⟨k, turns⟩ := State.enterFaulted_spec (s := u) .hostMemory (ctl ▸ e)
    generalize u.enterFaulted .hostMemory = t at k turns
    refine ⟨by rw [k]; exact posted, by rw [k]; exact slots, by rw [k, rest], fun _ => ⟨?_, ?_, ?_, turns⟩, fun k => absurd k e⟩
    · rw [k, ctl]
    · rw [k, time]
    · rw [k]

/-- Settles O34: each block's read leaves it, and the entry to FAULTED does the rest. -/
theorem failedReadFaults : Obligations.FailedReadFaults := by
  intro s id h
  have both (r : Result) (e : s.begun.failRead id = r) : exec (.hostReadFailure id) s = r ∧ exec (.readTimeout id) s = r := by
    constructor
    · rw [← e, ← h.eq]; rfl
    · rw [← e, ← h.eq]; rfl
  refine ⟨fun out => ?_, fun lost some => ?_⟩
  · have fails : ∃ t, s.begun.failRead id = .next t ∧ s.ReadFails t := by
      rcases out with ⟨n, r, rfl, read⟩ | ⟨rfl, left, flight⟩ | ⟨rfl, reading⟩
      · exact ⟨(s.begun.clearRead n).enterFaulted .hostMemory, by simp [State.failRead, read], .of_enterFaulted⟩
      · exact ⟨s.begun.failSweep, by simp [State.failRead, flight], .of_enterFaulted (u := { s.begun with sweep := { s.begun.sweep with flight := none } })⟩
      · have : s.begun.openReading = true := reading
        exact ⟨s.begun.failSweep, by simp [State.failRead, this], .of_enterFaulted (u := { s.begun with sweep := { s.begun.sweep with flight := none } })⟩
    obtain ⟨t, e, k⟩ := fails
    exact ⟨t, (both _ e).1, (both _ e).2, k.posted, k.slots, k.rest, k.faults, k.stands⟩
  · subst lost
    exact both _ (by simp [State.failRead, some, State.dropLostRead, State.begun])

/-! ### The acceptance arbiter (R68, R69, R71) -/

/-- A source has an operation waiting where the offer is made (R68, R91). -/
theorem State.offer_isSome (s : State) (a : Source) : (s.offer a).isSome = true ↔
    match a with
    | .lanes => s.lookups ≠ []
    | .firming => s.index.firming ≠ []
    | .withdrawal => s.index.withdrawal ≠ []
    | .requests => s.index.requests ≠ []
    | .scan => s.index.state = .scanning ∧ s.index.scanNext < 2 ^ s.index.copy.k := by
  cases a <;> simp only [State.offer]
  · cases s.lookups <;> simp
  · cases s.index.firming <;> simp
  · cases s.index.withdrawal <;> simp
  · cases s.index.requests <;> simp
  · by_cases k : s.scanWaits = true
    · simpa [k] using (by simpa [State.scanWaits] using k : s.index.state = .scanning ∧ s.index.scanNext < 2 ^ s.index.copy.k)
    · rw [if_neg k]
      simpa [State.scanWaits] using k

theorem State.offer_lanes {l : Lookup} {ls : List Lookup} (e : s.lookups = l :: ls) : s.offer .lanes = some
    ({ kind := .lookup l, bucket := bucketOf s.index.copy.k l.digest, halt := none },
      ({ s with lookups := ls } : State).editSlot l.slot fun c => { c with inflight := c.inflight + 1 }) := by simp [State.offer, e]

theorem State.offer_firming {r : Nat} {rs : List Nat} {p : PoolRecord} (e : s.index.firming = r :: rs) (record : s.record r = some p) :
    s.offer .firming = some ({ kind := .firm r, bucket := p.bucket, halt := none }, { s with index := { s.index with firming := rs } }) := by
  simp [State.offer, State.recordBucket, e, record]

theorem State.offer_withdrawal {r : Nat} {rs : List Nat} {p : PoolRecord} (e : s.index.withdrawal = r :: rs) (record : s.record r = some p) :
    s.offer .withdrawal =
      some ({ kind := .withdraw r, bucket := p.bucket, halt := none }, { s with index := { s.index with withdrawal := rs } }) := by
  simp [State.offer, State.recordBucket, e, record]

theorem State.offer_requests {o : MaintOp} {os : List MaintOp} (e : s.index.requests = o :: os) : s.offer .requests = some
    ({ kind := o.kind, bucket := bucketOf s.index.copy.k o.digest, halt := none }, { s with index := { s.index with requests := os } }) := by
  simp [State.offer, e]

theorem State.offer_scan (scanning : s.index.state = .scanning) (more : s.index.scanNext < 2 ^ s.index.copy.k) : s.offer .scan = some
    ({ kind := .scan s.index.scanNext, bucket := s.index.scanNext, halt := none },
      { s with index := { s.index with scanNext := s.index.scanNext + 1 } }) := by
  simp [State.offer, State.scanWaits, scanning, more]

/-- The cyclic order from a source on is the order of the sources, turned until it stands first (R69). -/
theorem Source.cycle_eq {p : Source} {ps qs : List Source} (h : [Source.lanes, .firming, .withdrawal, .requests, .scan] = ps ++ p :: qs) :
    p.cycle = p :: qs ++ ps := by
  rcases ps with _ | ⟨a, _ | ⟨b, _ | ⟨c, _ | ⟨d, _ | ⟨e, ps⟩⟩⟩⟩⟩ <;> simp at h
  · obtain ⟨rfl, rfl⟩ := h; rfl
  · obtain ⟨rfl, rfl, rfl⟩ := h; rfl
  · obtain ⟨rfl, rfl, rfl, rfl⟩ := h; rfl
  · obtain ⟨rfl, rfl, rfl, rfl, rfl⟩ := h; rfl
  · obtain ⟨rfl, rfl, rfl, rfl, rfl, rfl⟩ := h; rfl

/-- The arbiter chooses the first source from the pointer on that has an operation waiting and may be accepted from (R69, R71). -/
theorem State.chosen_eq {a : Source} {as bs : List Source} (cycle : s.index.pointer.cycle = as ++ a :: bs)
    (passed : ∀ x ∈ as, ¬((s.offer x).isSome = true ∧ (s.mayWrite = true ∨ x = .scan))) (offers : (s.offer a).isSome = true)
    (open' : s.mayWrite = true ∨ a = .scan) : s.chosen = some a := by
  have accepts (x : Source) : s.accepts x = true ↔ s.mayWrite = true ∨ x = .scan := by simp [State.accepts]
  refine List.find?_eq_some_iff_append.2 ⟨by simp [(accepts a).2 open', offers], as, bs, cycle, fun x hx => ?_⟩
  have := passed x hx
  rw [← accepts] at this
  by_cases offered : (s.offer x).isSome = true
  · simp [offered] at this
    simp [this]
  · simp [offered]

/-- The operation of the chosen source goes into flight (R68, R69). -/
theorem State.Settled.operationAccepted (h : s.Settled) {a : Source} (room : s.index.inflight.length < 64) (chosen : s.begun.chosen = some a)
    {op : Op} {u : State} (offer : s.begun.offer a = some (op, u)) : exec .operationAccepted s = .next (u.putInFlight a op) := by
  simp only [exec, execOperationAccepted, h.eq]
  rw [if_neg (by exact Nat.not_le.2 room), chosen]
  simp only [offer]

/-- Settles O35: the choice of the source, and the state that its offer leaves. -/
theorem arbiterAccepts : Obligations.ArbiterAccepts := by
  intro s waits a as bs h room lanes firming withdrawal requests scan turned passed waiting open'
  obtain ⟨ps, qs, order, first⟩ := turned
  have offers (x : Source) : (s.begun.offer x).isSome = true ↔ waits x := by
    rw [State.offer_isSome]
    cases x
    · exact lanes.symm
    · exact firming.symm
    · exact withdrawal.symm
    · exact requests.symm
    · exact scan.symm
  have chosen : s.begun.chosen = some a :=
    State.chosen_eq (s := s.begun) ((Source.cycle_eq order).trans first) (fun x hx => by rw [offers]; exact passed x hx) ((offers a).2 waiting) open'
  have accepted {op : Op} {u : State} := h.operationAccepted (op := op) (u := u) room chosen
  refine ⟨?_, ?_, ?_, ?_, ?_, ?_⟩
  · rintro l ls rfl e
    exact accepted (State.offer_lanes e)
  · rintro r rs p rfl e record
    exact accepted (State.offer_firming e record)
  · rintro r rs p rfl e record
    exact accepted (State.offer_withdrawal e record)
  · rintro o os rfl e
    exact accepted (State.offer_requests e)
  · rintro o os rfl e
    exact accepted (State.offer_requests e)
  · rintro rfl
    exact accepted (State.offer_scan (scan.1 waiting).1 (scan.1 waiting).2)

end Sys2Proof.Machine

namespace Sys2Proof.Machine

set_option Elab.async false

/-! ### The chunker's byte (R3, R9) -/

/-- The eight shifts of the check register, spelt with its top bit (R9). -/
theorem checkByte_eq (r : BitVec 32) (b : Byte) : checkByte r b =
    (List.range 8).foldl (fun r _ => if r.getLsbD 31 then (r <<< 1) ^^^ 0x1EDC6F41#32 else r <<< 1) (r ^^^ (b.setWidth 32 <<< 24)) := by
  have shift (r : BitVec 32) : checkShift r = if r.getLsbD 31 then (r <<< 1) ^^^ 0x1EDC6F41#32 else r <<< 1 := by
    simp [checkShift, BitVec.msb_eq_getLsbD_last]
  simp only [← shift]
  rfl

/-- The byte that leaves a window taking a new one: the oldest of a full window, and none, for which 0 stands, of any other (R3). -/
theorem windowLeaves_eq {x : Byte} {window w : List Byte} (h : window.length = 32 ∧ window = x :: w ∨ window.length ≠ 32 ∧ x = 0 ∧ w = window) :
    windowLeaves window = (x, w) := by
  unfold windowLeaves
  rcases h with ⟨full, e⟩ | ⟨short, rfl, rfl⟩
  · rw [if_pos full, e]; rfl
  · rw [if_neg short]

/-- Steps 1 to 5 of R3. -/
theorem Chunker.take_eq (h : Chunker) (b x : Byte) (w : List Byte)
    (leaves : h.window.length = 32 ∧ h.window = x :: w ∨ h.window.length ≠ 32 ∧ x = 0 ∧ w = h.window) :
    h.take b = { h with
      len := h.len + 1, window := w ++ [b], hash := h.hash * 0x6F4A7C15 + b.setWidth 32 - x.setWidth 32 * BitVec.ofNat 32 (0x6F4A7C15 ^ 32)
      fed := b :: h.fed
      check := (List.range 8).foldl (fun r _ => if r.getLsbD 31 then (r <<< 1) ^^^ 0x1EDC6F41#32 else r <<< 1)
        (h.check ^^^ (b.setWidth 32 <<< 24)) } := by
  rw [← checkByte_eq]
  unfold Chunker.take
  rw [windowLeaves_eq leaves]
  rfl

/-- A byte leaves the Finished mark (R3). -/
theorem Chunker.take_finished (h : Chunker) (b : Byte) : (h.take b).finished = h.finished := by
  unfold Chunker.take
  obtain ⟨x, w⟩ := windowLeaves h.window
  cases h
  rfl

variable {s t : State}

/-! ### Turns (R18, R19, R54, R55) -/

theorem State.setSlot_setSlot (s : State) (i : SlotNo) (c d : Slot) : (s.setSlot i c).setSlot i d = s.setSlot i d := by
  simp [State.setSlot]

theorem State.setLane_setLane (s : State) (n : LaneNo) (l m : Lane) : (s.setLane n l).setLane n m = s.setLane n m := by
  simp [State.setLane]

/-- A stream goes on taking bytes in a turn that has taken so many, by the checks of R19. -/
def Slot.takesMore (c : Slot) (count : Nat) : Bool :=
  c.state.isOpen && !c.chunker.finished && decide (c.pending.length < 8) && decide (count < turnLimit) && c.headUsable

theorem Slot.headUsable_iff (c : Slot) : c.headUsable = true ↔ ∃ g gs, c.feed = g :: gs ∧ g.offset ≤ c.consumed := by
  unfold Slot.headUsable
  cases c.feed <;> simp

theorem Slot.takesMore_iff (c : Slot) (count : Nat) : c.takesMore count = true ↔
    c.state.isOpen = true ∧ c.chunker.finished = false ∧ c.pending.length < 8 ∧ count < 262144 ∧ ∃ g gs, c.feed = g :: gs ∧ g.offset ≤ c.consumed := by
  simp only [Slot.takesMore, Bool.and_eq_true, decide_eq_true_eq, Bool.not_eq_true', Slot.headUsable_iff, and_assoc]
  rfl

/-- A turn takes a byte where the checks of R19 allow it, and else leaves the rest of the read. -/
theorem State.takeBytes_cons {n : LaneNo} {turn : Turn} (at_turn : (s.lanes.get n).turn = some turn) (cell : CellNo) (b : Byte) (bs : List Byte) :
    s.takeBytes n cell (b :: bs) =
      if (s.slot turn.slot).takesMore turn.count = true then (s.takeByte n turn cell b).takeBytes n cell bs else s := by
  rw [State.takeBytes, at_turn]
  rfl

/-- The read of a turn that has taken so many bytes, from the head segment (R54). -/
def Slot.readFrom (c : Slot) (g : Segment) (count : Nat) : SegRead :=
  { cell := g.cell, addr := g.addr + (c.consumed - g.offset), length := min 4096 (min (g.offset + g.length - c.consumed) (262144 - count)) }

/-- A read does not depend on the bytes that its segment has counted. -/
theorem Slot.readFrom_congr {g h : Segment} (c : Slot) (count : Nat) (cell : h.cell = g.cell) (addr : h.addr = g.addr) (offset : h.offset = g.offset)
    (length : h.length = g.length) : c.readFrom h count = c.readFrom g count := by
  simp only [Slot.readFrom, cell, addr, offset, length]

theorem Slot.nextRead_of_usable {c : Slot} {g : Segment} {gs : List Segment} (feed : c.feed = g :: gs) (usable : g.offset ≤ c.consumed)
    (count : Nat) : c.nextRead count = some (c.readFrom g count) := by
  simp only [Slot.nextRead, feed, if_pos usable]
  rfl

/-- A lane between bytes whose stream goes on issues the next read from the head segment (R54). -/
theorem State.continueTurn_of_more {n : LaneNo} {turn : Turn} {g : Segment} {gs : List Segment} (at_turn : (s.lanes.get n).turn = some turn)
    (isOpen : (s.slot turn.slot).state.isOpen = true) (unfinished : (s.slot turn.slot).chunker.finished = false)
    (room : (s.slot turn.slot).pending.length < 8) (below : turn.count < 262144) (feed : (s.slot turn.slot).feed = g :: gs)
    (usable : g.offset ≤ (s.slot turn.slot).consumed) (more : (s.slot turn.slot).final ≠ some (s.slot turn.slot).consumed) :
    s.continueTurn n = s.setLane n { turn := some turn, read := some ((s.slot turn.slot).readFrom g turn.count) } := by
  have goes : ¬((s.slot turn.slot).chunker.finished = true ∨ turnLimit ≤ turn.count ∨ (s.slot turn.slot).state.isOpen = false ∨
      8 ≤ (s.slot turn.slot).pending.length) := by
    rintro (h | h | h | h)
    · simp [unfinished] at h
    · exact absurd h (Nat.not_le.2 below)
    · simp [isOpen] at h
    · exact absurd h (Nat.not_le.2 room)
  unfold State.continueTurn
  rw [at_turn]
  dsimp only
  rw [if_neg (Nat.not_le.2 room), s.endStream_of_not turn.slot more, if_neg goes, Slot.nextRead_of_usable feed usable]

/-- Where the Consumed Offset has come to no segment's end, none leaves (R57). -/
theorem State.leaveSegments_of_none (s : State) {i : SlotNo} (h : ∀ g ∈ (s.slot i).feed, (s.slot i).consumed < g.offset + g.length) :
    s.leaveSegments i = s := by
  have stays : ∀ g ∈ (s.slot i).feed, ¬ g.stop ≤ (s.slot i).consumed := fun g hg => Nat.not_le.2 (h g hg)
  have gone : (s.slot i).feed.filter (fun g => decide (g.stop ≤ (s.slot i).consumed)) = [] :=
    List.filter_eq_nil_iff.2 fun g hg => by simpa using stays g hg
  have kept : (s.slot i).feed.filter (fun g => !decide (g.stop ≤ (s.slot i).consumed)) = (s.slot i).feed :=
    List.filter_eq_self.2 fun g hg => by simpa using stays g hg
  unfold State.leaveSegments State.editSlot
  dsimp only
  rw [gone, kept, s.setSlot_slot]
  rfl

/-- The context after a byte from the segment of a cell that ends neither a chunk, nor a segment, nor the stream (R2, R3, R51). -/
def Slot.takeInside (c : Slot) (cell : CellNo) (b : Byte) : Slot := { c.takeByte b with feed := countByte cell c.feed }

/-- A byte of a turn that ends neither a chunk, nor a segment, nor the stream (R19, R55). -/
theorem State.takeByte_of_inside {n : LaneNo} {turn : Turn} {cell : CellNo} {b : Byte}
    (inside : boundary (s.slot turn.slot).cls ((s.slot turn.slot).chunker.take b).len ((s.slot turn.slot).chunker.take b).hash = false)
    (more : (s.slot turn.slot).final ≠ some ((s.slot turn.slot).consumed + 1))
    (stay : ∀ x ∈ (s.slot turn.slot).feed, (s.slot turn.slot).consumed + 1 < x.offset + x.length) :
    s.takeByte n turn cell b =
      (s.setSlot turn.slot ((s.slot turn.slot).takeInside cell b)).setLane n
        { s.lanes.get n with turn := some { turn with count := turn.count + 1 } } := by
  have stays : ∀ g ∈ countByte cell (s.slot turn.slot).feed, (s.slot turn.slot).consumed + 1 < g.offset + g.length := fun g hg => by
    obtain ⟨x, hx, -, -, offset, length⟩ := mem_countByte hg
    rw [offset, length]
    exact stay x hx
  unfold State.takeByte
  rw [s.chunkByte_of_open turn.slot b inside more]
  have counted : (s.setSlot turn.slot ((s.slot turn.slot).takeByte b)).editSlot turn.slot (fun c => { c with
      feed := c.feed.map fun g => if g.cell = cell then { g with count := g.count + 1 } else g }) =
      s.setSlot turn.slot ((s.slot turn.slot).takeInside cell b) := by
    rw [State.editSlot, State.setSlot_setSlot, State.slot_setSlot_self]; rfl
  dsimp only
  rw [counted, State.leaveSegments_of_none _ (by rw [State.slot_setSlot_self]; exact stays)]
  rfl

/-- A read of one byte that stays inside its chunk and its segment: the turn goes on (R54, R55). -/
theorem State.takeBytes_one {n : LaneNo} {i : SlotNo} {count : Nat} {cell : CellNo} {b : Byte} {g : Segment} {gs : List Segment}
    (lane : s.lanes.get n = { turn := some { slot := i, count := count }, read := none }) (isOpen : (s.slot i).state.isOpen = true)
    (unfinished : (s.slot i).chunker.finished = false) (room : (s.slot i).pending.length < 8) (below : count + 1 < 262144)
    (feed : (s.slot i).feed = g :: gs) (usable : g.offset ≤ (s.slot i).consumed)
    (stay : ∀ x ∈ (s.slot i).feed, (s.slot i).consumed + 1 < x.offset + x.length)
    (inside : boundary (s.slot i).cls ((s.slot i).chunker.take b).len ((s.slot i).chunker.take b).hash = false)
    (more : (s.slot i).final ≠ some ((s.slot i).consumed + 1)) :
    (s.takeBytes n cell [b]).continueTurn n = (s.setSlot i ((s.slot i).takeInside cell b)).setLane n
      { turn := some { slot := i, count := count + 1 }, read := some (((s.slot i).takeInside cell b).readFrom g (count + 1)) } := by
  have lt : count < 262144 := Nat.lt_of_succ_lt below
  have takes : (s.slot i).takesMore count = true := ((s.slot i).takesMore_iff count).2 ⟨isOpen, unfinished, room, lt, g, gs, feed, usable⟩
  rw [State.takeBytes_cons (congrArg Lane.turn lane), if_pos takes, State.takeBytes,
    State.takeByte_of_inside (turn := { slot := i, count := count }) (cell := cell) inside more stay]
  dsimp only
  generalize hd : (s.slot i).takeInside cell b = d
  generalize hu : (s.setSlot i d).setLane n _ = u
  have self : u.slot i = d := by rw [← hu, State.slot_setLane, State.slot_setSlot_self]
  have at_turn : (u.lanes.get n).turn = some { slot := i, count := count + 1 } := by rw [← hu, State.lane_setLane_self]
  obtain ⟨h, hs, counted, offset, read⟩ : ∃ h hs, d.feed = h :: hs ∧ h.offset ≤ d.consumed ∧ d.readFrom h (count + 1) = d.readFrom g (count + 1) := by
    rw [← hd]
    refine ⟨if g.cell = cell then { g with count := g.count + 1 } else g, countByte cell gs, ?_, ?_, ?_⟩
    · simp [Slot.takeInside, countByte, feed]
    · have : g.offset ≤ (s.slot i).consumed + 1 := Nat.le_succ_of_le usable
      split <;> exact this
    · split
      · exact Slot.readFrom_congr _ _ rfl rfl rfl rfl
      · rfl
  rw [State.continueTurn_of_more at_turn (by rw [self, ← hd]; exact isOpen) (by rw [self, ← hd]; exact (Chunker.take_finished _ b).trans unfinished)
    (by rw [self, ← hd]; exact room) below (by rw [self]; exact counted) (by rw [self]; exact offset) (by rw [self, ← hd]; exact more),
    self, read, ← hu, State.setLane_setLane]

/-- Settles O33: the byte stays inside its chunk and its segment, and the turn goes on. -/
theorem oneByteIsTaken : Obligations.OneByteIsTaken := by
  refine ⟨fun h b x w leaves => h.take_eq b x w leaves, ?_⟩
  rintro s n i count r b c h g gs lane length settled rfl rfl isOpen unfinished room below feed usable stay inside more
  have cleared : (s.begun.clearRead n).lanes.get n = { turn := some { slot := i, count := count }, read := none } := by
    rw [State.clearRead, State.lane_setLane_self, State.begun_lanes, lane]
  have run : exec (.segmentReadComplete (.lane n) [b]) s =
      .next (s.begun.endEvent (((s.begun.clearRead n).takeBytes n r.cell [b]).continueTurn n)) := by
    simp only [exec, execSegmentReadComplete, settled.eq, State.begun_lanes, lane]
    rw [if_pos (by simpa using length.symm)]
  rw [run, State.takeBytes_one cleared isOpen unfinished room below feed usable stay inside more, State.endEvent_of_same]
  · exact congrArg (fun u => Host.Outcome.next (State.setSlot u i ((s.slot i).takeInside r.cell b)).begun)
      (s.begun.setLane_setLane n { s.lanes.get n with read := none }
        { turn := some { slot := i, count := count + 1 }, read := some (((s.slot i).takeInside r.cell b).readFrom g (count + 1)) })
  · rfl
  · rfl

end Sys2Proof.Machine

namespace Sys2Proof.Machine

set_option Elab.async false

variable {s t : State}

/-! ### LANE_TAKES_SLOT (R7, R8, R17, R18, R19, R54) -/

/-- An event that adds no level ends with the writes it has made, and no message (R166). -/
theorem State.endEvent_of_quiet (s : State) (h : t.notice.levels = s.notice.levels) : s.endEvent t = s.issued t := by
  simp [State.endEvent, State.notify, h]

/-- The end of a turn: the lane is without one, and the slot may join the Run List (R19). -/
theorem State.endTurn_eq {n : LaneNo} {turn : Turn} (at_turn : (s.lanes.get n).turn = some turn) :
    s.endTurn n = (s.setLane n { s.lanes.get n with turn := none }).joinRun turn.slot := by
  simp [State.endTurn, at_turn]

/-- A slot that is not eligible does not join the Run List (R17). -/
theorem State.joinRun_of_not {i : SlotNo} (h : (s.slot i).eligible = false) : s.joinRun i = s := by
  simp [State.joinRun, h]

theorem Slot.eligible_iff (c : Slot) : c.eligible = true ↔
    c.state.isOpen = true ∧ c.chunker.finished = false ∧ c.pending.length < 8 ∧ (c.headUsable = true ∨ c.finalDue = true) := by
  simp only [Slot.eligible, Bool.and_eq_true, Bool.or_eq_true, Bool.not_eq_true', decide_eq_true_eq, and_assoc]

/-- The lane that begins a turn on the head of the Run List (R18). -/
theorem State.Settled.laneTakesSlot (h : s.Settled) {n : LaneNo} {i : SlotNo} {rest : List SlotNo} (m : s.mayWrite = true)
    (idle : s.lanes.get n = { turn := none, read := none }) (runList : s.runList = i :: rest) :
    exec (.laneTakesSlot n) s =
      if (s.slot i).eligible = true then
        .next (({ s.begun with runList := rest } : State).endEvent (({ s.begun with runList := rest } : State).beginTurn n i))
      else .next { s.begun with runList := rest } := by
  have m' : s.begun.mayWrite = true := m
  simp only [exec, execLaneTakesSlot, h.eq, m', State.begun_lanes, idle, Lane.idle, State.begun_runList, runList]
  rfl

/-- The context that is left where a final chunk has been made (R6, R7, R8). -/
theorem State.cutChunk_marked (i : SlotNo) (isOpen : (s.slot i).state.isOpen = true) (final : (s.slot i).final = some (s.slot i).consumed) :
    ((s.cutChunk i).slot i).marked = { s.slot i with
      pending := (s.slot i).pending ++ [(s.slot i).openChunk], state := ((s.cutChunk i).slot i).marked.decided
      chunker := { (s.slot i).chunker.nextChunk with finished := true }, shown := ((s.cutChunk i).slot i).marked.shown } := by
  obtain ⟨-, self, -⟩ := s.cutChunk_spec i
  have chunker := s.cutChunk_marked_chunker i
  rw [final] at chunker
  have decided : ((s.cutChunk i).slot i).marked.decided = (s.slot i).cut.decided := by
    rw [self]; exact Slot.decided_congr
  rw [decided]
  rw [if_pos isOpen] at self
  have mark (c : Slot) : c.marked = { c with chunker := c.marked.chunker } := rfl
  rw [mark, chunker, self]
  simp [Slot.cut]

/-- A lane whose stream has come to its end with a final chunk due makes it, without a byte, and ends its turn (R7, R8, R19). -/
theorem State.beginTurn_of_due {n : LaneNo} {i : SlotNo} (eligible : (s.slot i).eligible = true) (due : (s.slot i).finalDue = true) :
    let u := s.setLane n { turn := some { slot := i, count := 0 }, read := none }
    s.beginTurn n i = ((u.cutChunk i).setSlot i ((u.cutChunk i).slot i).marked).setLane n { turn := none, read := none } := by
  obtain ⟨isOpen, -, room, -⟩ := (s.slot i).eligible_iff.1 eligible
  have final : (s.slot i).final = some (s.slot i).consumed := by
    simp only [Slot.finalDue, Bool.and_eq_true, beq_iff_eq] at due
    exact due.1
  unfold State.beginTurn State.continueTurn
  dsimp only
  rw [State.lane_setLane_self]
  generalize hu : s.setLane n { turn := some { slot := i, count := 0 }, read := none } = u
  have self : u.slot i = s.slot i := by rw [← hu]; rfl
  have ended := u.endStream_of_due i (self ▸ due) (self ▸ room)
  generalize hw : (u.cutChunk i).setSlot i ((u.cutChunk i).slot i).marked = w at ended ⊢
  have finished : (w.slot i).chunker.finished = true := by
    rw [← hw, State.slot_setSlot_self, u.cutChunk_marked i (self ▸ isOpen) (by rw [self]; exact final)]
  have lane : w.lanes.get n = { turn := some { slot := i, count := 0 }, read := none } := by
    rw [← hw, State.setSlot_lanes, (u.cutChunk_spec i).1, ← hu]
    exact s.lane_setLane_self n _
  dsimp only
  rw [if_neg (by rw [self]; exact Nat.not_le.2 room), ended, if_pos (.inl finished), State.endTurn_eq (congrArg Lane.turn lane), lane,
    State.joinRun_of_not (by simp [Slot.eligible, finished])]

/-- Settles O31: the head of the Run List is passed over, read from, or at its stream's end. -/
theorem laneTakesASlot : Obligations.LaneTakesASlot := by
  intro s n i rest h m idle runList
  have run := h.laneTakesSlot m idle runList
  refine ⟨fun out => ?_, fun g gs eligible feed usable more => ?_, fun eligible final len => ?_⟩
  · rw [run, if_neg (by simp [out])]
  · obtain ⟨isOpen, unfinished, room, -⟩ := (s.slot i).eligible_iff.1 eligible
    have begun := State.continueTurn_of_more
      (s := ({ s.begun with runList := rest } : State).setLane n { turn := some { slot := i, count := 0 }, read := none }) (n := n)
      (turn := { slot := i, count := 0 }) (by rw [State.lane_setLane_self]) isOpen unfinished room (by norm_num) feed usable more
    rw [State.setLane_setLane] at begun
    rw [run, if_pos eligible, State.beginTurn, begun, State.endEvent_of_same]
    · rfl
    · rfl
    · rfl
  · have due : (s.slot i).finalDue = true := by simp [Slot.finalDue, final, len]
    have begun := State.beginTurn_of_due (s := { s.begun with runList := rest }) (n := n) eligible due
    dsimp only at begun
    generalize hu : State.setLane _ n { turn := some { slot := i, count := 0 }, read := none } = u at begun
    have self : u.slot i = s.slot i := by rw [← hu]; rfl
    obtain ⟨isOpen, -, -, -⟩ := (s.slot i).eligible_iff.1 eligible
    have context := u.cutChunk_marked i (self ▸ isOpen) (by rw [self]; exact final)
    obtain ⟨frame, -, others⟩ := u.cutChunk_spec i
    rw [self] at context frame
    generalize hw : (u.cutChunk i).setSlot i ((u.cutChunk i).slot i).marked = w at begun
    have wself : w.slot i = ((u.cutChunk i).slot i).marked := by rw [← hw, State.slot_setSlot_self]
    rw [← wself] at context
    have wrest : w = { s with
        runList := rest, lanes := u.lanes, slots := w.slots, port := w.port, lookups := s.lookups ++ [lookupOf i (s.slot i).openChunk] } := by
      rw [← hw, frame, ← hu]; rfl
    have lanes : u.lanes.set n { turn := none, read := none } = s.lanes := by
      rw [← hu, ← idle]
      exact (Vector.set_set ..).trans (Vector.set_getElem_self n.isLt)
    refine ⟨({ s.begun with runList := rest } : State).issued (w.setLane n { turn := none, read := none }), (s.slot i).openChunk, ?_, rfl, context, ?_,
      fun j e => ?_⟩
    · rw [run, if_pos eligible, begun, State.endEvent_of_quiet _ (by rw [wrest]; rfl)]
    · rw [wrest, ← lanes]; rfl
    · rw [State.slot_issued, State.slot_setLane, ← hw, State.slot_setSlot_of_ne _ _ _ _ e, others j e, ← hu]; rfl

end Sys2Proof.Machine

namespace Sys2Proof.Machine

set_option Elab.async false

variable {s t : State}

/-! ### SEGMENT_READ_COMPLETE (R19, R20, R43, R54, R55, R57) -/

/-- So many bytes of a turn have been taken by its stream, and the chunks `ps` found (R2, R6, R19, R43). -/
structure State.Feeds (s v : State) (n : LaneNo) (i : SlotNo) (count m : Nat) (ps : List PendingChunk) : Prop where
  rest : v = { s with slots := v.slots, port := v.port, lookups := s.lookups ++ ps.map (lookupOf i)
                      lanes := s.lanes.set n { turn := some { slot := i, count := count + m }, read := none } }
  consumed : (v.slot i).consumed = (s.slot i).consumed + m
  bytes : (v.slot i).stats.bytes = if m = 0 then (s.slot i).stats.bytes else sat48 ((s.slot i).stats.bytes + m)
  pending : (v.slot i).pending = (s.slot i).pending ++ ps
  looking : ∀ p ∈ ps, p.cond = .looking
  others : ∀ j, j ≠ i → v.slot j = s.slot j

theorem State.Feeds.refl {n : LaneNo} {i : SlotNo} {count : Nat} (lane : s.lanes.get n = { turn := some { slot := i, count := count }, read := none }) :
    s.Feeds s n i count 0 [] where
  rest := by
    have : s.lanes.set n { turn := some { slot := i, count := count }, read := none } = s.lanes := by
      rw [← lane]; exact Vector.set_getElem_self n.isLt
    simp [this]
  consumed := rfl
  bytes := rfl
  pending := by simp
  looking := by simp
  others := fun _ _ => rfl

theorem sat48_sat48 (a b : Nat) : sat48 (sat48 a + b) = sat48 (a + b) := by
  unfold sat48
  omega

/-- A byte of the turn, and those after it. -/
theorem State.Feeds.cons {v : State} {n : LaneNo} {i : SlotNo} {count m : Nat} {cell : CellNo} {b : Byte} {ps : List PendingChunk}
    (lane : s.lanes.get n = { turn := some { slot := i, count := count }, read := none })
    (h : (s.takeByte n { slot := i, count := count } cell b).Feeds v n i (count + 1) m ps) : ∃ qs, s.Feeds v n i count (m + 1) qs := by
  obtain ⟨rest, others, self, -⟩ := s.takeByte_spec n { slot := i, count := count } cell b
  obtain ⟨qs, k⟩ := s.chunkByte_chunks i b
  have base := s.chunkByte_self i b
  have krest := k.rest
  have kself := k.self
  have kothers := k.others
  dsimp only at rest others self
  generalize s.chunkByte i b = w at rest others self k base krest kself kothers
  generalize s.takeByte n { slot := i, count := count } cell b = u at h rest others self
  have slotOf : u.slot i = { w.slot i with feed := (u.slot i).feed, cells := (u.slot i).cells, stats := (u.slot i).stats } := by rw [self]
  have bytes : (u.slot i).stats.bytes = sat48 ((s.slot i).stats.bytes + 1) := by rw [self, base]
  have consumed : (u.slot i).consumed = (s.slot i).consumed + 1 := by rw [slotOf, base]
  have pending : (u.slot i).pending = (s.slot i).pending ++ qs := by rw [slotOf, kself, State.slot_setSlot_self]; rfl
  have wlane : w.lanes = s.lanes := by rw [krest]; rfl
  have urest : u = { s with slots := u.slots, port := u.port, lookups := s.lookups ++ qs.map (lookupOf i)
                            lanes := s.lanes.set n { turn := some { slot := i, count := count + 1 }, read := none } } := by
    rw [rest, wlane, lane, krest]
    rfl
  refine ⟨qs ++ ps, ?_, ?_, ?_, ?_, ?_, fun j e => ?_⟩
  · have again := h.rest
    rw [urest] at again
    rw [again]
    simp only [Vector.set_set, List.map_append, List.append_assoc, Nat.add_assoc, Nat.add_comm 1 m]
  · rw [h.consumed, consumed]; omega
  · rw [h.bytes, bytes]
    by_cases e : m = 0
    · subst e; rfl
    · rw [if_neg e, if_neg (Nat.succ_ne_zero m), sat48_sat48, Nat.add_assoc, Nat.add_comm 1 m]
  · rw [h.pending, pending, List.append_assoc]
  · exact fun p hp => (List.mem_append.1 hp).elim (k.looking p) (h.looking p)
  · rw [h.others j e, others j e, kothers j e, State.slot_setSlot_of_ne _ _ _ _ e]

/-- A state, and then those of a sequence. -/
def stateThen (s : State) (u : Nat → State) : Nat → State
  | 0 => s
  | k + 1 => u k

/-- The bytes of a read are taken one at a time, until it is used up or a check of R19 ends the taking (R19, R55). -/
theorem State.takeBytes_spec {n : LaneNo} {i : SlotNo} (cell : CellNo) (data : List Byte) : ∀ (s : State) (count : Nat),
    s.lanes.get n = { turn := some { slot := i, count := count }, read := none } →
    ∃ m ps, ∃ u : Nat → State, m ≤ data.length ∧ u 0 = s ∧
      (∀ k b, k < m → data[k]? = some b → u (k + 1) = (u k).takeByte n { slot := i, count := count + k } cell b) ∧
      (∀ k, k ≤ m → (k < m ∨ m < data.length) → (k < m ↔ ((u k).slot i).takesMore (count + k) = true)) ∧
      s.takeBytes n cell data = u m ∧ s.Feeds (u m) n i count m ps := by
  induction data with
  | nil =>
    intro s count lane
    refine ⟨0, [], fun _ => s, le_rfl, rfl, fun k b k0 => absurd k0 (Nat.not_lt_zero k), fun k _ some => ?_, rfl, .refl lane⟩
    simp at some
  | cons b bs ih =>
    intro s count lane
    have at_turn : (s.lanes.get n).turn = some { slot := i, count := count } := congrArg Lane.turn lane
    rw [State.takeBytes_cons at_turn]
    by_cases takes : (s.slot i).takesMore count = true
    · rw [if_pos takes]
      have lane' : (s.takeByte n { slot := i, count := count } cell b).lanes.get n = { turn := some { slot := i, count := count + 1 }, read := none } := by
        obtain ⟨ps, k⟩ := s.chunkByte_chunks i b
        rw [(s.takeByte_spec n { slot := i, count := count } cell b).1]
        dsimp only
        rw [get_set_self, k.rest]
        exact congrArg (fun l : Lane => { l with turn := some { slot := i, count := count + 1 } }) lane
      obtain ⟨m, ps, u, le, zero, step, goes, ends, feeds⟩ := ih _ (count + 1) lane'
      obtain ⟨qs, feeds⟩ := feeds.cons lane
      refine ⟨m + 1, qs, stateThen s u, Nat.succ_le_succ le, rfl, fun k x lt at_k => ?_, fun k le' more => ?_, ends, feeds⟩
      · cases k with
        | zero =>
          cases at_k
          exact zero
        | succ k =>
          have := step k x (Nat.lt_of_succ_lt_succ lt) at_k
          rwa [Nat.add_assoc, Nat.add_comm 1 k] at this
      · cases k with
        | zero => exact ⟨fun _ => takes, fun _ => Nat.succ_pos m⟩
        | succ k =>
          have := goes k (Nat.le_of_succ_le_succ le') (more.imp Nat.lt_of_succ_lt_succ Nat.lt_of_succ_lt_succ)
          rw [Nat.add_assoc, Nat.add_comm 1 k] at this
          exact Nat.succ_lt_succ_iff.trans this
    · rw [if_neg takes]
      refine ⟨0, [], fun _ => s, Nat.zero_le _, rfl, fun k x lt => absurd lt (Nat.not_lt_zero k), fun k le _ => ?_, rfl, .refl lane⟩
      obtain rfl := Nat.le_zero.1 le
      exact ⟨fun lt => absurd lt (Nat.lt_irrefl 0), fun k => absurd k takes⟩

/-- The ends of a turn that has taken so many bytes (R19). -/
def Slot.turnEnds (c : Slot) (count : Nat) : Prop :=
  c.state.isOpen = false ∨ c.chunker.finished = true ∨ 8 ≤ c.pending.length ∨ 262144 ≤ count ∨ ∀ g gs, c.feed = g :: gs → c.consumed < g.offset

/-- A lane between bytes: a final chunk that is due is made, and then the turn ends at one of the ends of R19, or the next read is issued (R7, R19, R54). -/
theorem State.continueTurn_spec {n : LaneNo} {i : SlotNo} {count : Nat} (at_turn : (s.lanes.get n).turn = some { slot := i, count := count }) :
    ∃ e ps, s.Chunks e i ps ∧
      ((e.slot i).turnEnds count ∧ s.continueTurn n = e.endTurn n ∨
        ¬(e.slot i).turnEnds count ∧ ∃ g gs, (e.slot i).feed = g :: gs ∧
          s.continueTurn n = e.setLane n { turn := some { slot := i, count := count }, read := some ((e.slot i).readFrom g count) }) := by
  unfold State.continueTurn
  rw [at_turn]
  dsimp only
  by_cases full : 8 ≤ (s.slot i).pending.length
  · rw [if_pos full]
    exact ⟨s, [], .refl s i, .inl ⟨.inr (.inr (.inl full)), rfl⟩⟩
  · rw [if_neg full]
    obtain ⟨ps, k⟩ := s.endStream_chunks i
    refine ⟨s.endStream i, ps, k, ?_⟩
    generalize s.endStream i = e
    by_cases stop : (e.slot i).chunker.finished = true ∨ turnLimit ≤ count ∨ (e.slot i).state.isOpen = false ∨ 8 ≤ (e.slot i).pending.length
    · rw [if_pos stop]
      refine .inl ⟨?_, rfl⟩
      rcases stop with stop | stop | stop | stop
      · exact .inr (.inl stop)
      · exact .inr (.inr (.inr (.inl stop)))
      · exact .inl stop
      · exact .inr (.inr (.inl stop))
    · rw [if_neg stop]
      simp only [not_or] at stop
      obtain ⟨unfinished, below, isOpen, room⟩ := stop
      cases feed : (e.slot i).feed with
      | nil =>
        have none : (e.slot i).nextRead count = none := by simp [Slot.nextRead, feed]
        rw [none]
        exact .inl ⟨.inr (.inr (.inr (.inr fun g gs h => by simp [feed] at h))), rfl⟩
      | cons g gs =>
        by_cases usable : g.offset ≤ (e.slot i).consumed
        · rw [Slot.nextRead_of_usable feed usable]
          refine .inr ⟨?_, g, gs, rfl, rfl⟩
          rintro (h | h | h | h | h)
          · exact isOpen h
          · exact unfinished h
          · exact room h
          · exact below h
          · exact absurd usable (Nat.not_le.2 (h g gs feed))
        · have none : (e.slot i).nextRead count = none := by simp [Slot.nextRead, feed, usable]
          rw [none]
          refine .inl ⟨.inr (.inr (.inr (.inr fun x xs h => ?_))), rfl⟩
          rw [feed] at h
          cases h
          exact Nat.lt_of_not_le usable

end Sys2Proof.Machine

namespace Sys2Proof.Machine

set_option Elab.async false

variable {s t : State}

/-- What a chunk made at the stream's end adds to the bytes of a turn (R7, R8). -/
theorem State.Feeds.chunks {v e : State} {n : LaneNo} {i : SlotNo} {count m : Nat} {ps qs : List PendingChunk} (h : s.Feeds v n i count m ps)
    (k : v.Chunks e i qs) : s.Feeds e n i count m (ps ++ qs) where
  rest := by
    have krest := k.rest
    rw [h.rest] at krest
    rw [krest]
    simp
  consumed := by rw [k.self]; exact h.consumed
  bytes := by rw [k.self]; exact h.bytes
  pending := by rw [k.self]; simp [h.pending]
  looking := fun p hp => (List.mem_append.1 hp).elim (h.looking p) (k.looking p)
  others := fun j e => (k.others j e).trans (h.others j e)

theorem State.Feeds.lane {v : State} {n : LaneNo} {i : SlotNo} {count m : Nat} {ps : List PendingChunk} (h : s.Feeds v n i count m ps) :
    v.lanes.get n = { turn := some { slot := i, count := count + m }, read := none } := by
  rw [h.rest]
  exact get_set_self _ _ _

/-- How a turn is left after a read: the stream `c` goes on or the turn has ended at one of the ends of R19, and the slot may have joined the Run List (R17, R54). -/
structure State.Continued (s t : State) (n : LaneNo) (i : SlotNo) (count : Nat) : Prop where
  rest : t = { s with slots := t.slots, lanes := t.lanes, runList := t.runList, lookups := t.lookups, port := t.port }
  ends : (t.lanes.get n).turn = none ↔ (t.slot i).turnEnds count
  runList : t.runList = if (t.lanes.get n).turn = none ∧ (t.slot i).eligible = true ∧ i ∉ s.runList ∧ t.worked i = false then s.runList ++ [i]
    else s.runList
  read : (t.lanes.get n).turn ≠ none → ∀ g gs, (t.slot i).feed = g :: gs →
    t.lanes.get n = { turn := some { slot := i, count := count }, read := some ((t.slot i).readFrom g count) }

/-- After the bytes of a read the turn goes on or ends, and a final chunk that is due has been made (R7, R17, R19, R54). -/
theorem State.Feeds.continueTurn {v : State} {n : LaneNo} {i : SlotNo} {count m : Nat} {ps : List PendingChunk} (h : s.Feeds v n i count m ps) :
    ∃ e qs, s.Feeds e n i count m (ps ++ qs) ∧ (v.continueTurn n).slots = e.slots ∧ (v.continueTurn n).lookups = e.lookups ∧
      s.Continued (v.continueTurn n) n i (count + m) := by
  obtain ⟨e, qs, k, after⟩ := State.continueTurn_spec (congrArg Lane.turn h.lane)
  have f := h.chunks k
  refine ⟨e, qs, f, ?_⟩
  have lane := f.lane
  have rest := f.rest
  rcases after with ⟨ends, after⟩ | ⟨on, g, gs, feed, after⟩
  · rw [State.endTurn_eq (congrArg Lane.turn lane), State.joinRun_eq] at after
    generalize hy : e.setLane n { e.lanes.get n with turn := none } = y at after
    have slots : y.slots = e.slots := by rw [← hy]; rfl
    have none : (y.lanes.get n).turn = none := by rw [← hy, State.lane_setLane_self]
    have runList : y.runList = s.runList := by rw [← hy, rest]; rfl
    have self : y.slot i = e.slot i := congrArg (·.get i) slots
    rw [runList] at after
    generalize v.continueTurn n = t at after
    subst after
    refine ⟨slots, by rw [← hy]; rfl, ?_, ?_, ?_, fun more => absurd none more⟩
    · rw [← hy, rest]; rfl
    · exact ⟨fun _ => self ▸ ends, fun _ => none⟩
    · refine if_congr ⟨fun k => ⟨none, k⟩, fun k => k.2⟩ rfl rfl
  · generalize v.continueTurn n = t at after
    have lane' : t.lanes.get n = { turn := some { slot := i, count := count + m }, read := some ((e.slot i).readFrom g (count + m)) } := by
      rw [after, State.lane_setLane_self]
    have more : (t.lanes.get n).turn ≠ none := by simp [lane']
    have self : t.slot i = e.slot i := by rw [after]; rfl
    refine ⟨by rw [after]; rfl, by rw [after]; rfl, ?_, ⟨fun k => absurd k more, fun k => absurd (self ▸ k) on⟩, ?_, fun _ x xs hx => ?_⟩
    · rw [after, rest]; rfl
    · rw [if_neg fun k => more k.1, after, rest]; rfl
    · rw [self, feed] at hx
      cases hx
      rw [lane', self]

/-- A read of the lane `n` that completes with its bytes (R55). -/
theorem State.Settled.segmentReadComplete (h : s.Settled) {n : LaneNo} {turn : Option Turn} {r : SegRead} {data : List Byte}
    (lane : s.lanes.get n = { turn := turn, read := some r }) (length : data.length = r.length) :
    exec (.segmentReadComplete (.lane n) data) s = .next (s.endEvent (((s.begun.clearRead n).takeBytes n r.cell data).continueTurn n)) := by
  simp only [exec, execSegmentReadComplete, h.eq, State.begun_lanes, lane]
  rw [if_pos length]
  rfl

/-- A lane without a turn takes no byte, and does not go on (R55). -/
theorem State.takeBytes_of_idle {n : LaneNo} (idle : (s.lanes.get n).turn = none) (cell : CellNo) (data : List Byte) :
    (s.takeBytes n cell data).continueTurn n = s := by
  have kept : s.takeBytes n cell data = s := by
    cases data with
    | nil => rfl
    | cons b bs => rw [State.takeBytes, idle]
  rw [kept, State.continueTurn, idle]

theorem staying_eq (n : Nat) (feed : List Segment) : staying n feed = feed.filter fun g => decide (n < g.offset + g.length) :=
  List.filter_congr fun g _ => by rw [← decide_not, decide_eq_decide]; exact Nat.not_le

/-- Settles O32: by induction on the bytes of the read, each checked and taken in its turn. -/
theorem readFeedsTheTurn : Obligations.ReadFeedsTheTurn := by
  refine ⟨fun s n i count r data settled => ⟨fun lane length => ?_, fun lane length => ?_, fun lost => ?_⟩, ?_⟩
  · have cleared : (s.begun.clearRead n).lanes.get n = { turn := some { slot := i, count := count }, read := none } := by
      rw [State.clearRead, State.lane_setLane_self, State.begun_lanes, lane]
    obtain ⟨m, ps, u, le, zero, step, goes, taken, feeds⟩ := State.takeBytes_spec r.cell data _ count cleared
    have run := settled.segmentReadComplete lane length
    rw [taken] at run
    obtain ⟨e, qs, f, slots, lookups, k⟩ := feeds.continueTurn
    have quiet : s.endEvent ((u m).continueTurn n) = s.issued ((u m).continueTurn n) := State.endEvent_of_quiet s (by rw [k.rest]; rfl)
    have self : ((u m).continueTurn n).slot i = e.slot i := congrArg (·.get i) slots
    refine ⟨s.issued ((u m).continueTurn n), m, ps ++ qs, u, by rw [run, quiet], le, ?_, step, fun j le more => ?_, quiet.symm, ?_, ?_, ?_, f.looking,
      ?_, fun j hj => ?_, ?_, k.ends, k.runList, k.read⟩
    · rw [zero, State.clearRead, State.begun_lanes, lane]; rfl
    · exact (goes j le more).trans (Slot.takesMore_iff _ _)
    · exact (congrArg Slot.consumed self).trans f.consumed
    · exact (congrArg (fun c => c.stats.bytes) self).trans f.bytes
    · exact (congrArg Slot.pending self).trans f.pending
    · exact lookups.trans (by rw [f.rest]; rfl)
    · exact (congrArg (·.get j) slots).trans (f.others j hj)
    · exact congrArg s.issued k.rest
  · have cleared : (s.begun.clearRead n).lanes.get n = { turn := none, read := none } := by
      rw [State.clearRead, State.lane_setLane_self, State.begun_lanes, lane]
    rw [settled.segmentReadComplete lane length, State.takeBytes_of_idle (congrArg Lane.turn cleared), s.endEvent_of_same (t := s.begun.clearRead n) rfl rfl,
      State.clearRead, State.begun_lanes, lane]
    rfl
  · simp only [exec, execSegmentReadComplete, settled.eq]
    rw [if_neg (by exact lost)]
    rfl
  · rintro s t v n turn cell b feed gone rfl rfl lists rfl rfl
    obtain ⟨rest, others, self, own, other, writes⟩ := s.takeByte_spec n turn cell b
    rw [staying_eq] at self
    exact ⟨rest, others, self, own lists.feed_cells, other, writes⟩

end Sys2Proof.Machine

namespace Sys2Proof.Machine

set_option Elab.async false

variable {s t v : State}

/-! ### The end of an event, and its writes (R165, R166) -/

/-- What keeps the blocks of `State.Keeps` issues some writes. -/
theorem State.Keeps.writes (h : s.Keeps t) : ∃ ws, s.Writes t ws := by
  obtain ⟨ws, posted, -, lawful⟩ := h.posted
  refine ⟨ws.map Posted.write, ?_, h.lost⟩
  rw [posted, List.map_map]
  exact congrArg _ ((List.map_congr_left fun w hw => by rw [Function.comp, ← (lawful w hw).2]; rfl).trans ws.map_id).symm

/-- The test for a due message changes the notice and issues at most one message (R166). -/
theorem State.testDue_spec (s : State) :
    s.testDue = { s with notice := s.testDue.notice, port := s.testDue.port } ∧ ∃ ns, s.AtMostOneNotice ns ∧ s.Writes s.testDue ns := by
  unfold State.testDue
  split
  · exact ⟨rfl, [], .inl rfl, .refl s⟩
  · split
    · rename_i due
      refine ⟨by unfold State.post; split <;> rfl, _, .inr rfl, ?_⟩
      exact s.post_writes _ (by simp [State.mayWrite, due.1])
    · exact ⟨rfl, [], .inl rfl, .refl s⟩

/-- The end of an event adds at most one message to its writes (R166). -/
theorem State.Writes.endEvent {ws : List HostWrite} (h : s.Writes t ws) (ctl : t.ctl = s.ctl) (header : t.header = s.header) :
    ∃ ns, s.AtMostOneNotice ns ∧ s.Writes (s.endEvent t) (ws ++ ns) := by
  obtain ⟨ns, one, writes⟩ : ∃ ns, s.AtMostOneNotice ns ∧ s.Writes (s.notify t) (ws ++ ns) := by
    unfold State.notify
    split
    · exact ⟨[], .inl rfl, by rwa [List.append_nil]⟩
    · obtain ⟨-, ns, one, writes⟩ := t.testDue_spec
      exact ⟨ns, by unfold State.AtMostOneNotice at *; rwa [header] at one, h.trans writes (by rw [ctl])⟩
  exact ⟨ns, one, writes.1, writes.2⟩

/-- The notice that the end of an event leaves depends on the notice before it and on the engine state alone (R166). -/
theorem State.endEvent_notice {a b : State} (notice : b.notice = a.notice) (ctl : b.ctl = a.ctl) (levels : t.notice.levels = s.notice.levels) :
    (s.endEvent b).notice = (t.notify a).notice := by
  have due : b.testDue.notice = a.testDue.notice := by
    unfold State.testDue
    rw [notice, ctl]
    split
    · exact notice
    · split
      · dsimp only
        rw [State.post_notice, State.post_notice, notice]
      · exact notice
  unfold State.endEvent State.issued State.notify
  dsimp only
  rw [notice, levels]
  split
  · exact notice
  · exact due

/-! ### The answer to a request (R156, R157) -/

/-- The end of an event does not ask which writes of those before it were the last. -/
theorem State.endEvent_begun (s t : State) : s.begun.endEvent t = s.endEvent t := rfl

/-- The state in which the next request is carried out: it has left the sweep's list (R156). -/
def State.asked (s : State) (rest : List TakenRequest) : State := { s.begun with sweep := { s.sweep with flight := some (.requests rest) } }

theorem State.AtRequest.next {cell : ReqNo} {r : Request} {tag : Tag} {rest : List TakenRequest} (h : s.AtRequest cell r tag rest) :
    s.begun.nextRequest cell = some (r, s.asked rest) := by
  obtain ⟨-, -, flight, -⟩ := h
  have flight' : s.begun.sweep.flight = some (.requests ({ cell := cell, request := r } :: rest)) := flight
  simp only [State.nextRequest, flight']
  rfl

theorem State.AtRequest.settled {cell : ReqNo} {r : Request} {tag : Tag} {rest : List TakenRequest} (h : s.AtRequest cell r tag rest) :
    s.settled = s.begun := h.1.eq

/-- An answer is the cell's record, its two writes and the level of REQUEST (R157, R165). -/
theorem State.answer_eq {cell : ReqNo} {tag : Tag} (m : v.mayWrite = true) (inflight : (v.requests.get cell).inflight = some tag) (status : Status) :
    v.answer cell status none = (({ v with requests := v.requests.set cell { done := some tag, inflight := none } } : State).post
      [.reqStatus cell status, .reqTag cell tag]).joinLevel v.header.requestLevel := by
  unfold State.answer
  rw [if_pos m, inflight]
  rfl

theorem State.joinLevel_eq (s : State) (l : Nat) : s.joinLevel l = { s with notice := (s.joinLevel l).notice } := by
  unfold State.joinLevel
  split <;> rfl

/-- The event of a request ends with its answer, behind the writes of its own rule (R157, R165, R166). -/
theorem State.answered {cell : ReqNo} {tag : Tag} {ws : List HostWrite} (m : s.mayWrite = true) (inflight : (s.requests.get cell).inflight = some tag)
    (writes : s.Writes v ws) (requests : v.requests = s.requests) (ctl : v.ctl = s.ctl) (header : v.header = s.header) (status : Status) :
    s.Answered (s.endEvent (v.answer cell status none)) cell tag ws status ∧
    s.endEvent (v.answer cell status none) = { v with
      requests := (s.endEvent (v.answer cell status none)).requests, notice := (s.endEvent (v.answer cell status none)).notice
      port := (s.endEvent (v.answer cell status none)).port } := by
  have mv : v.mayWrite = true := by simpa [State.mayWrite, ctl] using m
  rw [State.answer_eq mv (requests ▸ inflight) status]
  generalize hr : ({ v with requests := v.requests.set cell { done := some tag, inflight := none } } : State) = r
  have mr : r.mayWrite = true := by rw [← hr]; exact mv
  have rw' : v.Writes r [] := by rw [← hr]; exact .refl v
  have posted := writes.trans (rw'.trans (r.post_writes [.reqStatus cell status, .reqTag cell tag] mr) (by rw [← hr])) (by rw [ctl])
  have frame := r.post_slotsAndPort [.reqStatus cell status, .reqTag cell tag]
  have slots : (r.post [.reqStatus cell status, .reqTag cell tag]).slots = r.slots := r.post_slots _
  generalize r.post [.reqStatus cell status, .reqTag cell tag] = p at posted frame slots
  have joined := p.joinLevel_eq v.header.requestLevel
  generalize p.joinLevel v.header.requestLevel = j at joined
  have jwrites : s.Writes j (ws ++ ([] ++ [.reqStatus cell status, .reqTag cell tag])) := by rw [joined]; exact posted
  obtain ⟨ns, one, all⟩ := jwrites.endEvent (by rw [joined, frame, ← hr]; exact ctl) (by rw [joined, frame, ← hr]; exact header)
  have ends := s.endEvent_eq j
  refine ⟨⟨?_, ns, one, all⟩, ?_⟩
  · rw [ends, joined, frame, ← hr, ← requests]
  · rw [ends, joined, frame, slots, ← hr]

/-- Where the rule of a request has left the notice, the answer is all that comes to it: the REQUEST event (R157, R165). -/
theorem State.onlyAnswered {base : State} {cell : ReqNo} {tag : Tag} {rest : List TakenRequest} (m : s.mayWrite = true)
    (inflight : (s.requests.get cell).inflight = some tag) (frame : v = { base with sweep := { base.sweep with flight := some (.requests rest) }, port := v.port })
    (requests : base.requests = s.requests) (ctl : base.ctl = s.ctl) (levels : base.notice.levels = s.notice.levels) (status : Status)
    (ends : s.endEvent (v.answer cell status none) = { v with
      requests := (s.endEvent (v.answer cell status none)).requests, notice := (s.endEvent (v.answer cell status none)).notice
      port := (s.endEvent (v.answer cell status none)).port }) :
    base.OnlyAnswered (s.endEvent (v.answer cell status none)) rest := by
  have vctl : v.ctl = base.ctl := by rw [frame]
  have vrequests : v.requests = base.requests := by rw [frame]
  have vheader : v.header = base.header := by rw [frame]
  have vnotice : v.notice = base.notice := by rw [frame]
  have notice : (s.endEvent (v.answer cell status none)).notice = (base.raiseLevel base.header.requestLevel).notice := by
    rw [State.answer_eq (by simpa [State.mayWrite, vctl, ctl] using m) (by rw [vrequests, requests]; exact inflight)]
    refine State.endEvent_notice ?_ ?_ levels
    · simp only [State.joinLevel, State.post_notice, vnotice, vheader]
      split <;> simp
    · simp only [State.joinLevel]
      split <;> split <;> simp [vctl]
  unfold State.OnlyAnswered
  rw [ends, notice, frame]

/-- A request that is refused, or has nothing of its own to do but what stands in `v`, is answered (R157). -/
theorem State.AtRequest.answer {base : State} {cell : ReqNo} {r : Request} {tag : Tag} {rest : List TakenRequest} {ws : List HostWrite}
    (h : s.AtRequest cell r tag rest) (writes : s.Writes v ws)
    (frame : v = { base with sweep := { base.sweep with flight := some (.requests rest) }, port := v.port })
    (requests : base.requests = s.requests) (ctl : base.ctl = s.ctl) (header : base.header = s.header) (notice : base.notice = s.notice) (status : Status) :
    s.Answered (s.endEvent (v.answer cell status none)) cell tag ws status ∧ base.OnlyAnswered (s.endEvent (v.answer cell status none)) rest := by
  obtain ⟨-, m, -, inflight⟩ := h
  obtain ⟨answered, ends⟩ := State.answered m inflight writes (by rw [frame]; exact requests) (by rw [frame]; exact ctl) (by rw [frame]; exact header) status
  exact ⟨answered, State.onlyAnswered m inflight frame requests ctl (by rw [notice]) status ends⟩

/-- A request that is refused is answered, and nothing else comes of it (R157). -/
theorem State.AtRequest.refuse {cell : ReqNo} {r : Request} {tag : Tag} {rest : List TakenRequest} (h : s.AtRequest cell r tag rest) (status : Status) :
    s.Answered (s.endEvent ((s.asked rest).answer cell status none)) cell tag [] status ∧
      s.OnlyAnswered (s.endEvent ((s.asked rest).answer cell status none)) rest :=
  h.answer (base := s) (show s.Writes (s.asked rest) [] from .refl s) rfl rfl rfl rfl rfl status

end Sys2Proof.Machine

namespace Sys2Proof.Machine

set_option Elab.async false

variable {s t v : State}

/-! ### SET_CLASS (R13) -/

theorem policyOf_eq_none {n : Nat} : policyOf n = none ↔ ¬(n = 0 ∨ n = 1) := by
  unfold policyOf
  split <;> simp_all

/-- The constraints of R13. -/
def ClassRequest.Ok (c : ClassRequest) : Prop :=
  c.cls ≤ 7 ∧ (256 ≤ c.min ∧ c.min ≤ 32768) ∧ c.max ≤ 65536 ∧ c.min ≤ c.normal ∧ c.normal ≤ c.max ∧ c.sstrict ≤ 24 ∧ c.sloose ≤ c.sstrict ∧
    (c.policy = 0 ∨ c.policy = 1) ∧ (1 ≤ c.provisionalLimit ∧ c.provisionalLimit ≤ 512) ∧ (1 ≤ c.recipeThreshold ∧ c.recipeThreshold ≤ 65536) ∧
    c.recipeLevel ≤ 7 ∧ c.watchLevel ≤ 7 ∧ c.stateLevel ≤ 7

/-- The class that values within the constraints give. -/
def ClassRequest.given (c : ClassRequest) : ChunkClass :=
  { min := c.min, normal := c.normal, max := c.max, sstrict := c.sstrict, sloose := c.sloose, policy := if c.policy = 0 then .always else .yield,
    provisionalLimit := c.provisionalLimit, idleLimit := c.idleLimit, recipeThreshold := c.recipeThreshold, recipeLevel := c.recipeLevel,
    watchLevel := c.watchLevel, stateLevel := c.stateLevel }

theorem policyOf_eq_some {n : Nat} (h : n = 0 ∨ n = 1) : policyOf n = some (if n = 0 then .always else .yield) := by
  rcases h with rfl | rfl <;> rfl

/-- Values within the constraints of R13 are checked with their class. -/
theorem ClassRequest.checked_of_ok {c : ClassRequest} (h : c.Ok) (n : Fin 8) (num : n.val = c.cls) : c.checked = some (n, c.given) := by
  obtain ⟨cls, min, max, normal, normal_max, strict, loose, policy, prov, threshold, levels⟩ := h
  unfold ClassRequest.checked
  rw [policyOf_eq_some policy]
  dsimp only
  rw [dif_pos (Nat.lt_succ_of_le cls), if_pos ⟨⟨min.1, min.2, max⟩, ⟨normal, normal_max⟩, ⟨strict, loose⟩, prov, threshold, levels⟩]
  have : (⟨c.cls, Nat.lt_succ_of_le cls⟩ : Fin 8) = n := Fin.ext num.symm
  rw [this]
  rfl

/-- Values outside them are not. -/
theorem ClassRequest.checked_of_not {c : ClassRequest} (h : ¬c.Ok) : c.checked = none := by
  unfold ClassRequest.checked
  split
  · rfl
  · rename_i policy hp
    have valid : c.policy = 0 ∨ c.policy = 1 := by
      by_contra k
      rw [policyOf_eq_none.2 k] at hp
      cases hp
    split
    · rename_i cls
      refine if_neg ?_
      rintro ⟨⟨min, min_le, max⟩, ⟨normal, normal_max⟩, ⟨strict, loose⟩, prov, threshold, levels⟩
      exact h ⟨Nat.le_of_lt_succ cls, ⟨min, min_le⟩, max, normal, normal_max, strict, loose, valid, prov, threshold, levels⟩
    · rfl

/-- Settles O21: the constraints are the checks of the request, one for one. -/
theorem setClassRequest : Obligations.SetClassRequest := by
  rintro s cell c tag rest ok h iff
  refine ⟨fun bad => ?_, fun good n num => ?_⟩
  · have unchecked : c.checked = none := ClassRequest.checked_of_not fun k => bad (iff.2 k)
    refine ⟨_, ?_, h.refuse .range⟩
    simp only [exec, execSetClass, h.settled, h.next, unchecked, State.endEvent_begun]
  · have checked : c.checked = some (n, c.given) := ClassRequest.checked_of_ok (iff.1 good) n num
    refine ⟨_, ?_, h.answer (v := { s.asked rest with classes := s.classes.set n (some c.given) })
      (base := { s with classes := s.classes.set n (some c.given) }) ?_ rfl rfl rfl rfl rfl .done⟩
    · simp only [exec, execSetClass, h.settled, h.next, checked, State.endEvent_begun]
      rfl
    · exact State.Writes.refl s

/-! ### OPEN (R34, R35) -/

theorem slotNamed_val (i : SlotNo) : slotNamed i.val = some i := by simp [slotNamed]

theorem slotNamed_of_le {n : Nat} (h : 1024 ≤ n) : slotNamed n = none := by simp [slotNamed, Nat.not_lt.2 h]

theorem State.classNamed_val (s : State) (n : Fin 8) : s.classNamed n.val = s.classes.get n := by simp [State.classNamed]

theorem State.classNamed_of_le (s : State) {n : Nat} (h : 8 ≤ n) : s.classNamed n = none := by simp [State.classNamed, Nat.not_lt.2 h]

theorem areaOk_iff (addr size : Nat) : areaOk addr size = true ↔ 64 ≤ size ∧ size ≤ 65536 ∧ addr % 64 = 0 ∧ addr + 64 * size ≤ 2 ^ 64 := by
  simp only [areaOk, Bool.and_eq_true, decide_eq_true_eq, beq_iff_eq, and_assoc]

/-- An OPEN that passes its checks (R34). -/
theorem State.checkOpen_ok {i : SlotNo} {n : Fin 8} {cls : ChunkClass} {addr size : Nat} (ready : s.index.state = .ready)
    (free : (s.slot i).state = .free) (valid : s.classes.get n = some cls) (area : areaOk addr size = true) :
    s.checkOpen i.val n.val addr size = .ok (i, cls) := by
  simp only [State.checkOpen, ready, IndexState.refusal, slotNamed_val, free, State.classNamed_val, valid, area]
  rfl

/-- The first check that an OPEN fails, by the order of R34 (R33, R67). -/
theorem State.checkOpen_error {slot cls addr size : Nat} {status : Status}
    (fails : s.index.state = .unformatted ∧ status = .unformatted ∨
      (s.index.state = .formatting ∨ s.index.state = .scanning) ∧ status = .busy ∨
      s.index.state = .ready ∧
        (1024 ≤ slot ∧ status = .range ∨
          ∃ i : SlotNo, i.val = slot ∧
            ((s.slot i).state ≠ .free ∧ status = .state ∨
              (s.slot i).state = .free ∧ status = .range ∧
                (8 ≤ cls ∨ (∃ n : Fin 8, n.val = cls ∧ s.classes.get n = none) ∨ size < 64 ∨ 65536 < size ∨ addr % 64 ≠ 0 ∨
                  2 ^ 64 < addr + 64 * size)))) : s.checkOpen slot cls addr size = .error status := by
  unfold State.checkOpen
  rcases fails with ⟨unformatted, rfl⟩ | ⟨busy, rfl⟩ | ⟨ready, fails⟩
  · rw [unformatted]; rfl
  · rcases busy with busy | busy <;> rw [busy] <;> rfl
  · rw [ready]
    dsimp only [IndexState.refusal]
    rcases fails with ⟨beyond, rfl⟩ | ⟨i, rfl, ⟨bound, rfl⟩ | ⟨free, rfl, fails⟩⟩
    · rw [slotNamed_of_le beyond]
    · rw [slotNamed_val]
      exact if_pos bound
    · rw [slotNamed_val]
      dsimp only
      rw [if_neg (not_not.2 free)]
      have bad : areaOk addr size = true → s.classNamed cls = none := fun area => by
        obtain ⟨least, most, aligned, within⟩ := (areaOk_iff addr size).1 area
        rcases fails with beyond | ⟨n, rfl, unset⟩ | fails | fails | fails | fails
        · exact s.classNamed_of_le beyond
        · rw [s.classNamed_val, unset]
        · exact absurd least (Nat.not_le.2 fails)
        · exact absurd most (Nat.not_le.2 fails)
        · exact absurd aligned fails
        · exact absurd within (Nat.not_le.2 fails)
      cases named : s.classNamed cls with
      | none => rfl
      | some c =>
        exact if_neg fun area => by simp [bad area] at named

/-- The writes of an OPEN, spelt with what has been read (R35). -/
theorem openWrites_opened (i : SlotNo) (cls : ChunkClass) (start addr size : Nat) (half : List Byte) :
    openWrites i (.opened cls start addr size half) =
      (List.finRange 16).flatMap (fun m : CellNo => [HostWrite.cellStatus i m .done, HostWrite.cellTag i m (tagAt half (0x080 + 32 * m.val + 0x14))]) ++
        [HostWrite.slotSeen i (field32 half 0x000), .slotConsumed i start, .slotSafe i start, .slotWritten i 0, .slotFinal i none, .slotMarks i .off,
          .slotStats i .zero, .slotState i .active] := by
  have tag (m : CellNo) : ((Slot.opened cls start addr size half).cells.get m).done = tagAt half (0x080 + 32 * m.val + 0x14) := by
    rw [Slot.opened, cellsAtOpen, Vector.get_ofFn]
    rfl
  unfold openWrites
  simp only [tag]
  rfl

/-- Settles O22: the checks in their order, and the context and the writes of an OPEN that passes them. -/
theorem openRequest : Obligations.OpenRequest := by
  refine ⟨fun s cell half i n cls start addr size tag rest h ready free valid least most aligned within length => ?_,
    fun s cell half slot cls start addr size tag rest status h fails => ?_⟩
  · have ⟨_, mayWrite, _, _⟩ := h
    have check : s.begun.checkOpen i.val n.val addr size = .ok (i, cls) :=
      State.checkOpen_ok ready free valid ((areaOk_iff addr size).2 ⟨least, most, aligned, within⟩)
    have posted : s.Writes ((s.asked rest).openSlot i (.opened cls start addr size half)) (openWrites i (.opened cls start addr size half)) :=
      ((s.asked rest).setSlot i _).post_writes _ mayWrite
    rw [openWrites_opened] at posted
    refine ⟨_, ?_, h.answer posted (base := s.setSlot i (.opened cls start addr size half)) ?_ rfl rfl rfl rfl .done⟩
    · simp only [exec, execOpenStream, h.settled, h.next, check, State.endEvent_begun]
      exact if_pos length
    · rw [State.openSlot, State.post_of_mayWrite _ _ (show ((s.asked rest).setSlot i _).mayWrite = true from mayWrite)]
      rfl
  · refine ⟨_, ?_, h.refuse status⟩
    have check : s.begun.checkOpen slot cls addr size = .error status := State.checkOpen_error fails
    simp only [exec, execOpenStream, h.settled, h.next, check, State.endEvent_begun]

end Sys2Proof.Machine

namespace Sys2Proof.Machine

set_option Elab.async false

variable (s : State)

/-! ### The passages to SETTLING and CLOSED, and the conditions handed on (R27, R28, R132, R163) -/

/-- The state of a stream without a byte to come, once its last pending chunk has gone (R27, R28). -/
def Slot.settles (c : Slot) : SlotState := if c.stored = c.written ∧ c.inflight = 0 then .closed else .settling

/-- The state that the passages to SETTLING and CLOSED leave (R27, R28). -/
def Slot.settled (c : Slot) : SlotState :=
  if c.state.isOpen = true ∧ c.chunker.finished = true ∧ c.pending = [] then c.settles else c.state

/-- A SETTLING slot becomes CLOSED where nothing is outstanding, and nothing of its context but the state and the Consumed Offset last written changes (R28). -/
theorem State.tryClose_spec (i : SlotNo) (settling : (s.slot i).state = .settling) :
    s.SlotsAndPort (s.tryClose i) ∧
    (s.tryClose i).slot i = { s.slot i with state := (s.slot i).settles, shown := ((s.tryClose i).slot i).shown } ∧
    ∀ j, j ≠ i → (s.tryClose i).slot j = s.slot j := by
  unfold State.tryClose Slot.settles
  dsimp only
  by_cases h : (s.slot i).stored = (s.slot i).written ∧ (s.slot i).inflight = 0
  · rw [if_pos ⟨settling, h⟩, if_pos h]
    obtain ⟨rest, self, others⟩ := (s.post [.slotStats i (s.slot i).stats]).setSlotState_spec i .closed
    exact ⟨(s.post_slotsAndPort _).trans rest, by rw [self, s.slot_post], fun j e => (others j e).trans (s.slot_post _ _)⟩
  · rw [if_neg fun k => h k.2, if_neg h]
    exact ⟨rfl, by rw [← settling], fun _ _ => rfl⟩

/-- The passages to SETTLING and CLOSED change the state and the Consumed Offset last written (R27, R28). -/
theorem State.trySettle_spec (i : SlotNo) :
    s.SlotsAndPort (s.trySettle i) ∧
    (s.trySettle i).slot i = { s.slot i with state := (s.slot i).settled, shown := ((s.trySettle i).slot i).shown } ∧
    ∀ j, j ≠ i → (s.trySettle i).slot j = s.slot j := by
  unfold State.trySettle Slot.settled
  dsimp only
  by_cases h : (s.slot i).state.isOpen = true ∧ (s.slot i).chunker.finished = true ∧ (s.slot i).pending = []
  · rw [if_pos h, if_pos h]
    obtain ⟨rest, self, others⟩ := s.setSlotState_spec i .settling
    generalize s.setSlotState i .settling = u at rest self others
    obtain ⟨rest', self', others'⟩ := u.tryClose_spec i (by rw [self])
    exact ⟨rest.trans rest', by rw [self', self]; rfl, fun j e => (others' j e).trans (others j e)⟩
  · rw [if_neg h, if_neg h]
    exact ⟨rfl, rfl, fun _ _ => rfl⟩

/-- A stream that settles was not eligible, its Finished mark being set, and is not (R16, R27). -/
theorem Slot.settled_eligible (c : Slot) (n : Nat) : ({ c with state := c.settled, shown := n } : Slot).eligible = c.eligible := by
  unfold Slot.settled
  split
  · rename_i h
    simp [Slot.eligible, h.2.1]
  · rfl

theorem State.setReady_spec (i : SlotNo) (flag : Bool) :
    s.setReady i flag = { s with notice := (s.setReady i flag).notice, port := (s.setReady i flag).port } := by
  unfold State.setReady
  split
  · rfl
  · dsimp only
    unfold State.post
    split <;> rfl

/-- Levels that join change the notice alone (R165). -/
theorem State.joinLevels_spec (ls : List Nat) : ls.foldl State.joinLevel s = { s with notice := (ls.foldl State.joinLevel s).notice } := by
  induction ls generalizing s with
  | nil => rfl
  | cons l ls ih =>
    rw [List.foldl_cons, ih, s.joinLevel_eq]

/-- The conditions of a slot are handed on: its condition set holds the marks due, and the notice and the writes follow (R132, R163, R164, R165). -/
theorem State.refresh_spec (i : SlotNo) :
    s.refresh i = { s with slots := (s.refresh i).slots, notice := (s.refresh i).notice, port := (s.refresh i).port } ∧
    (s.refresh i).slot i = { s.slot i with marks := (s.slot i).marksDue } ∧
    ∀ j, j ≠ i → (s.refresh i).slot j = s.slot j := by
  unfold State.refresh
  dsimp only
  split
  · rename_i same
    exact ⟨rfl, by rw [← same], fun _ _ => rfl⟩
  · rw [State.joinLevels_spec, State.writeMarks, State.setReady_spec]
    generalize List.foldl _ _ _ = u
    generalize State.setReady _ _ _ = v
    refine ⟨?_, ?_, fun j e => ?_⟩
    · rw [(s.editSlot i _).post_slotsAndPort _]
      rfl
    · exact (State.slot_post _ _ _).trans (s.slot_editSlot_self i _)
    · exact (State.slot_post _ _ _).trans (s.slot_editSlot_of_ne i j _ e)

theorem State.slot_joinRun (i j : SlotNo) : (s.joinRun i).slot j = s.slot j := by
  rw [s.joinRun_eq]
  rfl

theorem State.joinRun_runList (i : SlotNo) : (s.joinRun i).runList =
    if ((s.joinRun i).slot i).eligible = true ∧ i ∉ s.runList ∧ s.worked i = false then s.runList ++ [i] else s.runList := by
  rw [s.slot_joinRun, s.joinRun_eq]

/-! ### CLOSE (R36, R37) -/

/-- The context of a slot with its Final Offset recorded (R37). -/
def Slot.ended (c : Slot) (final : Nat) : Slot := ({ c with final := some final } : Slot).marked

/-- The Finished mark of a stream whose Final Offset is recorded, where it had none (R8). -/
theorem Slot.ended_chunker {c : Slot} {final : Nat} (unfinished : c.chunker.finished = false) :
    (c.ended final).chunker = if c.consumed = final ∧ c.chunker.len = 0 then { c.chunker with finished := true } else c.chunker := by
  unfold Slot.ended Slot.marked Slot.finishes
  by_cases h : c.consumed = final ∧ c.chunker.len = 0
  · simp [h]
  · rw [if_neg h]
    simp only [not_and] at h
    have : (some final == some c.consumed && c.chunker.len == 0) = false := by
      simp only [Bool.and_eq_false_imp, beq_iff_eq, Option.some.injEq, beq_eq_false_iff_ne]
      exact fun e => h e.symm
    simp only [unfinished, this, Bool.or_false]
    rw [← unfinished]

/-- A CLOSE that passes its checks: the Final Offset, the Finished mark and the state that follows, the conditions and the Run List (R8, R17, R27, R28, R37). -/
theorem State.closeStream_spec (i : SlotNo) (final : Nat) :
    let t := s.closeStream i final
    t = { s with slots := t.slots, runList := t.runList, notice := t.notice, port := t.port } ∧
    t.slot i = { (s.slot i).ended final with
      state := ((s.slot i).ended final).settled, marks := (t.slot i).marks, shown := (t.slot i).shown } ∧
    (t.slot i).marks = (t.slot i).marksDue ∧ (∀ j, j ≠ i → t.slot j = s.slot j) ∧
    t.runList = (if (t.slot i).eligible = true ∧ i ∉ s.runList ∧ s.worked i = false then s.runList ++ [i] else s.runList) ∧
    (s.mayWrite = true → ∃ ws, s.Writes t (.slotFinal i (some final) :: ws)) := by
  dsimp only
  generalize ht : s.closeStream i final = t
  unfold State.closeStream at ht
  dsimp only at ht
  rw [State.markFinished_eq] at ht
  generalize hu : (s.editSlot i fun c => { c with final := some final }).post [.slotFinal i (some final)] = u at ht
  have uself : u.slot i = { s.slot i with final := some final } := by rw [← hu, State.slot_post, State.slot_editSlot_self]
  have urest : s.SlotsAndPort u := hu ▸ (s.editSlot_slotsAndPort i _).trans (State.post_slotsAndPort _ _)
  have uothers : ∀ j, j ≠ i → u.slot j = s.slot j := fun j e => by rw [← hu, State.slot_post]; exact s.slot_editSlot_of_ne i j _ e
  have uwrites : s.mayWrite = true → s.Writes u [.slotFinal i (some final)] := fun m => hu ▸ (s.editSlot i _).post_writes _ m
  generalize hv : u.setSlot i (u.slot i).marked = v at ht
  have vself : v.slot i = (s.slot i).ended final := by rw [← hv, State.slot_setSlot_self, uself]; rfl
  have kept : u.Keeps t := by
    rw [← ht, ← hv, ← State.markFinished_eq]
    exact (((u.markFinished_keeps i).trans (State.trySettle_keeps _ i)).trans (State.refresh_keeps _ i)).trans (State.joinRun_keeps _ i)
  obtain ⟨wrest, wself, wothers⟩ := v.trySettle_spec i
  generalize v.trySettle i = w at wrest wself wothers ht
  obtain ⟨xrest, xself, xothers⟩ := w.refresh_spec i
  generalize w.refresh i = x at xrest xself xothers ht
  have frame : x = { s with slots := x.slots, notice := x.notice, port := x.port } := by rw [xrest, wrest, ← hv, urest]; rfl
  have self : x.slot i = { (s.slot i).ended final with
      state := ((s.slot i).ended final).settled, marks := (x.slot i).marks, shown := (x.slot i).shown } := by
    rw [xself, wself, vself]
  have runList := x.joinRun_runList i
  have joined := x.joinRun_eq i
  have slot := x.slot_joinRun i
  rw [ht] at runList joined slot
  refine ⟨?_, ?_, ?_, fun j e => ?_, ?_, fun m => ?_⟩
  · rw [joined, frame]
  · rw [slot]; exact self
  · rw [slot, xself]; rfl
  · rw [slot, xothers j e, wothers j e, ← hv, State.slot_setSlot_of_ne _ _ _ _ e, uothers j e]
  · rw [runList, frame]; rfl
  · obtain ⟨ws, writes⟩ := kept.writes
    exact ⟨ws, (uwrites m).trans writes (by rw [urest])⟩

/-- The first check that a CLOSE fails, by the order of R36. -/
theorem Slot.checkClose_fails {c : Slot} {final : Nat} {status : Status}
    (fails : c.state.isOpen = false ∧ status = .state ∨
      c.state.isOpen = true ∧
        ((∃ f, c.final = some f ∧ status = if f = final then .existing else .conflict) ∨
          c.final = none ∧ status = .range ∧ (final < c.consumed ∨ ∃ g ∈ c.feed, final < g.offset + g.length))) : c.checkClose final = some status := by
  unfold Slot.checkClose
  rcases fails with ⟨closed, rfl⟩ | ⟨isOpen, ⟨f, known, rfl⟩ | ⟨unknown, rfl, short⟩⟩
  · rw [if_pos closed]
  · rw [if_neg (by simp [isOpen]), known]
  · rw [if_neg (by simp [isOpen]), unknown]
    dsimp only
    by_cases below : final < c.consumed
    · rw [if_pos below]
    · obtain ⟨g, hg, beyond⟩ := short.resolve_left below
      rw [if_neg below, if_pos (List.any_eq_true.2 ⟨g, hg, decide_eq_true beyond⟩)]

theorem Slot.checkClose_passes {c : Slot} {final : Nat} (isOpen : c.state.isOpen = true) (unknown : c.final = none) (reached : c.consumed ≤ final)
    (within : ∀ g ∈ c.feed, g.offset + g.length ≤ final) : c.checkClose final = none := by
  unfold Slot.checkClose
  rw [if_neg (by simp [isOpen]), unknown]
  dsimp only
  rw [if_neg (Nat.not_lt.2 reached), if_neg fun k => ?_]
  obtain ⟨g, hg, beyond⟩ := List.any_eq_true.1 k
  exact absurd (within g hg) (Nat.not_le.2 (of_decide_eq_true beyond))

/-- Settles O23: the cases of R37 are those of the Finished mark and of the passages to SETTLING and CLOSED. -/
theorem closeRequest : Obligations.CloseRequest := by
  refine ⟨fun s cell i final tag rest h isOpen unknown reached within unfinished => ?_, fun s cell slot final tag rest status h fails => ?_⟩
  · have ⟨_, mayWrite, _, inflight⟩ := h
    obtain ⟨frame, self, marks, others, runList, writes⟩ := (s.asked rest).closeStream_spec i final
    obtain ⟨ws, writes⟩ := writes mayWrite
    have passes : (s.begun.slot i).checkClose final = none := Slot.checkClose_passes isOpen unknown reached within
    have run : exec (.close cell) s = .next (s.endEvent (((s.asked rest).closeStream i final).answer cell .done none)) := by
      simp only [exec, execClose, h.settled, h.next, slotNamed_val, passes, State.endEvent_begun]
    generalize (s.asked rest).closeStream i final = v at frame self marks others runList writes run
    obtain ⟨answered, ends⟩ := State.answered (v := v) mayWrite inflight writes (by rw [frame]; rfl) (by rw [frame]; rfl) (by rw [frame]; rfl) .done
    generalize s.endEvent (v.answer cell .done none) = t at answered ends run
    have slot (j : SlotNo) : t.slot j = v.slot j := by rw [ends]; rfl
    have asked : (s.asked rest).slot i = s.slot i := rfl
    have joined : t.runList = if (t.slot i).eligible = true ∧ i ∉ s.runList ∧ s.worked i = false then s.runList ++ [i] else s.runList := by
      rw [slot, ends]; exact runList
    rw [asked] at self
    have chunker : (t.slot i).chunker = ((s.slot i).ended final).chunker := by rw [slot, self]
    have state : (t.slot i).state = ((s.slot i).ended final).settled := by rw [slot, self]
    rw [Slot.ended_chunker unfinished] at chunker
    have finished : ((s.slot i).ended final).chunker.finished = decide ((s.slot i).consumed = final ∧ (s.slot i).chunker.len = 0) := by
      rw [Slot.ended_chunker unfinished]
      split
      · rename_i k
        exact (decide_eq_true k).symm
      · rename_i k
        exact unfinished.trans (decide_eq_false k).symm
    have stays (k : ¬((s.slot i).consumed = final ∧ (s.slot i).chunker.len = 0)) :
        (t.slot i).chunker = (s.slot i).chunker ∧ (t.slot i).state = (s.slot i).state := by
      refine ⟨by rw [chunker, if_neg k], ?_⟩
      rw [state, Slot.settled, if_neg (by simp [finished, k])]
      rfl
    refine ⟨t, ws, run, answered, ?_, ?_, ?_, fun j e => ?_, joined, fun e no => ?_, fun e some => ?_, fun lt => ?_⟩
    · rw [slot, self]; rfl
    · rw [ends, frame]; rfl
    · rw [slot]; exact marks
    · rw [slot]; exact others j e
    · rw [if_pos ⟨e, no⟩] at chunker
      refine ⟨chunker, ?_, fun some => ?_, fun none => ?_⟩
      · rw [joined, if_neg fun k => by simp [Slot.eligible, chunker] at k]
      · rw [state, Slot.settled, if_neg fun k => some k.2.2]; rfl
      · rw [state, Slot.settled, if_pos ⟨isOpen, by simp [finished, e, no], none⟩]; rfl
    · obtain ⟨chunker, state⟩ := stays fun k => absurd k.2 (Nat.ne_of_gt some)
      refine ⟨chunker, state, fun room => ?_⟩
      have due : (t.slot i).eligible = true := by
        refine (Slot.eligible_iff _).2 ⟨state ▸ isOpen, chunker ▸ unfinished, ?_, .inr ?_⟩
        · rw [slot, self]; exact room
        · rw [Slot.finalDue, chunker, slot, self]
          simp [Slot.ended, Slot.marked, e, some]
      by_cases listed : i ∈ s.runList
      · left
        rw [joined, if_neg fun k => k.2.1 listed]
        exact listed
      · cases worked : s.worked i with
        | true => exact .inr rfl
        | false => left; rw [joined, if_pos ⟨due, listed, worked⟩]; simp
    · exact stays fun k => absurd k.1 (Nat.ne_of_lt lt)
  · have refused : exec (.close cell) s = .next (s.endEvent ((s.asked rest).answer cell status none)) := by
      rcases fails with ⟨beyond, rfl⟩ | ⟨i, rfl, fails⟩
      · simp only [exec, execClose, h.settled, h.next, slotNamed_of_le beyond, State.endEvent_begun]
      · have check : (s.begun.slot i).checkClose final = some status := Slot.checkClose_fails fails
        simp only [exec, execClose, h.settled, h.next, slotNamed_val, check, State.endEvent_begun]
    exact ⟨_, refused, h.refuse status⟩

end Sys2Proof.Machine

namespace Sys2Proof.Machine

set_option Elab.async false

variable (s : State)

/-! ### EMISSION (R117, R118, R119) -/

/-- The context behind the entry of its head chunk (R119). -/
def Slot.emitted (c : Slot) (p : PendingChunk) (v : Verdict) : Slot :=
  { c with
    pending := c.pending.tail, written := c.written + 1, extents := c.extents ++ [{ ordinal := p.ordinal, stop := p.offset + p.length }]
    stats := c.stats.emitted v p.length }

/-- The state of a stream behind an emission: decided again, and then SETTLING or CLOSED where it has come to its end (R26, R27, R28). -/
def Slot.afterEmission (c : Slot) : SlotState := if c.chunker.finished = true ∧ c.pending = [] then c.settles else c.decided

theorem SlotStats.emitted_eq (x : SlotStats) (v : Verdict) (n : Nat) : x.emitted v n = { x with
    chunks := min (x.chunks + 1) (2 ^ 48 - 1)
    dupChunks := if v = .dup then min (x.dupChunks + 1) (2 ^ 48 - 1) else x.dupChunks
    dupBytes := if v = .dup then min (x.dupBytes + n) (2 ^ 48 - 1) else x.dupBytes
    unindexed := if v = .unindexed ∨ v = .conflict then min (x.unindexed + 1) (2 ^ 48 - 1) else x.unindexed } := by
  cases v <;> simp [SlotStats.emitted, sat48]

/-- An emission, said of the state it leaves: the context with its head gone, the state and the conditions decided, the Run List and the writes (R17, R119). -/
theorem State.emit_spec (i : SlotNo) (p : PendingChunk) (v : Verdict) (n : Nat) (k : Cause) (isOpen : (s.slot i).state.isOpen = true) :
    let t := s.emit i p v n k
    let c := (s.slot i).emitted p v
    t = { s with slots := t.slots, runList := t.runList, notice := t.notice, port := t.port } ∧
    t.slot i = { c with state := c.afterEmission, marks := (t.slot i).marks, shown := (t.slot i).shown } ∧
    (t.slot i).marks = (t.slot i).marksDue ∧ (∀ j, j ≠ i → t.slot j = s.slot j) ∧
    t.runList = (if (t.slot i).eligible = true ∧ i ∉ s.runList ∧ s.worked i = false then s.runList ++ [i] else s.runList) ∧
    (s.mayWrite = true → ∃ ws, s.Writes t
      ([.recipe ((s.slot i).entryAddr p.ordinal) (recipeOf p v n k), .slotWritten i ((s.slot i).written + 1)] ++ ws)) := by
  dsimp only
  generalize ht : s.emit i p v n k = t
  unfold State.emit at ht
  dsimp only at ht
  generalize hr : s.post [.recipe ((s.slot i).entryAddr p.ordinal) (recipeOf p v n k)] = r at ht
  have rrest : s.SlotsAndPort r := hr ▸ s.post_slotsAndPort _
  have rslot (j : SlotNo) : r.slot j = s.slot j := hr ▸ s.slot_post _ j
  generalize hc : (s.slot i).emitted p v = c
  generalize hu : (r.editSlot i _).post [.slotWritten i ((s.slot i).written + 1)] = u at ht
  have uself : u.slot i = c := by rw [← hu, ← hc, State.slot_post, State.slot_editSlot_self, rslot]; rfl
  have urest : s.SlotsAndPort u := hu ▸ (rrest.trans (r.editSlot_slotsAndPort i _)).trans (State.post_slotsAndPort _ _)
  have uothers : ∀ j, j ≠ i → u.slot j = s.slot j := fun j e => by
    rw [← hu, State.slot_post]; exact (r.slot_editSlot_of_ne i j _ e).trans (rslot j)
  have uwrites (m : s.mayWrite = true) :
      s.Writes u [.recipe ((s.slot i).entryAddr p.ordinal) (recipeOf p v n k), .slotWritten i ((s.slot i).written + 1)] := by
    have first : s.Writes r [.recipe ((s.slot i).entryAddr p.ordinal) (recipeOf p v n k)] := hr ▸ s.post_writes _ m
    exact first.trans (hu ▸ (r.editSlot i _).post_writes [.slotWritten i ((s.slot i).written + 1)] (rrest.mayWrite.trans m)) (by rw [rrest])
  have kept : u.Keeps t := by
    rw [← ht]
    exact (((u.decideState_keeps i).trans (State.joinRun_keeps _ i)).trans (State.trySettle_keeps _ i)).trans (State.refresh_keeps _ i)
  obtain ⟨drest, dself, dothers⟩ := u.decideState_spec i
  generalize u.decideState i = d at drest dself dothers ht
  have copen : c.state.isOpen = true := by rw [← hc]; exact isOpen
  rw [uself, if_pos copen] at dself
  have runList := d.joinRun_runList i
  have joined := d.joinRun_eq i
  have slot := d.slot_joinRun i
  generalize d.joinRun i = j at runList joined slot ht
  obtain ⟨wrest, wself, wothers⟩ := j.trySettle_spec i
  generalize j.trySettle i = w at wrest wself wothers ht
  obtain ⟨xrest, xself, xothers⟩ := w.refresh_spec i
  rw [ht] at xrest xself xothers
  have base : d = { s with slots := d.slots, port := d.port } := urest.trans drest
  have settled : (j.slot i).settled = c.afterEmission := by
    rw [slot, dself]
    simp only [Slot.settled, Slot.afterEmission, Slot.decided_isOpen, true_and]
    rfl
  have self : t.slot i = { c with state := c.afterEmission, marks := (t.slot i).marks, shown := (t.slot i).shown } := by
    rw [xself, wself, settled, slot, dself]
  have eligible : (t.slot i).eligible = (j.slot i).eligible := by
    rw [← (j.slot i).settled_eligible (w.slot i).shown, ← wself, xself]; rfl
  have listed : t.runList = j.runList := by rw [xrest, wrest]
  refine ⟨?_, self, ?_, fun m e => ?_, ?_, fun m => ?_⟩
  · rw [xrest, wrest, joined, base]
  · rw [xself]; rfl
  · rw [xothers m e, wothers m e, slot, dothers m e, uothers m e]
  · rw [listed, runList, eligible, base]; rfl
  · obtain ⟨ws, writes⟩ := kept.writes
    exact ⟨ws, (uwrites m).trans writes (by rw [urest])⟩

/-- Settles O49: the emission as an event of its own, its writes followed by at most one message. -/
theorem emissionWritesTheHead : Obligations.EmissionWritesTheHead := by
  rintro s i c p ps v number cause rfl settled m active pending cond room
  have isOpen : (s.slot i).state.isOpen = true := by rw [active]; rfl
  have ready : (s.begun.slot i).emittable = some (p, v, number, cause) := by
    have : (s.begun.slot i).pending = p :: ps := pending
    simp only [Slot.emittable, this, cond]
    exact if_pos ⟨active, room⟩
  obtain ⟨frame, self, marks, others, runList, writes⟩ := s.begun.emit_spec i p v number cause isOpen
  obtain ⟨ws, writes⟩ := writes m
  have run : exec (.emission i) s = .next (s.endEvent (s.begun.emit i p v number cause)) := by
    have m' : s.begun.mayWrite = true := m
    simp only [exec, execEmission, settled.eq, ready, m', if_true, State.endEvent_begun]
  generalize s.begun.emit i p v number cause = u at frame self marks others runList writes run
  obtain ⟨ns, -, writes⟩ := State.Writes.endEvent (s := s.begun) writes (by rw [frame]) (by rw [frame])
  rw [State.endEvent_begun] at writes
  have ends := s.endEvent_eq u
  generalize s.endEvent u = t at writes ends run
  have slot (j : SlotNo) : t.slot j = u.slot j := by rw [ends]; rfl
  have tail : ((s.slot i).emitted p v).pending = ps := congrArg List.tail pending
  rw [← slot] at self marks runList
  have state : (t.slot i).state = ((s.slot i).emitted p v).afterEmission := congrArg Slot.state self
  have stats : (t.slot i).stats = ((s.slot i).emitted p v).stats := by rw [self]; rfl
  have listed : t.runList = u.runList := by rw [ends]
  refine ⟨t, ws ++ ns, run, ?_, marks, ?_, ?_, fun finished none => ?_, fun more => ?_, ?_, ?_, fun j e => ?_⟩
  · rw [List.append_assoc] at writes
    exact writes
  · rw [← tail, state, stats]; exact self
  · exact stats.trans ((s.slot i).stats.emitted_eq v p.length)
  · rw [state, Slot.afterEmission, if_pos ⟨finished, tail.trans none⟩]; rfl
  · rw [state, Slot.afterEmission, if_neg, self]
    · rfl
    · rintro ⟨finished, none⟩
      rcases more with unfinished | some
      · exact absurd (unfinished.symm.trans finished) Bool.false_ne_true
      · exact some (tail.symm.trans none)
  · exact listed.trans runList
  · rw [ends, frame]; rfl
  · rw [slot]; exact others j e

end Sys2Proof.Machine

namespace Sys2Proof.Machine

set_option Elab.async false

variable {s t u : State}

/-! ### What the control words of a host half leave to its cells (R102, R125, R126, R131) -/

/-- The control words of a host half leave the slot's segments and cells, its offsets, statistics and pending chunks, the control state and the Run List. -/
structure State.StreamKept (s t : State) (i : SlotNo) : Prop where
  cells : (t.slot i).cells = (s.slot i).cells
  feed : (t.slot i).feed = (s.slot i).feed
  consumed : (t.slot i).consumed = (s.slot i).consumed
  final : (t.slot i).final = (s.slot i).final
  stats : (t.slot i).stats = (s.slot i).stats
  pending : (t.slot i).pending = (s.slot i).pending
  ctl : t.ctl = s.ctl
  runList : t.runList = s.runList

theorem State.StreamKept.of_slot {i : SlotNo} {c : Slot} (slot : t.slot i = c) (ctl : t.ctl = s.ctl) (runList : t.runList = s.runList)
    (cells : c.cells = (s.slot i).cells := by rfl) (feed : c.feed = (s.slot i).feed := by rfl) (consumed : c.consumed = (s.slot i).consumed := by rfl)
    (final : c.final = (s.slot i).final := by rfl) (stats : c.stats = (s.slot i).stats := by rfl) (pending : c.pending = (s.slot i).pending := by rfl) :
    s.StreamKept t i := by
  subst slot
  exact ⟨cells, feed, consumed, final, stats, pending, ctl, runList⟩

theorem State.StreamKept.refl (s : State) (i : SlotNo) : s.StreamKept s i := .of_slot rfl rfl rfl

theorem State.StreamKept.trans {i : SlotNo} (h : s.StreamKept t i) (k : t.StreamKept u i) : s.StreamKept u i :=
  ⟨k.cells.trans h.cells, k.feed.trans h.feed, k.consumed.trans h.consumed, k.final.trans h.final, k.stats.trans h.stats, k.pending.trans h.pending,
    k.ctl.trans h.ctl, k.runList.trans h.runList⟩

theorem State.editRecord_eq (s : State) (r : Nat) (f : PoolRecord → PoolRecord) : ∃ pool, s.editRecord r f = { s with pool := pool } := by
  unfold State.editRecord
  split <;> exact ⟨_, rfl⟩

/-- A FIRM that is issued for a record of a stream takes the record off its list (R102). -/
theorem State.issueFirm_kept (s : State) (i : SlotNo) (r : Nat) :
    s.StreamKept (s.issueFirm i r) i ∧ ((s.issueFirm i r).slot i).state = (s.slot i).state := by
  have self := s.slot_editSlot_self i fun c => { c.dropProv r with inflight := c.inflight + 1 }
  unfold State.issueFirm
  dsimp only
  generalize hu : s.editSlot i _ = u at self ⊢
  obtain ⟨pool, edited⟩ := u.editRecord_eq r fun p => { p with disp := .firming }
  rw [edited]
  exact ⟨.of_slot self (hu ▸ rfl) (hu ▸ rfl), (congrArg Slot.state self :)⟩

theorem State.issueFirms_kept (i : SlotNo) (rs : List Nat) (s : State) :
    s.StreamKept (rs.foldl (State.issueFirm i) s) i ∧ ((rs.foldl (State.issueFirm i) s).slot i).state = (s.slot i).state := by
  induction rs generalizing s with
  | nil => exact ⟨.refl s i, rfl⟩
  | cons r rs ih =>
    obtain ⟨kept, state⟩ := s.issueFirm_kept i r
    obtain ⟨kept', state'⟩ := ih (s.issueFirm i r)
    exact ⟨kept.trans kept', state'.trans state⟩

/-- The passage to CLOSED is a SETTLING slot's, and an open one is as it was (R28). -/
theorem State.tryClose_kept (s : State) (i : SlotNo) :
    s.StreamKept (s.tryClose i) i ∧ ((s.slot i).state.isOpen = true → ((s.tryClose i).slot i).state = (s.slot i).state) := by
  by_cases settling : (s.slot i).state = .settling
  · obtain ⟨rest, self, -⟩ := s.tryClose_spec i settling
    exact ⟨.of_slot self (by rw [rest]) (by rw [rest]), fun isOpen => by simp [settling, SlotState.isOpen] at isOpen⟩
  · have same : s.tryClose i = s := by simp [State.tryClose, settling]
    rw [same]
    exact ⟨.refl s i, fun _ => rfl⟩

theorem State.holdStored_kept (s : State) (i : SlotNo) (read : Nat) :
    s.StreamKept (s.holdStored i read) i ∧ ((s.slot i).state.isOpen = true → ((s.holdStored i read).slot i).state = (s.slot i).state) := by
  unfold State.holdStored
  dsimp only
  split
  · exact ⟨.refl s i, fun _ => rfl⟩
  · generalize hu : s.editSlot i _ = u
    have uslot := hu ▸ s.slot_editSlot_self i _
    have ukept : s.StreamKept u i := .of_slot uslot (hu ▸ rfl) (hu ▸ rfl)
    obtain ⟨vkept, vstate⟩ := State.issueFirms_kept i (u.firmDue i (holdValue read (s.slot i).stored (s.slot i).written)) u
    generalize List.foldl _ u _ = v at vkept vstate
    generalize hw : State.post (v.editSlot i _) _ = w
    have wslot := hw ▸ (State.slot_post _ _ i).trans (v.slot_editSlot_self i _)
    have wkept : v.StreamKept w i := .of_slot wslot (hw ▸ State.post_ctl _ _) (hw ▸ State.post_runList _ _)
    obtain ⟨xkept, xstate⟩ := w.tryClose_kept i
    have state : (w.slot i).state = (s.slot i).state := by rw [wslot]; exact vstate.trans (by rw [uslot])
    exact ⟨((ukept.trans vkept).trans wkept).trans xkept, fun isOpen => (xstate (state ▸ isOpen)).trans state⟩

theorem State.holdTaken_kept (s : State) (i : SlotNo) (read : Nat) :
    s.StreamKept (s.holdTaken i read) i ∧ ((s.slot i).state.isOpen = true →
      ((s.holdTaken i read).slot i).state = ((s.holdTaken i read).slot i).decided ∨ ((s.holdTaken i read).slot i).state = (s.slot i).state) := by
  unfold State.holdTaken
  dsimp only
  split
  · exact ⟨.refl s i, fun _ => .inr rfl⟩
  · generalize hu : s.editSlot i _ = u
    have uslot := hu ▸ s.slot_editSlot_self i _
    have ukept : s.StreamKept u i := .of_slot uslot (hu ▸ rfl) (hu ▸ rfl)
    obtain ⟨rest, self, -⟩ := u.decideState_spec i
    refine ⟨ukept.trans (.of_slot self (by rw [rest]) (by rw [rest])), fun isOpen => .inl ?_⟩
    have isOpen' : (u.slot i).state.isOpen = true := by rw [uslot]; exact isOpen
    rw [self, if_pos isOpen']
    rfl

/-- The slot as a sweep takes its cells, behind the control words of its host half (R40, R102, R125, R126, R131). -/
def State.heldWords (s : State) (i : SlotNo) (h : HostHalf) : State :=
  ((s.holdStored i h.stored).holdTaken i h.taken).holdWatch i h.watch

theorem State.heldWords_kept (s : State) (i : SlotNo) (h : HostHalf) :
    s.StreamKept (s.heldWords i h) i ∧ ((s.slot i).state.isOpen = true →
      ((s.heldWords i h).slot i).state = ((s.heldWords i h).slot i).decided ∨ ((s.heldWords i h).slot i).state = (s.slot i).state) := by
  obtain ⟨stored, same⟩ := s.holdStored_kept i h.stored
  obtain ⟨taken, decided⟩ := (s.holdStored i h.stored).holdTaken_kept i h.taken
  unfold State.heldWords State.holdWatch
  generalize s.holdStored i h.stored = u at stored same taken decided ⊢
  generalize u.holdTaken i h.taken = v at taken decided ⊢
  have slot : (v.editSlot i fun c => { c with watch := h.watch }).slot i = { v.slot i with watch := h.watch } := v.slot_editSlot_self i _
  refine ⟨(stored.trans taken).trans (.of_slot slot rfl rfl), fun isOpen => ?_⟩
  rw [slot]
  exact (decided (same isOpen ▸ isOpen)).imp id fun k => k.trans (same isOpen)

/-- A host half that differs is seen, and the idle countdown of a live slot reloaded (R40, R41). -/
def State.seenHalf (s : State) (i : SlotNo) (h : HostHalf) : State :=
  let u := if s.ctl.engine = .quiescing ∧ (s.slot i).state.isLive then s else (s.editSlot i fun c => { c with seen := h.post }).post [.slotSeen i h.post]
  if (s.slot i).state.isLive then u.editSlot i fun c => { c with idle := c.cls.idleLimit } else u

theorem State.seenHalf_kept (s : State) (i : SlotNo) (h : HostHalf) : s.StreamKept (s.seenHalf i h) i ∧ ((s.seenHalf i h).slot i).state = (s.slot i).state := by
  unfold State.seenHalf
  dsimp only
  generalize hu : (if s.ctl.engine = .quiescing ∧ (s.slot i).state.isLive = true then s
    else (s.editSlot i fun c => { c with seen := h.post }).post [.slotSeen i h.post]) = u
  obtain ⟨seen, same⟩ : s.StreamKept u i ∧ (u.slot i).state = (s.slot i).state := by
    rw [← hu]
    split
    · exact ⟨.refl s i, rfl⟩
    · have self := (State.slot_post _ [.slotSeen i h.post] i).trans (s.slot_editSlot_self i fun c => { c with seen := h.post })
      exact ⟨.of_slot self (State.post_ctl _ _) (State.post_runList _ _), (congrArg Slot.state self :)⟩
  split
  · have self := u.slot_editSlot_self i fun c => { c with idle := c.cls.idleLimit }
    exact ⟨seen.trans (.of_slot self rfl rfl), (congrArg Slot.state self :).trans same⟩
  · exact ⟨seen, same⟩

theorem State.takeHostHalf_eq (s : State) (i : SlotNo) (half : List Byte) :
    s.takeHostHalf i half =
      (let w := (s.seenHalf i (readHostHalf half)).heldWords i (readHostHalf half)
       if w.ctl.engine = .running then w.takeCells i half else w).refresh i := rfl

/-- In RUNNING a host half is its Seen Sequence and the idle countdown, the control words, then the 16 cells, and the conditions that these have changed (R40, R41,
R48, R132). -/
theorem State.takeHostHalf_of_running (s : State) (i : SlotNo) (half : List Byte) (running : s.ctl.engine = .running) :
    ∃ u, s.StreamKept u i ∧ ((s.slot i).state.isOpen = true → (u.slot i).state = (u.slot i).decided ∨ (u.slot i).state = (s.slot i).state) ∧
      s.takeHostHalf i half = (u.takeCells i half).refresh i := by
  obtain ⟨seen, same⟩ := s.seenHalf_kept i (readHostHalf half)
  obtain ⟨kept, state⟩ := (s.seenHalf i (readHostHalf half)).heldWords_kept i (readHostHalf half)
  rw [State.takeHostHalf_eq]
  generalize State.heldWords _ i _ = w at kept state ⊢
  refine ⟨w, seen.trans kept, fun isOpen => ?_, ?_⟩
  · exact (state (same ▸ isOpen)).imp id fun k => k.trans same
  · dsimp only
    rw [if_pos (by rw [kept.ctl, seen.ctl, running])]

end Sys2Proof.Machine

namespace Sys2Proof.Machine

set_option Elab.async false

variable {s t : State}

/-! ### The cells of a host half (R48 to R53) -/

/-- The segment that a cell of a host half names (R47, R48). -/
def cellSegment (half : List Byte) (n : CellNo) : Segment :=
  { cell := n, addr := field half (0x080 + 32 * n.val) 8, offset := field half (0x080 + 32 * n.val + 0x08) 8,
    length := field half (0x080 + 32 * n.val + 0x10) 4, tag := tagAt half (0x080 + 32 * n.val + 0x14), count := 0 }

/-- A cell is passed over where its slot is no longer live, while it is queued, or where its tag is its done tag; else its segment is taken (R48). -/
theorem State.takeCell_eq (s : State) (i : SlotNo) (half : List Byte) (n : CellNo) :
    s.takeCell i half n =
      if (s.slot i).state.isLive = false ∨ ((s.slot i).cells.get n).queued ≠ none ∨ (cellSegment half n).tag = ((s.slot i).cells.get n).done then s
      else s.takeSegment i (cellSegment half n) := by
  unfold State.takeCell
  dsimp only
  refine if_congr (or_congr Iff.rfl (or_congr ?_ Iff.rfl)) rfl rfl
  rw [Option.isSome_iff_ne_none]

/-- A segment stands behind those that come before it and before the others (R51). -/
theorem joinFeed_append {g : Segment} {as bs : List Segment} (before : ∀ x ∈ as, x.offset < g.offset ∨ x.offset = g.offset ∧ x.cell < g.cell)
    (behind : ∀ x, bs.head? = some x → g.offset < x.offset ∨ g.offset = x.offset ∧ g.cell ≤ x.cell) : joinFeed g (as ++ bs) = as ++ g :: bs := by
  induction as with
  | nil =>
    cases bs with
    | nil => rfl
    | cons x xs =>
      have := behind x rfl
      refine if_neg ?_
      rintro (lt | ⟨eq, lt⟩)
      · omega
      · rcases this with gt | ⟨-, le⟩
        · omega
        · exact absurd lt (not_lt.2 le)
  | cons a as ih =>
    rw [List.cons_append, joinFeed, if_pos (before a List.mem_cons_self), ih fun x hx => before x (List.mem_cons_of_mem _ hx)]
    rfl

theorem Slot.headUsable_eq_false (c : Slot) : c.headUsable = false ↔ ∀ x, c.feed.head? = some x → c.consumed < x.offset := by
  unfold Slot.headUsable
  cases c.feed <;> simp

/-- The context of a slot whose Feed Queue a segment has joined (R51). -/
def Slot.joined (c : Slot) (g : Segment) : Slot :=
  { c with feed := joinFeed g c.feed, cells := c.cells.set g.cell { c.cells.get g.cell with queued := some g.tag } }

/-- A state in which a segment has joined a Feed Queue, and its slot may have joined the Run List (R17, R51). -/
def State.feedJoined (s : State) (i : SlotNo) (g : Segment) : State := (s.setSlot i ((s.slot i).joined g)).joinRun i

theorem State.feedJoined_spec (s : State) (i : SlotNo) (g : Segment) :
    let t := s.feedJoined i g
    t = { s with slots := t.slots, runList := t.runList } ∧ t.slot i = (s.slot i).joined g ∧ (∀ j, j ≠ i → t.slot j = s.slot j) ∧
    t.runList = if (t.slot i).eligible = true ∧ i ∉ s.runList ∧ s.worked i = false then s.runList ++ [i] else s.runList := by
  dsimp only
  unfold State.feedJoined
  generalize hu : s.setSlot i _ = u
  have runList := u.joinRun_runList i
  refine ⟨?_, ?_, fun j e => ?_, ?_⟩
  · rw [u.joinRun_eq, ← hu]; rfl
  · rw [u.slot_joinRun, ← hu, State.slot_setSlot_self]
  · rw [u.slot_joinRun, ← hu, State.slot_setSlot_of_ne _ _ _ _ e]
  · rw [runList, ← hu]; rfl

/-- The segment joins, and 16 segments none of which is usable abort the stream (R51, R53). -/
theorem State.joinSegment_eq (s : State) (i : SlotNo) (g : Segment) :
    s.joinSegment i g = if (joinFeed g (s.slot i).feed).length = 16 ∧ ∀ x, (joinFeed g (s.slot i).feed).head? = some x → (s.slot i).consumed < x.offset
      then (s.feedJoined i g).enterAborting i .gap else s.feedJoined i g := by
  obtain ⟨-, self, -⟩ := s.feedJoined_spec i g
  have joined : s.joinSegment i g = if ((s.feedJoined i g).slot i).feed.length = 16 ∧ ((s.feedJoined i g).slot i).headUsable = false
    then (s.feedJoined i g).enterAborting i .gap else s.feedJoined i g := rfl
  refine joined.trans (if_congr (and_congr ?_ ?_) rfl rfl)
  · rw [self]; rfl
  · rw [Slot.headUsable_eq_false, self]; rfl

/-- An abort behind a segment that has joined is an abort of the stream as it was: the segment, its cell's mark and the place on the Run List are gone (R22, R56). -/
theorem State.Aborts.of_feedJoined {i : SlotNo} {g : Segment} {r : AbortReason} (h : (s.feedJoined i g).Aborts t i r) : s.Aborts t i r := by
  obtain ⟨rest, self, others, runList⟩ := s.feedJoined_spec i g
  have filtered : (s.feedJoined i g).runList.filter (fun j => j != i) = s.runList.filter fun j => j != i := by
    rw [runList]
    split
    · simp
    · rfl
  generalize s.feedJoined i g = u at h rest self others filtered
  have state := h.state_eq
  have kept := h.kept
  have context := h.context
  have issued := h.issued
  have records := h.records
  rw [self] at state kept context issued records
  exact {
    reason_eq := h.reason_eq
    state_eq := state
    emptied := h.emptied
    kept := kept
    context := context
    cells := fun n => by
      rw [h.cells, self]
      by_cases e : n = g.cell
      · subst e
        exact congrArg (fun r : CellRecord => { r with queued := none }) (get_set_self _ _ _)
      · exact congrArg (fun r : CellRecord => { r with queued := none }) (get_set_of_ne _ _ e)
    left := h.left
    others_listed := ⟨h.others_listed.1.trans filtered, by rw [h.others_listed.2, rest]⟩
    others_worked := fun n => by
      have := h.others_worked n
      rwa [show u.lanes = s.lanes by rw [rest]] at this
    issued := by
      rw [show u.index = s.index by rw [rest], show u.removals = s.removals by rw [rest]] at issued
      exact issued
    records := fun n => by
      have := records n
      rwa [show u.record n = s.record n by rw [rest]; rfl] at this
    others := fun j e => (h.others j e).trans (others j e)
    same := by
      have := h.same
      rwa [show u.pending = s.pending by rw [rest], show u.ctl = s.ctl by rw [rest], show u.header = s.header by rw [rest],
        show u.time = s.time by rw [rest], show u.classes = s.classes by rw [rest], show u.mem = s.mem by rw [rest]] at this }

/-- The answer to a cell: its record with the tag taken, the statistics of its slot, and the two writes (R47, R50). -/
def State.CellAnswered (s t : State) (i : SlotNo) (g : Segment) (status : CellStatus) (stats : SlotStats) : Prop :=
  t = { s with slots := t.slots, port := t.port } ∧ (∀ j, j ≠ i → t.slot j = s.slot j) ∧
  t.slot i = { s.slot i with cells := (s.slot i).cells.set g.cell { done := g.tag, status := status, queued := none }, stats := stats } ∧
  (s.mayWrite = true → s.Writes t [.cellStatus i g.cell status, .cellTag i g.cell g.tag])

theorem State.answerCell_answered (s : State) (i : SlotNo) (g : Segment) (status : CellStatus) :
    s.CellAnswered (s.answerCell i g.cell g.tag status) i g status (s.slot i).stats := by
  obtain ⟨rest, self, others, writes⟩ := s.answerCell_spec i g.cell g.tag status
  exact ⟨rest, others, self, writes⟩

/-- A segment whose bytes have been taken already is answered, and its bytes counted (R43, R49, R50). -/
theorem State.answerResent_answered (s : State) (i : SlotNo) (g : Segment) :
    s.CellAnswered ((s.editSlot i fun c => { c with stats := { c.stats with resent := sat48 (c.stats.resent + g.length) } }).answerCell i g.cell g.tag .resent)
      i g .resent { (s.slot i).stats with resent := sat48 ((s.slot i).stats.resent + g.length) } := by
  have counted := s.slot_editSlot_self i fun c => { c with stats := { c.stats with resent := sat48 (c.stats.resent + g.length) } }
  have other j (e : j ≠ i) := s.slot_editSlot_of_ne i j (fun c => { c with stats := { c.stats with resent := sat48 (c.stats.resent + g.length) } }) e
  generalize hu : s.editSlot i _ = u at counted other ⊢
  obtain ⟨rest, self, others, writes⟩ := u.answerCell_spec i g.cell g.tag .resent
  refine ⟨?_, fun j e => (others j e).trans (other j e), by rw [self, counted], fun m => ?_⟩
  · rw [rest, ← hu]; rfl
  · have posted := writes (hu ▸ m)
    rw [← hu] at posted ⊢
    exact posted

/-- The check of R49 on a segment's length, end and address. -/
def Segment.refused (g : Segment) : Prop := 1048576 < g.length ∨ 2 ^ 48 ≤ g.stop ∨ 2 ^ 64 < g.addr + g.length

theorem State.takeSegment_of_refused {i : SlotNo} {g : Segment} (refused : g.refused) : s.takeSegment i g = s.answerCell i g.cell g.tag .refused :=
  if_pos refused

theorem State.takeSegment_of_empty {i : SlotNo} {g : Segment} (accepted : ¬g.refused) (empty : g.length = 0) :
    s.takeSegment i g = s.answerCell i g.cell g.tag .done := (if_neg accepted).trans (if_pos empty)

theorem State.takeSegment_of_behind {i : SlotNo} {g : Segment} (accepted : ¬g.refused) (bytes : g.length ≠ 0) (behind : g.stop ≤ (s.slot i).consumed) :
    s.takeSegment i g =
      (s.editSlot i fun c => { c with stats := { c.stats with resent := sat48 (c.stats.resent + g.length) } }).answerCell i g.cell g.tag .resent :=
  (if_neg accepted).trans ((if_neg bytes).trans (if_pos behind))

/-- A segment that passes the checks of R49 up to the Consumed Offset aborts its stream or joins the Feed Queue (R49, R51). -/
theorem State.takeSegment_of_ahead {i : SlotNo} {g : Segment} (accepted : ¬g.refused) (bytes : g.length ≠ 0) (ahead : (s.slot i).consumed < g.stop) :
    (∀ f, (s.slot i).final = some f → f < g.stop → s.takeSegment i g = s.enterAborting i .overrun) ∧
    ((∀ f, (s.slot i).final = some f → g.stop ≤ f) → s.takeSegment i g = s.joinSegment i g) := by
  have taken : s.takeSegment i g = match (s.slot i).final with
      | some f => if f < g.stop then s.enterAborting i .overrun else s.joinSegment i g
      | none => s.joinSegment i g := (if_neg accepted).trans ((if_neg bytes).trans (if_neg (Nat.not_le.2 ahead)))
  rw [taken]
  refine ⟨fun f final beyond => ?_, fun within => ?_⟩
  · rw [final]
    exact if_pos beyond
  · cases final : (s.slot i).final with
    | none => rfl
    | some f => exact if_neg (Nat.not_lt.2 (within f final))

/-- The state in which the next flagged slot is taken: it has left the sweep's list (R155). -/
def State.swept (s : State) (left : List SlotNo) : State := { s.begun with sweep := { s.sweep with flight := some (.slots left) } }

/-- Settles O17: the cells come behind the control words, and each check of R49 in its order. -/
theorem cellsAreTaken : Obligations.CellsAreTaken := by
  refine ⟨fun s i post half left settled running flight differs bound length => ?_, ?_⟩
  · obtain ⟨u, kept, state, taken⟩ := (s.swept left).takeHostHalf_of_running i half running
    refine ⟨u, kept.cells, kept.feed, kept.consumed, kept.final, kept.stats, kept.pending, state, kept.ctl, kept.runList, ?_⟩
    have flight' : s.begun.sweep.flight = some (.slots (i :: left)) := flight
    have on : ¬(post = ((s.swept left).slot i).seen ∨ ((s.swept left).slot i).state = .free) := fun k => k.elim differs bound
    have run : exec (.slotHostHalfTaken i post half) s = .next (s.endEvent ((s.swept left).takeHostHalf i half)) := by
      simp only [exec, execSlotHostHalfTaken, settled.eq, flight', if_true]
      exact (if_neg on).trans (if_neg (not_not.2 length))
    rw [run, taken]
    rfl
  · rintro s t i half n g rfl hg
    change g = cellSegment half n at hg
    have taken := s.takeCell_eq i half n
    rw [← hg] at taken
    obtain rfl : g.cell = n := by rw [hg]; rfl
    refine ⟨fun passed => taken.trans (if_pos passed), fun on refused => ?_, fun on accepted empty => ?_, fun on accepted bytes behind => ?_,
      fun on accepted bytes ahead => ?_⟩
    all_goals rw [if_neg on] at taken
    · rw [taken, State.takeSegment_of_refused refused]
      exact s.answerCell_answered i g .refused
    · rw [taken, State.takeSegment_of_empty accepted empty]
      exact s.answerCell_answered i g .done
    · rw [taken, State.takeSegment_of_behind accepted bytes behind]
      exact s.answerResent_answered i g
    · have live : (s.slot i).state.isLive = true := by
        by_contra k
        exact on (.inl (by simpa using k))
      obtain ⟨overrun, joins⟩ := State.takeSegment_of_ahead accepted bytes ahead
      refine ⟨fun f final beyond => ?_, fun within as bs feed split joined before behind => ?_⟩
      · rw [taken, overrun f final beyond]
        exact s.enterAborting_aborts i .overrun live
      · have queue : joinFeed g (s.slot i).feed = feed := by
          rw [split, joined]
          exact joinFeed_append before behind
        rw [taken, joins within, State.joinSegment_eq, queue]
        obtain ⟨rest, self, others, runList⟩ := s.feedJoined_spec i g
        refine ⟨fun full gap => ?_, fun goes => ?_⟩
        · rw [if_pos ⟨full, gap⟩]
          exact .of_feedJoined (State.enterAborting_aborts _ i .gap (by rw [self]; exact live))
        · rw [if_neg]
          · refine ⟨rest, others, ?_, runList⟩
            rw [self, Slot.joined, queue]
          · rintro ⟨full, gap⟩
            rcases goes with short | ⟨x, head, usable⟩
            · exact short full
            · exact absurd usable (Nat.not_le.2 (gap x head))

end Sys2Proof.Machine

namespace Sys2Proof.Machine

set_option Elab.async false

/-! ### What every operation carries on (R26, R42, R46, R163, R164)

Between two states of one event three things are carried on: no idle expiry comes to be due, open slots stand in the state that R26 decides,
and the host sees what
the engine holds. -/

/-- The writes of a run, in their order, as they change the device half of a slot that the host sees. -/
def showAll (i : SlotNo) (ws : List HostWrite) (d : DeviceHalf) : DeviceHalf := ws.foldl (fun d w => w.show i d) d

theorem shownHalf_append (i : SlotNo) (posted : List Posted) (area : Nat) (ws : List HostWrite) (d : DeviceHalf) :
    shownHalf i (posted ++ ws.map (Posted.mk area)) d = showAll i ws (shownHalf i posted d) := by
  simp [shownHalf, showAll, List.foldl_map]

/-- The device half of a slot as the host sees it, with the Consumed Offset last written and these statistics. -/
def Slot.shownAs (c : Slot) (stats : SlotStats) : DeviceHalf := { c.deviceHalf with consumed := c.shown, stats := stats }

/-- A write that changes no device half but that of a slot, and no word of the Ready Map. -/
def HostWrite.aside (i : SlotNo) : HostWrite → Bool
  | .slotState j _ | .slotReason j _ | .slotMarks j _ | .slotSeen j _ | .slotConsumed j _ | .slotSafe j _ | .slotWritten j _ | .slotFinal j _
  | .slotStats j _ | .cellStatus j _ _ | .cellTag j _ _ | .deviceHalf j _ => j == i
  | .readyWord _ _ => false
  | .reqResult _ _ | .reqStatus _ _ | .reqTag _ _ | .recordLive _ | .recordStats _ | .recipe _ _ | .notice _ _ => true

/-- A write that is of no device half of a slot and of no word of the Ready Map. -/
def HostWrite.apart : HostWrite → Bool
  | .reqResult _ _ | .reqStatus _ _ | .reqTag _ _ | .recordLive _ | .recordStats _ | .recipe _ _ | .notice _ _ => true
  | _ => false

theorem HostWrite.apart.aside {w : HostWrite} (h : w.apart = true) (i : SlotNo) : w.aside i = true := by
  cases w <;> simp_all [HostWrite.apart, HostWrite.aside]

theorem HostWrite.apart.show {w : HostWrite} (h : w.apart = true) (i : SlotNo) (d : DeviceHalf) : w.show i d = d := by
  cases w <;> simp_all [HostWrite.apart, HostWrite.show]

theorem HostWrite.aside.show {w : HostWrite} {i j : SlotNo} (h : w.aside i = true) (ne : j ≠ i) (d : DeviceHalf) : w.show j d = d := by
  cases w <;> simp_all [HostWrite.aside, HostWrite.show, ne.symm]

theorem showAll_of_same {i : SlotNo} {ws : List HostWrite} (h : ∀ w ∈ ws, ∀ d, w.show i d = d) (d : DeviceHalf) : showAll i ws d = d := by
  induction ws with
  | nil => rfl
  | cons w ws ih =>
    obtain ⟨first, rest⟩ := List.forall_mem_cons.1 h
    simp only [showAll, List.foldl_cons, first]
    exact ih rest

/-- What a write makes of a word of the Ready Map as the host sees it. -/
def HostWrite.showWord (word : Nat) (w : HostWrite) (v : BitVec 32) : BitVec 32 :=
  match w with
  | .readyWord n x => if n = word then x else v
  | _ => v

/-- The last value written to a word, once one has been, is what the writes in their order make of it. -/
theorem shownWord_append {word : Nat} {posted : List Posted} {v : BitVec 32} (h : shownWord word posted = some v) (area : Nat) (ws : List HostWrite) :
    shownWord word (posted ++ ws.map (Posted.mk area)) = some (ws.foldl (fun v w => w.showWord word v) v) := by
  induction ws generalizing posted v with
  | nil => simpa using h
  | cons w ws ih =>
    have step : shownWord word (posted ++ [Posted.mk area w]) = some (w.showWord word v) := by
      simp only [shownWord, List.reverse_append, List.reverse_singleton, List.singleton_append, List.findSome?_cons] at h ⊢
      cases w with
      | readyWord n x => by_cases e : n = word <;> simp [HostWrite.showWord, e, h]
      | _ => simpa [HostWrite.showWord] using h
    simpa using ih step

theorem HostWrite.aside.showWord {w : HostWrite} {i : SlotNo} (h : w.aside i = true) (word : Nat) (v : BitVec 32) : w.showWord word v = v := by
  cases w <;> simp_all [HostWrite.aside, HostWrite.showWord]

theorem showWords_of_same {word : Nat} {ws : List HostWrite} (h : ∀ w ∈ ws, ∀ v, w.showWord word v = v) (v : BitVec 32) :
    ws.foldl (fun v w => w.showWord word v) v = v := by
  induction ws with
  | nil => rfl
  | cons w ws ih =>
    obtain ⟨first, rest⟩ := List.forall_mem_cons.1 h
    rw [List.foldl_cons, first]
    exact ih rest

/-- A change of one context that carries on what is carried on of it. -/
structure Slot.Follows (c d : Slot) : Prop where
  due : d.idleDue = true → c.idleDue = true
  decided : (c.state.isOpen = true → c.state = c.decided) → d.state.isOpen = true → d.state = d.decided
  freed : (c.state = .free → c.reason = none) → d.state = .free → d.reason = none

theorem Slot.Follows.refl (c : Slot) : c.Follows c := ⟨id, id, id⟩

theorem Slot.Follows.trans {c d e : Slot} (h : c.Follows d) (k : d.Follows e) : c.Follows e :=
  ⟨h.due ∘ k.due, k.decided ∘ h.decided, k.freed ∘ h.freed⟩

/-- A change of fields of which the laws do not speak. -/
theorem Slot.Follows.of_same {c d : Slot} (state : d.state = c.state := by rfl) (reason : d.reason = c.reason := by rfl) (cls : d.cls = c.cls := by rfl)
    (idle : d.idle = c.idle := by rfl) (decided : d.decided = c.decided := by rfl) : c.Follows d :=
  ⟨by simp only [Slot.idleDue, state, cls, idle, imp_self], by simp only [state, decided, imp_self], by simp only [state, reason, imp_self]⟩

/-- A live slot passes to a state of its own that R26 does not decide and that is not FREE, or a slot that is not live stays so. -/
theorem Slot.Follows.of_closed {c d : Slot} (live : d.state.isLive = true → c.state.isLive = true) (closed : d.state.isOpen = false) (held : d.state ≠ .free)
    (cls : d.cls = c.cls := by rfl) (idle : d.idle = c.idle := by rfl) : c.Follows d := by
  refine ⟨?_, by simp [closed], by simp [held]⟩
  simp only [Slot.idleDue, cls, idle, Bool.and_eq_true]
  exact fun h => ⟨⟨live h.1.1, h.1.2⟩, h.2⟩

theorem SlotState.isLive_of_isOpen {st : SlotState} (h : st.isOpen = true) : st.isLive = true := by cases st <;> simp_all [SlotState.isOpen, SlotState.isLive]

theorem SlotState.ne_free_of_isOpen {st : SlotState} (h : st.isOpen = true) : st ≠ .free := by rintro rfl; cases h

/-- An open slot takes the state that R26 decides for it, and one that is not open keeps its state. -/
theorem Slot.Follows.of_decided {c d : Slot} (state : d.state = if c.state.isOpen = true then d.decided else c.state) (reason : d.reason = c.reason := by rfl)
    (cls : d.cls = c.cls := by rfl) (idle : d.idle = c.idle := by rfl) : c.Follows d := by
  by_cases o : c.state.isOpen = true
  · rw [if_pos o] at state
    have opened : d.state.isOpen = true := by rw [state]; exact d.decided_isOpen
    refine ⟨?_, fun _ _ => state, fun _ e => absurd e (SlotState.ne_free_of_isOpen opened)⟩
    simp only [Slot.idleDue, cls, idle, SlotState.isLive_of_isOpen o, SlotState.isLive_of_isOpen opened, imp_self]
  · rw [if_neg o] at state
    refine ⟨?_, fun _ k => absurd (state ▸ k) o, by simp only [state, reason, imp_self]⟩
    simp only [Slot.idleDue, state, cls, idle, imp_self]

/-- A change of the state that carries on what is carried on in an event. -/
structure State.Follows (s t : State) : Prop where
  ctl : t.ctl = s.ctl
  due : ∀ i, (t.slot i).idleDue = true → (s.slot i).idleDue = true
  decided : s.StatesDecided → t.StatesDecided
  shown : s.ShownOk → t.ShownOk

theorem State.Follows.refl (s : State) : s.Follows s := ⟨rfl, fun _ => id, id, id⟩

theorem State.Follows.trans {s t u : State} (h : s.Follows t) (k : t.Follows u) : s.Follows u :=
  ⟨k.ctl.trans h.ctl, fun i => h.due i ∘ k.due i, k.decided ∘ h.decided, k.shown ∘ h.shown⟩

theorem State.Follows.ite {s t u : State} {p : Prop} [Decidable p] (h : p → s.Follows t) (k : ¬p → s.Follows u) : s.Follows (if p then t else u) := by
  split
  · exact h ‹_›
  · exact k ‹_›

theorem State.Follows.foldl {α : Type} {f : State → α → State} (h : ∀ (s : State) (a : α), s.Follows (f s a)) (l : List α) (s : State) :
    s.Follows (l.foldl f s) := by
  induction l generalizing s with
  | nil => exact .refl s
  | cons a l ih => exact (h s a).trans (ih _)

/-- Every context carries on, and the writes make of the device halves and the Ready Map what the engine then holds. -/
theorem State.Follows.of_slots {s t : State} (ctl : t.ctl = s.ctl) (slots : ∀ i, (s.slot i).Follows (t.slot i))
    (writes : s.mayWrite = true → ∃ ws, t.port.posted = s.port.posted ++ ws.map (Posted.mk s.ctl.area) ∧
      (∀ i x, ∃ y, showAll i ws ((s.slot i).shownAs x) = (t.slot i).shownAs y) ∧
      ∀ word, word < 32 → ws.foldl (fun v w => w.showWord word v) (readyWord s.notice.ready word) = readyWord t.notice.ready word) : s.Follows t where
  ctl := ctl
  due := fun i => (slots i).due
  decided := fun h i => (slots i).decided (h i)
  shown := fun h => by
    have may : t.mayWrite = s.mayWrite := by simp [State.mayWrite, ctl]
    refine ⟨fun m i d => ?_, fun m word lt => ?_, fun i => (slots i).freed (h.free_reason i)⟩
    · obtain ⟨ws, posted, halves, -⟩ := writes (may ▸ m)
      obtain ⟨x, before⟩ := h.halves (may ▸ m) i d
      obtain ⟨y, after⟩ := halves i x
      exact ⟨y, by rw [posted, shownHalf_append, before]; exact after⟩
    · obtain ⟨ws, posted, -, words⟩ := writes (may ▸ m)
      rw [posted, shownWord_append (h.ready (may ▸ m) word lt), words word lt]

/-- A change of blocks of which the laws do not speak. -/
theorem State.Follows.of_same {s t : State} (ctl : t.ctl = s.ctl := by rfl) (slots : t.slots = s.slots := by rfl)
    (ready : t.notice.ready = s.notice.ready := by rfl) (posted : t.port.posted = s.port.posted := by rfl) : s.Follows t := by
  have slot (i : SlotNo) : t.slot i = s.slot i := by rw [State.slot, State.slot, slots]
  exact .of_slots ctl (fun i => slot i ▸ .refl _) fun _ =>
    ⟨[], by simp [posted], fun i x => ⟨x, by rw [slot]; rfl⟩, fun word _ => by rw [ready]; rfl⟩

/-- A change of one context, with writes of its device half alone. -/
theorem State.Follows.of_slot {s t : State} (i : SlotNo) (ws : List HostWrite) (self : (s.slot i).Follows (t.slot i))
    (others : ∀ j, j ≠ i → t.slot j = s.slot j)
    (writes : s.mayWrite = true → t.port.posted = s.port.posted ++ ws.map (Posted.mk s.ctl.area)) (aside : ∀ w ∈ ws, w.aside i = true)
    (shows : s.mayWrite = true → ∀ x, ∃ y, showAll i ws ((s.slot i).shownAs x) = (t.slot i).shownAs y) (ctl : t.ctl = s.ctl := by rfl)
    (ready : t.notice.ready = s.notice.ready := by rfl) : s.Follows t := by
  refine .of_slots ctl (fun j => ?_) fun m => ⟨ws, writes m, fun j x => ?_, fun word _ => ?_⟩
  · by_cases e : j = i
    · exact e ▸ self
    · rw [others j e]; exact .refl _
  · by_cases e : j = i
    · subst e; exact shows m x
    · exact ⟨x, by rw [others j e]; exact showAll_of_same (fun w hw => (HostWrite.aside.show (aside w hw) e)) _⟩
  · rw [ready]
    exact showWords_of_same (fun w hw => HostWrite.aside.showWord (aside w hw) word) _

variable (s : State)

/-- A context is replaced by one of the same device half. -/
theorem State.setSlot_follows {i : SlotNo} {c : Slot} (h : (s.slot i).Follows c) (half : ∀ x, c.shownAs x = (s.slot i).shownAs x := by intro _; rfl) :
    s.Follows (s.setSlot i c) :=
  .of_slot i [] (by simpa using h) (fun j e => by simp [e]) (fun _ => by simp) (by simp) fun _ x => ⟨x, by rw [s.slot_setSlot_self, half]; rfl⟩

theorem State.editSlot_follows {i : SlotNo} {f : Slot → Slot} (h : (s.slot i).Follows (f (s.slot i)))
    (half : ∀ x, (f (s.slot i)).shownAs x = (s.slot i).shownAs x := by intro _; rfl) : s.Follows (s.editSlot i f) :=
  s.setSlot_follows h half

/-- A context is replaced, and the writes that go with it bring its device half after. -/
theorem State.setSlot_post_follows {i : SlotNo} {c : Slot} {ws : List HostWrite} (h : (s.slot i).Follows c) (aside : ∀ w ∈ ws, w.aside i = true)
    (shows : ∀ x, ∃ y, showAll i ws ((s.slot i).shownAs x) = c.shownAs y) : s.Follows ((s.setSlot i c).post ws) :=
  .of_slot i ws (by simpa using h) (fun j e => by simp [e])
    (fun m => by rw [State.post_of_mayWrite _ ws (by exact m)]; rfl) aside (fun _ x => by simpa using shows x) (by simp) (by simp)

theorem State.post_follows {ws : List HostWrite} (i : SlotNo) (aside : ∀ w ∈ ws, w.aside i = true)
    (shows : ∀ x, ∃ y, showAll i ws ((s.slot i).shownAs x) = (s.slot i).shownAs y) : s.Follows (s.post ws) := by
  have := s.setSlot_post_follows (.refl (s.slot i)) aside shows
  rwa [s.setSlot_slot] at this

/-- Writes of no slot's device half and of no word of the Ready Map. -/
theorem State.post_apart_follows {ws : List HostWrite} (apart : ∀ w ∈ ws, w.apart = true) : s.Follows (s.post ws) :=
  s.post_follows 0 (fun w hw => HostWrite.apart.aside (apart w hw) 0) fun x => ⟨x, showAll_of_same (fun w hw => HostWrite.apart.show (apart w hw) 0) _⟩

/-- A statistics snapshot: the host's statistics are those last written (R44, R45). -/
theorem State.post_stats_follows (i : SlotNo) (x : SlotStats) : s.Follows (s.post [.slotStats i x]) :=
  s.post_follows i (by simp [HostWrite.aside]) fun _ => ⟨x, by simp [showAll, HostWrite.show, Slot.shownAs]⟩

end Sys2Proof.Machine

namespace Sys2Proof.Machine

set_option Elab.async false

variable (s : State)

/-! ### What every operation carries on: the notices (chapter 9) -/

theorem State.joinLevel_follows (l : Nat) : s.Follows (s.joinLevel l) := .ite (fun _ => .refl s) fun _ => .of_same

theorem State.testDue_follows : s.Follows s.testDue := by
  unfold State.testDue
  split
  · exact .refl s
  · exact .ite (fun _ => (s.post_apart_follows (ws := [.notice _ _]) (by simp [HostWrite.apart])).trans .of_same) fun _ => .refl s

theorem State.issued_follows_after (t : State) : t.Follows (s.issued t) := .of_same

/-- The end of an event carries on what its last state has. -/
theorem State.endEvent_follows_after (t : State) : t.Follows (s.endEvent t) :=
  .trans (t := s.notify t) (.ite (fun _ => .refl t) fun _ => t.testDue_follows) (s.issued_follows_after _)

theorem State.endEvent_follows {t : State} (h : s.Follows t) : s.Follows (s.endEvent t) := h.trans (s.endEvent_follows_after t)

theorem State.raiseLevel_follows (l : Nat) : s.Follows (s.raiseLevel l) :=
  .ite (fun _ => s.joinLevel_follows l) fun _ => (s.joinLevel_follows l).trans (State.testDue_follows _)

/-- A flag of the Ready Map stands in one word (R164). -/
theorem readyWord_set_of_ne (ready : Vector Bool 1024) (i : SlotNo) (flag : Bool) {word : Nat} (h : word ≠ i.val / 32) :
    readyWord (ready.set i flag) word = readyWord ready word := by
  have same : ((ready.set i flag).toList.drop (32 * word)).take 32 = (ready.toList.drop (32 * word)).take 32 := by
    refine List.ext_getElem? fun n => ?_
    simp only [List.getElem?_take, List.getElem?_drop, Vector.toList_set, List.getElem?_set]
    split
    · rw [if_neg (by omega)]
    · rfl
  simp only [readyWord, same]

theorem State.setReady_follows (i : SlotNo) (b : Bool) : s.Follows (s.setReady i b) := by
  unfold State.setReady
  refine .ite (fun _ => .refl s) fun _ => .of_slots (by simp) (fun j => ?_) fun m => ?_
  · rw [State.slot_post]; exact .refl _
  · refine ⟨[.readyWord (i.val / 32) (readyWord (s.notice.ready.set i b) (i.val / 32))], ?_, fun j x => ⟨x, ?_⟩, fun word _ => ?_⟩
    · rw [State.post_of_mayWrite _ _ (by exact m)]; rfl
    · rw [State.slot_post]; rfl
    · simp only [State.post_notice, List.foldl_cons, List.foldl_nil, HostWrite.showWord]
      split
      · rename_i e; rw [e]
      · rename_i e; exact (readyWord_set_of_ne _ i b fun k => e k.symm).symm

theorem State.writeMarks_follows (i : SlotNo) (m : Marks) : s.Follows (s.writeMarks i m) :=
  (s.setSlot_post_follows .of_same (by simp [HostWrite.aside]) fun x => ⟨x, by simp [showAll, HostWrite.show, Slot.shownAs, Slot.deviceHalf]⟩).trans
    (State.setReady_follows _ _ _)

theorem State.refresh_follows (i : SlotNo) : s.Follows (s.refresh i) :=
  .ite (fun _ => .refl s) fun _ => (s.writeMarks_follows i _).trans (.foldl (fun s l => s.joinLevel_follows l) _ _)

theorem State.refreshAll_follows : s.Follows s.refreshAll := .foldl (fun s i => s.refresh_follows i) _ s

theorem State.setError_follows : s.Follows s.setError := .ite (fun _ => .refl s) fun _ => .trans .of_same (State.joinLevel_follows _ _)

theorem State.setFill_follows (f : FillState) (n : Nat) : s.Follows (s.setFill f n) :=
  .ite (fun _ => .trans .of_same (State.raiseLevel_follows _ _)) fun _ => .of_same

/-! ### What every operation carries on: the slots (chapter 2) -/

theorem State.post_nil : s.post [] = s := by
  unfold State.post
  split
  · simp [State.postAlways]
  · rfl

/-- The Consumed Offset is written (R46). -/
theorem State.writeConsumed_writes (i : SlotNo) (m : s.mayWrite = true) : s.Writes (s.writeConsumed i) [.slotConsumed i (s.slot i).consumed] := by
  unfold State.writeConsumed
  rw [if_pos m]
  exact State.post_writes _ _ m

/-- A change of state writes the Consumed Offset and then the State (R46). -/
theorem State.setSlotState_writes (i : SlotNo) (st : SlotState) (m : s.mayWrite = true) :
    s.Writes (s.setSlotState i st) [.slotConsumed i (s.slot i).consumed, .slotState i st] := by
  have u := (s.editSlot_slotsAndPort i fun c => { c with state := st })
  have consumed := State.writeConsumed_writes (s.editSlot i fun c => { c with state := st }) i m
  obtain ⟨rest, -, -⟩ := State.writeConsumed_spec (s.editSlot i fun c => { c with state := st }) i
  rw [State.slot_editSlot_self] at consumed
  have ctl := congrArg State.ctl rest
  exact (State.Writes.trans (ws := []) (.refl s) consumed rfl).trans (State.post_writes _ _ (rest.mayWrite.trans m)) (by rw [ctl]; rfl)

/-- Writes and a change of state, after a context has been changed as those writes show: what is carried on, where the change as a whole carries it on. -/
theorem State.edit_setState_follows {i : SlotNo} {u : State} {st : SlotState} {ws : List HostWrite} (rest : s.SlotsAndPort u)
    (others : ∀ j, j ≠ i → u.slot j = s.slot j) (writes : s.mayWrite = true → s.Writes u ws) (aside : ∀ w ∈ ws, w.aside i = true)
    (shows : s.mayWrite = true → ∀ x, ∃ y, showAll i ws ((s.slot i).shownAs x) =
      { (u.slot i).shownAs y with consumed := (s.slot i).shown, state := (s.slot i).state })
    (self : ∀ n, (s.slot i).Follows { u.slot i with state := st, shown := n }) : s.Follows (u.setSlotState i st) := by
  obtain ⟨rest', self', others'⟩ := u.setSlotState_spec i st
  have ctl : u.ctl = s.ctl := by rw [rest]
  refine .of_slot i (ws ++ [.slotConsumed i (u.slot i).consumed, .slotState i st]) (by rw [self']; exact self _) (fun j e => (others' j e).trans (others j e))
    (fun m => ?_) (List.forall_mem_append.2 ⟨aside, by simp [HostWrite.aside]⟩) (fun m x => ?_) (by rw [rest', rest]) (by rw [rest', rest])
  · exact ((writes m).trans (u.setSlotState_writes i st (rest.mayWrite.trans m)) (by rw [ctl])).1
  · obtain ⟨y, shown⟩ := shows m x
    refine ⟨y, ?_⟩
    have split : showAll i (ws ++ [.slotConsumed i (u.slot i).consumed, .slotState i st]) ((s.slot i).shownAs x) =
        showAll i [.slotConsumed i (u.slot i).consumed, .slotState i st] (showAll i ws ((s.slot i).shownAs x)) := by simp [showAll]
    rw [split, shown, self', if_pos (rest.mayWrite.trans m)]
    simp [showAll, HostWrite.show, Slot.shownAs, Slot.deviceHalf]

/-- A change of state alone. -/
theorem State.setSlotState_follows {i : SlotNo} {st : SlotState} (h : ∀ n, (s.slot i).Follows { s.slot i with state := st, shown := n }) :
    s.Follows (s.setSlotState i st) :=
  s.edit_setState_follows (ws := []) rfl (fun _ _ => rfl) (fun _ => .refl s) (by simp) (fun _ x => ⟨x, rfl⟩) h

/-- A context is changed in what R26 reads, writes follow, and the state is decided again. -/
theorem State.edit_post_decide_follows {i : SlotNo} {f : Slot → Slot} {ws : List HostWrite} (aside : ∀ w ∈ ws, w.aside i = true)
    (shows : ∀ x, ∃ y, showAll i ws ((s.slot i).shownAs x) = (f (s.slot i)).shownAs y) (state : (f (s.slot i)).state = (s.slot i).state := by rfl)
    (reason : (f (s.slot i)).reason = (s.slot i).reason := by rfl) (cls : (f (s.slot i)).cls = (s.slot i).cls := by rfl)
    (idle : (f (s.slot i)).idle = (s.slot i).idle := by rfl) (shown : (f (s.slot i)).shown = (s.slot i).shown := by rfl) :
    s.Follows (((s.editSlot i f).post ws).decideState i) := by
  generalize hu : (s.editSlot i f).post ws = u
  have self : u.slot i = f (s.slot i) := by rw [← hu]; simp
  have rest : s.SlotsAndPort u := hu ▸ (s.editSlot_slotsAndPort i f).trans (State.post_slotsAndPort _ ws)
  have others (j : SlotNo) (e : j ≠ i) : u.slot j = s.slot j := by rw [← hu]; simp [e]
  have writes (m : s.mayWrite = true) : s.Writes u ws := hu ▸ State.post_writes (s.editSlot i f) ws m
  unfold State.decideState
  dsimp only
  split
  · rename_i h
    refine s.edit_setState_follows rest others writes aside (fun _ x => ?_) fun n => .of_decided ?_ ?_ ?_ ?_
    · obtain ⟨y, after⟩ := shows x
      exact ⟨y, by rw [after, self]; simp only [Slot.shownAs, Slot.deviceHalf, state, shown]⟩
    · dsimp only
      rw [if_pos (by rw [← state, ← self]; exact h.1)]
      exact (Slot.decided_congr).symm
    · rw [self]; exact reason
    · rw [self]; exact cls
    · rw [self]; exact idle
  · rename_i h
    rw [not_and, not_not, self] at h
    refine .of_slot i ws (self ▸ .of_decided ?_ reason cls idle) others (fun m => (writes m).1) aside (fun _ x => self ▸ shows x) (by rw [rest]) (by rw [rest])
    split
    · rename_i o; exact (h (by rw [state]; exact o)).symm
    · exact state

theorem State.edit_decide_follows {i : SlotNo} {f : Slot → Slot} (half : ∀ x, ∃ y, (s.slot i).shownAs x = (f (s.slot i)).shownAs y)
    (state : (f (s.slot i)).state = (s.slot i).state := by rfl)
    (reason : (f (s.slot i)).reason = (s.slot i).reason := by rfl) (cls : (f (s.slot i)).cls = (s.slot i).cls := by rfl)
    (idle : (f (s.slot i)).idle = (s.slot i).idle := by rfl) (shown : (f (s.slot i)).shown = (s.slot i).shown := by rfl) :
    s.Follows ((s.editSlot i f).decideState i) := by
  have := s.edit_post_decide_follows (ws := []) (by simp) half state reason cls idle shown
  rwa [State.post_nil] at this

theorem State.tryClose_follows (i : SlotNo) : s.Follows (s.tryClose i) := by
  refine .ite (fun h => (s.post_stats_follows i _).trans (State.setSlotState_follows _ fun n => ?_)) fun _ => .refl s
  exact .of_closed (by simp [SlotState.isLive]) rfl (by simp)

theorem State.trySettle_follows (i : SlotNo) : s.Follows (s.trySettle i) := by
  refine .ite (fun h => (s.setSlotState_follows fun n => ?_).trans (State.tryClose_follows _ i)) fun _ => .refl s
  exact .of_closed (fun _ => SlotState.isLive_of_isOpen h.1) rfl (by simp)

theorem State.tryAborted_follows (i : SlotNo) : s.Follows (s.tryAborted i) := by
  refine .ite (fun h => (s.post_stats_follows i _).trans (State.setSlotState_follows _ fun n => ?_)) fun _ => .refl s
  exact .of_closed (by simp [SlotState.isLive]) rfl (by simp)

theorem State.dropInflight_follows (i : SlotNo) : s.Follows (s.dropInflight i) :=
  (s.editSlot_follows .of_same).trans (State.tryAborted_follows _ i)

theorem State.joinRun_follows (i : SlotNo) : s.Follows (s.joinRun i) := .ite (fun _ => .of_same) fun _ => .refl s

end Sys2Proof.Machine

namespace Sys2Proof.Machine

set_option Elab.async false

variable (s : State)

/-! ### What every operation carries on: aborts, waiters and answers -/

theorem mapVector_congr {α β : Type} {n : Nat} {f g : α → β} {v w : Vector α n} (h : ∀ k, f (v.get k) = g (w.get k)) : mapVector f v = mapVector g w := by
  refine Vector.ext fun k lt => ?_
  have := h ⟨k, lt⟩
  rw [← get_mapVector f, ← get_mapVector g] at this
  exact this

/-- The writes of an abort: the Abort Reason, the Consumed Offset and the State, and where the in-flight count is 0 those of the passage to ABORTED (R30, R32, R45,
R46). -/
def Slot.abortWrites (c : Slot) (i : SlotNo) (reason : AbortReason) : List HostWrite :=
  [.slotReason i (some reason), .slotConsumed i c.consumed, .slotState i .aborting] ++
    if c.inflight = 0 then [.slotStats i c.stats, .slotConsumed i c.consumed, .slotState i .aborted] else []

theorem State.tryAborted_writes (i : SlotNo) (m : s.mayWrite = true) (aborting : (s.slot i).state = .aborting) :
    s.Writes (s.tryAborted i)
      (if (s.slot i).inflight = 0 then [.slotStats i (s.slot i).stats, .slotConsumed i (s.slot i).consumed, .slotState i .aborted] else []) := by
  unfold State.tryAborted
  dsimp only
  by_cases h : (s.slot i).inflight = 0
  · rw [if_pos ⟨aborting, h⟩, if_pos h]
    have := (s.post [.slotStats i (s.slot i).stats]).setSlotState_writes i .aborted ((s.post_slotsAndPort _).mayWrite.trans m)
    rw [s.slot_post] at this
    exact (s.post_writes _ m).trans this (by simp)
  · rw [if_neg fun k => h k.2, if_neg h]
    exact .refl s

/-- Where the port takes no writes, a change of state issues none. -/
theorem State.setSlotState_silent (i : SlotNo) (st : SlotState) (m : s.mayWrite = false) : (s.setSlotState i st).port = s.port := by
  have m' : (s.editSlot i fun c => { c with state := st }).mayWrite = false := m
  unfold State.setSlotState State.writeConsumed
  rw [if_neg (by simp [m']), State.post_of_silent _ _ m']
  rfl

theorem State.tryAborted_silent (i : SlotNo) (m : s.mayWrite = false) : (s.tryAborted i).port = s.port := by
  unfold State.tryAborted
  dsimp only
  split
  · rw [s.post_of_silent _ m, s.setSlotState_silent i _ m]
  · rfl

/-- What an abort writes, and what it leaves as the Consumed Offset last written (R30, R32, R46). -/
theorem State.enterAborting_shows (i : SlotNo) (reason : AbortReason) (live : (s.slot i).state.isLive = true) :
    (s.mayWrite = true → s.Writes (s.enterAborting i reason) ((s.slot i).abortWrites i reason)) ∧
    (s.mayWrite = false → (s.enterAborting i reason).port = s.port) ∧
    (s.enterAborting i reason).slot i = { (s.slot i).aborted reason with
      state := if (s.slot i).inflight = 0 then .aborted else .aborting, shown := if s.mayWrite then (s.slot i).consumed else (s.slot i).shown } ∧
    (s.enterAborting i reason).notice = s.notice ∧ (s.enterAborting i reason).sweep = s.sweep ∧ (s.enterAborting i reason).requests = s.requests := by
  unfold State.enterAborting
  rw [if_pos live]
  dsimp only
  generalize ha : ({ s.abandonLanes i with removals := (s.abandonLanes i).removals ++ (s.slot i).removals i } : State).setSlot i ((s.slot i).aborted reason) = a
  have aself : a.slot i = (s.slot i).aborted reason := by rw [← ha]; simp
  obtain ⟨issued, -⟩ := State.issueWithdraws_spec (s.slot i).provList a
  generalize hb : (s.slot i).provList.foldl State.issueWithdraw a = b at issued ⊢
  have bself : b.slot i = (s.slot i).aborted reason := by rw [issued]; exact aself
  have bport : b.port = s.port := by rw [issued, ← ha]; rfl
  have bctl : b.ctl = s.ctl := by rw [issued, ← ha]; rfl
  have bmay : b.mayWrite = s.mayWrite := by simp only [State.mayWrite, bctl]
  have bnotice : b.notice = s.notice := by rw [issued, ← ha]; rfl
  have bsweep : b.sweep = s.sweep := by rw [issued, ← ha]; rfl
  have brequests : b.requests = s.requests := by rw [issued, ← ha]; rfl
  have cself : (b.post [.slotReason i (some reason)]).slot i = (s.slot i).aborted reason := by rw [State.slot_post, bself]
  have crest := b.post_slotsAndPort [.slotReason i (some reason)]
  have cwrites := b.post_writes [.slotReason i (some reason)]
  have csilent := b.post_of_silent [.slotReason i (some reason)]
  generalize b.post [.slotReason i (some reason)] = c at cself crest cwrites csilent ⊢
  have cmay : c.mayWrite = s.mayWrite := crest.mayWrite.trans bmay
  obtain ⟨erest, eself, -⟩ := c.endAborting_spec i (by rw [cself]; rfl)
  obtain ⟨drest, dself, -⟩ := c.writeConsumed_spec i
  have dsilent (m : s.mayWrite = false) : c.writeConsumed i = c := by unfold State.writeConsumed; rw [if_neg (by simp [cmay, m])]
  have dwrites (m : s.mayWrite = true) := c.writeConsumed_writes i (cmay.trans m)
  dsimp only at erest eself
  generalize hd : c.writeConsumed i = d at *
  have all := crest.trans erest
  have fmay : (d.post [.slotState i .aborting]).mayWrite = s.mayWrite := ((drest.trans (d.post_slotsAndPort _)).mayWrite).trans cmay
  have fself : (d.post [.slotState i .aborting]).slot i = { (s.slot i).aborted reason with shown := (d.slot i).shown } := by
    rw [State.slot_post, dself, cself]
  have twrites (m : s.mayWrite = true) := (d.post [.slotState i .aborting]).tryAborted_writes i (fmay.trans m) (by rw [fself]; rfl)
  refine ⟨fun m => ?_, fun m => ?_, ?_, ?_, ?_, ?_⟩
  · have w1 : s.Writes c [.slotReason i (some reason)] := by
      have := cwrites (bmay.trans m)
      exact ⟨by rw [this.1, bport, bctl], by rw [this.2, bport]⟩
    have cctl : c.ctl = s.ctl := by rw [crest]; exact bctl
    have dctl : d.ctl = c.ctl := by rw [drest]
    have w3 := (w1.trans (dwrites m) (by rw [cctl])).trans (d.post_writes [.slotState i .aborting] (drest.mayWrite.trans (cmay.trans m))) (by rw [dctl, cctl])
    have w4 := w3.trans (twrites m) (by rw [State.post_ctl, dctl, cctl])
    rw [fself, cself] at w4
    exact w4
  · rw [State.tryAborted_silent _ i (fmay.trans m), State.post_of_silent _ _ (by rw [drest.mayWrite, cmay, m]), dsilent m, csilent (bmay.trans m), bport]
  · rw [eself, cself, cmay]; rfl
  · rw [all]; exact bnotice
  · rw [all]; exact bsweep
  · rw [all]; exact brequests

/-- The device half of an aborted slot is what the writes of the abort make of the one before (R30, R32). -/
theorem State.enterAborting_follows (i : SlotNo) (r : AbortReason) : s.Follows (s.enterAborting i r) := by
  by_cases live : (s.slot i).state.isLive = true
  · have k := s.enterAborting_aborts i r live
    obtain ⟨writes, -, self, notice, -, -⟩ := s.enterAborting_shows i r live
    generalize s.enterAborting i r = t at *
    obtain ⟨-, ctl, -⟩ := k.same
    have state : (t.slot i).state = .aborting ∨ (t.slot i).state = .aborted := by
      rw [k.state_eq]
      split <;> simp
    refine .of_slot i ((s.slot i).abortWrites i r) (.of_closed (fun _ => live) ?_ ?_ (by rw [self]; rfl) (by rw [self]; rfl)) k.others
      (fun m => (writes m).1) ?_ (fun m x => ⟨if (s.slot i).inflight = 0 then (s.slot i).stats else x, ?_⟩) ctl (by rw [notice])
    · rcases state with h | h <;> rw [h] <;> rfl
    · rcases state with h | h <;> rw [h] <;> simp
    · unfold Slot.abortWrites
      split <;> simp [HostWrite.aside]
    · have cells : mapVector (fun r => (r.done, r.status)) ((s.slot i).aborted r).cells = mapVector (fun r => (r.done, r.status)) (s.slot i).cells :=
        mapVector_congr fun n => by simp only [Slot.aborted, get_mapVector]
      rw [self, if_pos m]
      unfold Slot.abortWrites
      simp only [Slot.shownAs, Slot.deviceHalf, cells]
      split <;> simp [showAll, HostWrite.show, Slot.aborted]
  · unfold State.enterAborting
    rw [if_neg live]
    exact .refl s

theorem State.abortStream_follows (i : SlotNo) (r : AbortReason) : s.Follows (s.abortStream i r) :=
  s.endEvent_follows ((s.enterAborting_follows i r).trans (State.refresh_follows _ i))

theorem State.begun_follows : s.Follows s.begun := .of_same

theorem State.settled_follows : s.Follows s.settled :=
  (State.Follows.foldl (fun s i => s.abortStream_follows i .idle) _ s).trans (State.begun_follows _)

theorem State.editRecord_follows (r : Nat) (f : PoolRecord → PoolRecord) : s.Follows (s.editRecord r f) := by
  obtain ⟨pool, e⟩ := s.editRecord_eq r f
  rw [e]
  exact .of_same

theorem State.issueWithdraw_follows (r : Nat) : s.Follows (s.issueWithdraw r) := (s.editRecord_follows r _).trans .of_same

theorem State.dropWaiter_follows (r : Nat) (w : Waiter) : s.Follows (s.dropWaiter r w) := (s.editRecord_follows r _).trans .of_same

theorem State.resolveChunk_follows (i : SlotNo) (o : Nat) (v : Verdict) (n : Nat) (c : Cause) : s.Follows (s.resolveChunk i o v n c) :=
  s.edit_decide_follows fun x => ⟨x, rfl⟩

theorem State.resolveWaiter_follows (r : Nat) (w : Waiter) (v : Verdict) (n : Nat) (c : Cause) : s.Follows (s.resolveWaiter r w v n c) :=
  ((s.dropWaiter_follows r w).trans (.ite (fun _ => State.resolveChunk_follows _ _ _ _ _ _) fun _ => .refl _)).trans
    (State.dropInflight_follows _ _)

theorem State.discardWaiter_follows (r : Nat) (w : Waiter) : s.Follows (s.discardWaiter r w) :=
  (s.dropWaiter_follows r w).trans (State.dropInflight_follows _ _)

theorem mapVector_set {α β : Type} {n : Nat} (f : α → β) (v : Vector α n) (k : Fin n) (x : α) :
    mapVector f (v.set k x) = (mapVector f v).set k (f x) := by
  refine Vector.ext fun j lt => ?_
  have left : (mapVector f (v.set k x))[j] = f ((v.set k x)[j]) := get_mapVector f (v.set k x) ⟨j, lt⟩
  have right : (mapVector f v)[j] = f v[j] := get_mapVector f v ⟨j, lt⟩
  rw [left, Vector.getElem_set, Vector.getElem_set, right]
  split <;> rfl

/-- A cell is answered, and the host sees its new done tag and status (R47, R50). -/
theorem State.answerCell_follows (i : SlotNo) (n : CellNo) (tag : Tag) (st : CellStatus) : s.Follows (s.answerCell i n tag st) := by
  refine s.setSlot_post_follows .of_same (by simp [HostWrite.aside]) fun x => ⟨x, ?_⟩
  simp [showAll, HostWrite.show, Slot.shownAs, Slot.deviceHalf, mapVector_set, get_set_self]

theorem State.answer_follows (c : ReqNo) (st : Status) (r : Option ReqResult) : s.Follows (s.answer c st r) := by
  unfold State.answer
  refine .ite (fun _ => ?_) fun _ => .refl s
  split
  · refine .trans (.trans .of_same (State.post_apart_follows _ ?_)) (State.joinLevel_follows _ _)
    cases r <;> simp [HostWrite.apart]
  · exact .refl s

theorem State.endTurn_follows (n : LaneNo) : s.Follows (s.endTurn n) := by
  unfold State.endTurn
  split
  · exact .refl s
  · exact .trans .of_same (State.joinRun_follows _ _)

end Sys2Proof.Machine

namespace Sys2Proof.Machine

set_option Elab.async false

variable (s : State)

/-! ### What every operation carries on: the Index Unit and the Provisional Pool (chapters 4, 5 and 7) -/

/-- An allocation changes the Index Unit alone (R77, R78). -/
theorem State.allocate_spec : s.allocate.2 = { s with index := s.allocate.2.index } := by
  unfold State.allocate
  dsimp only
  split
  · rfl
  · split
    · dsimp only
      split <;> rfl
    · rfl

theorem State.allocate_follows : s.Follows s.allocate.2 := by
  rw [s.allocate_spec]
  exact .of_same

theorem State.waiterExhausted_follows (r : Nat) (w : Waiter) : s.Follows (s.waiterExhausted r w) :=
  (s.enterAborting_follows _ _).trans (State.discardWaiter_follows _ _ _)

theorem State.lossGive_follows (r : Nat) (w : Waiter) (a : Alloc) : s.Follows (s.lossGive r w a) := by
  cases a with
  | number n => exact .ite (fun _ => s.resolveWaiter_follows _ _ _ _ _) fun _ => s.discardWaiter_follows _ _
  | exhausted => exact s.waiterExhausted_follows r w
  | wait => exact .refl s

theorem State.lossWaiters_follows (r : Nat) (ws : List Waiter) : s.Follows (s.lossWaiters r ws).1 := by
  induction ws generalizing s with
  | nil => exact .refl s
  | cons w ws ih =>
    unfold State.lossWaiters
    have h := s.allocate_follows
    split
    · rename_i e; rw [e] at h; exact h
    · rename_i e; rw [e] at h; exact (h.trans (State.lossGive_follows _ _ _ _)).trans (ih _)

theorem State.discardAborting_follows (r : Nat) : s.Follows (s.discardAborting r) :=
  .foldl (fun s w => .ite (fun _ => s.discardWaiter_follows r w) fun _ => .refl s) _ s

theorem State.loseRecord_follows (r : Nat) (p : PoolRecord) : s.Follows (s.loseRecord r p) := by
  unfold State.loseRecord
  dsimp only
  split
  · exact .trans (t := s.editSlot p.owner fun c => c.dropProv r) (s.editSlot_follows .of_same) .of_same
  · exact .of_same

theorem State.endLoss_follows (r : Nat) (b : Bool) : s.Follows (s.endLoss r b) := .ite (fun _ => .of_same) fun _ => .refl s

theorem State.destroyWay_follows (b : Nat) (w : WayNo) : s.Follows (s.destroyWay b w) := by
  unfold State.destroyWay
  have h : s.Follows ((s.emptyWay b w).editStats fun t => { t with uncorrected := sat32 (t.uncorrected + 1) }).setError :=
    .trans .of_same (State.setError_follows _)
  exact .ite (fun _ => h.trans .of_same) fun _ => h

theorem State.checkWays_follows (b : Nat) (ws : List (WayNo × Ecc)) : s.Follows (s.checkWays b ws).1 := by
  induction ws generalizing s with
  | nil => exact .refl s
  | cons a ws ih =>
    obtain ⟨w, e⟩ := a
    unfold State.checkWays
    cases e with
    | clean => exact ih s
    | correctable => exact .trans .of_same (ih _)
    | uncorrectable =>
      refine (s.destroyWay_follows b w).trans ?_
      dsimp only
      split
      · rename_i r p _ _
        refine ((State.loseRecord_follows _ r p).trans (State.discardAborting_follows _ r)).trans ?_
        have l := State.lossWaiters_follows (((s.destroyWay b w).loseRecord r p).discardAborting r) r
          ((((s.destroyWay b w).loseRecord r p).discardAborting r).waitersOf r)
        split
        · rename_i e; rw [e] at l; exact (l.trans (State.endLoss_follows _ _ _)).trans (ih _)
        · rename_i e; rw [e] at l; exact l
      · exact ih _

/-! ### LOOKUP_INSERT (R72 to R75, R94, R95, R99) -/

theorem State.takeResolved_follows (l : Lookup) (v : Verdict) (n : Nat) (c : Cause) : s.Follows (s.takeResolved l v n c) :=
  .trans (.ite (fun _ => s.resolveChunk_follows _ _ _ _ _) fun _ => .refl s) (State.dropInflight_follows _ _)


theorem State.takeOutcome_follows (l : Lookup) (o : LookupOutcome) : s.Follows (s.takeOutcome l o) := by
  cases o with
  | dup n => exact s.takeResolved_follows _ _ _ _
  | conflict n => exact s.takeResolved_follows _ _ _ _
  | unindexed n c => exact s.takeResolved_follows _ _ _ _
  | new n r =>
    refine State.Follows.trans (.ite (fun _ => ?_) fun _ => ?_) (State.takeResolved_follows _ _ _ _ _)
    · exact s.editSlot_follows .of_same
    · exact (s.editSlot_follows .of_same).trans (State.issueWithdraw_follows _ r)
  | held r =>
    exact .ite (fun _ => (s.editRecord_follows r _).trans (State.edit_decide_follows _ fun x => ⟨x, rfl⟩)) fun _ => s.dropInflight_follows _
  | numbers => exact (s.enterAborting_follows _ _).trans (State.dropInflight_follows _ _)

theorem State.endLookup_follows (l : Lookup) (o : LookupOutcome) : s.Follows (s.endLookup l o) := by
  unfold State.endLookup
  refine State.Follows.trans (t := s.editStats o.count) .of_same ?_
  dsimp only
  split
  · exact (State.setError_follows _).trans (State.takeOutcome_follows _ _ _)
  all_goals exact State.takeOutcome_follows _ _ _

theorem State.grant_follows {l : Lookup} {b : Nat} {w : WayNo} {r : Nat} {t : State} (e : s.grant l b w = some (r, t)) : s.Follows t := by
  unfold State.grant at e
  dsimp only at e
  split at e <;> cases e
  exact .trans .of_same (State.editSlot_follows _ .of_same)

theorem State.lookupNumber_follows (l : Lookup) (b : Nat) (u : NumberUse) (a : Alloc) : s.Follows (s.lookupNumber l b u a) := by
  unfold State.lookupNumber
  split
  · exact .refl s
  · exact s.endLookup_follows _ _
  · split
    · exact s.endLookup_follows _ _
    · exact s.endLookup_follows _ _
    · exact s.endLookup_follows _ _
    · split
      · exact s.endLookup_follows _ _
      · split
        · exact s.endLookup_follows _ _
        · rename_i e
          exact (s.grant_follows e).trans (.trans .of_same (State.endLookup_follows _ _ _))

theorem State.runLookup_follows (l : Lookup) (b : Nat) : s.Follows (s.runLookup l b).1 := by
  unfold State.runLookup
  split
  · exact .trans .of_same (State.endLookup_follows _ _ _)
  · have h := s.allocate_follows
    split
    · rename_i e; rw [e] at h; exact h
    · rename_i e; rw [e] at h; exact h.trans (State.lookupNumber_follows _ _ _ _ _)

/-! ### FIRM, WITHDRAW, SEED, RETIRE and SCAN -/

theorem State.endFirm_follows (i : SlotNo) : s.Follows (s.endFirm i) := (s.dropInflight_follows i).trans (State.tryClose_follows _ i)

theorem State.resolveAll_follows (r n : Nat) (v : Verdict) (c : Cause) (ws : List Waiter) :
    s.Follows (ws.foldl (fun s w => s.resolveWaiter r w v n c) s) :=
  .foldl (fun s w => s.resolveWaiter_follows r w v n c) ws s

theorem State.runFirm_follows (r : Nat) : s.Follows (s.runFirm r) := by
  unfold State.runFirm
  split
  · exact .refl s
  · split
    · exact .trans .of_same (State.endFirm_follows _ _)
    · exact .refl s
    · rename_i p _ _ _ e _ _
      dsimp only
      have h : s.Follows ((s.writeEntry p.bucket p.way { e with state := .firm }).editStats fun t => { t with firms := sat48 (t.firms + 1) }) :=
        .of_same
      generalize (s.writeEntry p.bucket p.way { e with state := .firm }).editStats _ = t at h
      have k := h.trans (t.resolveAll_follows r e.number .dup .none p.waiters)
      generalize p.waiters.foldl _ t = u at k
      exact k.trans (.trans .of_same (State.endFirm_follows _ _))

/-- The record and the slot's list take a waiter over, its chunk and its slot's later ones are resolved (R108, R109). -/
theorem State.takeover_follows (r : Nat) (p : PoolRecord) (e : Entry) (w : Waiter) (n : Nat) : s.Follows (s.takeover r p e w n) := by
  unfold State.takeover
  have written : s.Follows (s.writeEntry p.bucket p.way { e with state := .provisional w.slot w.ordinal, number := n, lastHit := s.index.copy.epoch }) :=
    .of_same
  generalize s.writeEntry p.bucket p.way _ = t at written
  have passed := t.editRecord_follows r fun q => { q with owner := w.slot, ordinal := w.ordinal, disp := .live }
  dsimp only
  generalize t.editRecord r _ = u at passed ⊢
  have listed : u.Follows (u.editSlot w.slot fun c => { c with provList := u.joinProvList r w.ordinal c.provList, provCount := c.provCount + 1 }) :=
    u.editSlot_follows .of_same
  generalize u.editSlot w.slot _ = v at listed ⊢
  have resolved := v.resolveWaiter_follows r w .new n .none
  generalize v.resolveWaiter r w .new n .none = x at resolved ⊢
  have counted : x.Follows (x.editStats fun t => { t with takeovers := sat48 (t.takeovers + 1) }) := .of_same
  generalize x.editStats _ = y at counted ⊢
  exact (((((written.trans passed).trans listed).trans resolved).trans counted)).trans (y.resolveAll_follows r n .dup .none _)

theorem State.examine_follows (r : Nat) (w : Waiter) (a : Alloc) : s.Follows (s.examine r w a).2 := by
  unfold State.examine
  split
  · exact .refl s
  · exact s.waiterExhausted_follows r w
  · dsimp only
    split
    · exact s.discardWaiter_follows r w
    · split
      · split
        · exact .refl s
        · split
          · exact s.resolveWaiter_follows _ _ _ _ _
          · exact s.takeover_follows _ _ _ _ _
      · exact s.resolveWaiter_follows _ _ _ _ _

theorem State.walk_follows (r : Nat) (ws : List Waiter) : s.Follows (s.walk r ws).2 := by
  induction ws generalizing s with
  | nil => exact .refl s
  | cons w ws ih =>
    unfold State.walk
    have h := s.allocate_follows
    split
    · rename_i e; rw [e] at h; exact h
    · rename_i a t _ e
      rw [e] at h
      have k := State.examine_follows t r w a
      split
      · rename_i f; rw [f] at k; exact h.trans k
      · rename_i f; rw [f] at k; exact (h.trans k).trans (ih _)

theorem State.endUnowned_follows (r : Nat) : s.Follows (s.endUnowned r) := by
  unfold State.endUnowned
  split
  · exact .refl s
  · exact .of_same

theorem State.endWalk_follows (r : Nat) (x : WalkEnd × State) (h : s.Follows x.2) : s.Follows (State.endWalk r x).1 := by
  obtain ⟨e, t⟩ := x
  cases e with
  | owner => exact State.Follows.trans (t := t) h .of_same
  | noOwner => exact (State.Follows.trans (t := t) h (t.endUnowned_follows r)).trans .of_same
  | halted w => exact h

theorem State.runWithdraw_follows (r : Nat) : s.Follows (s.runWithdraw r).1 := by
  unfold State.runWithdraw
  split
  · exact .refl s
  · dsimp only
    split
    · exact .of_same
    split
    · exact .refl s
    · exact s.endWalk_follows r _ ((s.discardAborting_follows r).trans (State.walk_follows _ r _))

theorem State.runSeed_follows (o : SeedOp) (b : Nat) : s.Follows (s.runSeed o b) := by
  unfold State.runSeed
  refine s.refreshAll_follows.trans ?_
  generalize s.refreshAll = s
  dsimp only
  split
  · split
    · exact s.answer_follows _ _ _
    · split
      · exact .trans .of_same (State.answer_follows _ _ _ _)
      · exact s.answer_follows _ _ _
  · split
    · exact s.answer_follows _ _ _
    · exact .trans .of_same (State.answer_follows _ _ _ _)

theorem State.runRetire_follows (o : RetireOp) (b : Nat) : s.Follows (s.runRetire o b) := by
  unfold State.runRetire
  refine s.refreshAll_follows.trans ?_
  generalize s.refreshAll = s
  dsimp only
  split
  · exact s.answer_follows _ _ _
  · split
    · exact s.answer_follows _ _ _
    · split
      · exact s.answer_follows _ _ _
      · split
        · exact s.answer_follows _ _ _
        · exact .trans .of_same (State.answer_follows _ _ _ _)

theorem State.scanWay_follows (b : Nat) (w : WayNo) : s.Follows (s.scanWay b w) := by
  unfold State.scanWay
  split
  · exact .refl s
  · split <;> exact .of_same

theorem State.runScan_follows (b : Nat) : s.Follows (s.runScan b) := by
  unfold State.runScan
  have h := State.Follows.foldl (fun s w => s.scanWay_follows b w) (List.finRange 16) s
  dsimp only
  generalize List.foldl (fun s w => s.scanWay b w) s (List.finRange 16) = t at h
  exact h.trans .of_same

theorem State.runBody_follows (op : Op) : s.Follows (s.runBody op).1 := by
  unfold State.runBody
  split
  · exact s.runLookup_follows _ _
  · exact s.runFirm_follows _
  · exact s.runWithdraw_follows _
  · exact s.runSeed_follows _ _
  · exact s.runRetire_follows _ _
  · exact s.runScan_follows _

theorem State.runFrom_follows (op : Op) (ws : List (WayNo × Ecc)) : s.Follows (s.runFrom op ws).1 := by
  unfold State.runFrom
  have h := s.checkWays_follows op.bucket ws
  split
  · rename_i e; rw [e] at h; exact h.trans (State.runBody_follows _ op)
  · rename_i e; rw [e] at h; exact h

theorem State.settleOp_follows (k : OpKey) (x : RunEnd) (h : s.Follows x.1) : s.Follows (State.settleOp k x) := by
  obtain ⟨t, e⟩ := x
  cases e <;> exact State.Follows.trans (t := t) h .of_same

theorem State.carryOut_follows (op : Op) (ecc : Vector Ecc 16) : s.Follows (s.carryOut op ecc) :=
  (State.settleOp_follows s _ _ (s.runFrom_follows _ _)).trans (State.refreshAll_follows _)

theorem State.goOn_follows (op : Op) (a : Alloc) : s.Follows (s.goOn op a).1 := by
  unfold State.goOn
  split
  · exact .refl s
  · split
    · exact .refl s
    · split
      · split
        · exact s.lookupNumber_follows _ _ _ _
        all_goals exact .refl s
      · rename_i r w _
        split
        · have k := s.examine_follows r w a
          split
          · rename_i f; rw [f] at k; exact s.endWalk_follows r _ k
          · rename_i f; rw [f] at k; exact s.endWalk_follows r _ (k.trans (State.walk_follows _ r _))
        · exact s.endWalk_follows r _ (s.walk_follows r _)
      · rename_i r live w rest _
        dsimp only
        have h0 : s.Follows (if s.stillWaits r w then s.lossGive r w a else s) := .ite (fun _ => s.lossGive_follows r w a) fun _ => .refl s
        generalize (if s.stillWaits r w then s.lossGive r w a else s) = t at h0
        have k := State.lossWaiters_follows t r (t.waitersOf r)
        split
        · rename_i f; rw [f] at k; exact ((h0.trans k).trans (State.endLoss_follows _ _ _)).trans (State.runFrom_follows _ _ _)
        · rename_i f; rw [f] at k; exact h0.trans k

theorem State.allocateAll_follows (ks : List OpKey) : s.Follows (s.allocateAll ks).2 := by
  induction ks generalizing s with
  | nil => exact .refl s
  | cons k ks ih => exact s.allocate_follows.trans (ih _)

theorem State.resume_follows (k : OpKey) (a : Alloc) : s.Follows (s.resume k a) := by
  unfold State.resume
  split
  · exact .refl s
  · exact State.settleOp_follows s _ _ (s.goOn_follows _ _)

theorem State.resumeAll_follows : s.Follows s.resumeAll := by
  unfold State.resumeAll
  dsimp only
  refine State.Follows.trans ?_ (State.refreshAll_follows _)
  refine State.Follows.trans ?_ (.foldl (fun (s : State) (p : OpKey × Alloc) => s.resume_follows p.1 p.2) _ _)
  exact .trans .of_same (State.allocateAll_follows _ _)

end Sys2Proof.Machine

namespace Sys2Proof.Machine

set_option Elab.async false

variable (s : State)

/-! ### What every operation carries on: the chunker, the Intake Unit, the lanes and the Recipe Writer (chapters 1, 3 and 6) -/

theorem State.cutChunk_follows (i : SlotNo) : s.Follows (s.cutChunk i) :=
  .trans (t := { s with lookups := s.lookups ++ [lookupOf i (s.slot i).openChunk] }) .of_same (State.edit_decide_follows _ fun x => ⟨x, rfl⟩)

theorem State.markFinished_follows (i : SlotNo) : s.Follows (s.markFinished i) := .ite (fun _ => s.editSlot_follows .of_same) fun _ => .refl s

theorem State.endStream_follows (i : SlotNo) : s.Follows (s.endStream i) :=
  .trans (.ite (fun _ => s.cutChunk_follows i) fun _ => .refl s) (State.markFinished_follows _ i)

theorem State.chunkByte_follows (i : SlotNo) (b : Byte) : s.Follows (s.chunkByte i b) :=
  (s.editSlot_follows .of_same).trans (.trans (.ite (fun _ => State.cutChunk_follows _ i) fun _ => .refl _) (State.endStream_follows _ i))

theorem State.answerLeaving_follows (i : SlotNo) (gs : List Segment) : s.Follows (s.answerLeaving i gs) := by
  induction gs generalizing s with
  | nil => exact .refl s
  | cons g gs ih => exact ((s.editSlot_follows .of_same).trans (State.answerCell_follows _ i _ _ _)).trans (ih _)

theorem State.leaveSegments_follows (i : SlotNo) : s.Follows (s.leaveSegments i) :=
  (s.editSlot_follows .of_same).trans (State.answerLeaving_follows _ i _)

theorem State.takeByte_follows (n : LaneNo) (t : Turn) (cell : CellNo) (b : Byte) : s.Follows (s.takeByte n t cell b) := by
  unfold State.takeByte
  have chunked := s.chunkByte_follows t.slot b
  dsimp only
  generalize s.chunkByte t.slot b = u at chunked ⊢
  have fed : u.Follows (u.editSlot t.slot fun c => { c with feed := c.feed.map fun g => if g.cell = cell then { g with count := g.count + 1 } else g }) :=
    u.editSlot_follows .of_same
  generalize u.editSlot t.slot _ = v at fed
  exact (chunked.trans (fed.trans (v.leaveSegments_follows _))).trans .of_same

theorem State.takeBytes_follows (n : LaneNo) (cell : CellNo) (bs : List Byte) : s.Follows (s.takeBytes n cell bs) := by
  induction bs generalizing s with
  | nil => exact .refl s
  | cons b bs ih =>
    unfold State.takeBytes
    split
    · exact .refl s
    · exact .ite (fun _ => (s.takeByte_follows n _ cell b).trans (ih _)) fun _ => .refl s

theorem State.continueTurn_follows (n : LaneNo) : s.Follows (s.continueTurn n) := by
  unfold State.continueTurn
  split
  · exact .refl s
  · rename_i t _
    refine .ite (fun _ => s.endTurn_follows n) fun _ => (s.endStream_follows t.slot).trans ?_
    refine .ite (fun _ => State.endTurn_follows _ n) fun _ => ?_
    split
    · exact .of_same
    · exact State.endTurn_follows _ n

theorem State.joinSegment_follows (i : SlotNo) (g : Segment) : s.Follows (s.joinSegment i g) := by
  have joined : s.Follows (s.editSlot i fun c =>
      { c with feed := joinFeed g c.feed, cells := c.cells.set g.cell { c.cells.get g.cell with queued := some g.tag } }) := by
    refine s.editSlot_follows .of_same fun x => ?_
    have cells : mapVector (fun r => (r.done, r.status)) ((s.slot i).cells.set g.cell { (s.slot i).cells.get g.cell with queued := some g.tag }) =
        mapVector (fun r => (r.done, r.status)) (s.slot i).cells := mapVector_congr fun n => by
      by_cases e : n = g.cell
      · rw [e, get_set_self]
      · rw [get_set_of_ne _ _ e]
    simp only [Slot.shownAs, Slot.deviceHalf, cells]
  exact (joined.trans (State.joinRun_follows _ i)).trans (.ite (fun _ => State.enterAborting_follows _ i _) fun _ => .refl _)

theorem State.takeSegment_follows (i : SlotNo) (g : Segment) : s.Follows (s.takeSegment i g) := by
  unfold State.takeSegment
  refine .ite (fun _ => s.answerCell_follows i _ _ _) fun _ => .ite (fun _ => s.answerCell_follows i _ _ _) fun _ => .ite (fun _ => ?_) fun _ => ?_
  · exact (s.editSlot_follows .of_same).trans (State.answerCell_follows _ i _ _ _)
  · split
    · exact .ite (fun _ => s.enterAborting_follows i _) fun _ => s.joinSegment_follows i g
    · exact s.joinSegment_follows i g

theorem State.takeCell_follows (i : SlotNo) (half : List Byte) (n : CellNo) : s.Follows (s.takeCell i half n) :=
  .ite (fun _ => .refl s) fun _ => s.takeSegment_follows i _

theorem State.takeCells_follows (i : SlotNo) (half : List Byte) : s.Follows (s.takeCells i half) := .foldl (fun s n => s.takeCell_follows i half n) _ s

/-- An emission: the recipe entry is of no device half, and Recipe Written is written as it is counted (R119). -/
theorem State.emit_follows (i : SlotNo) (p : PendingChunk) (v : Verdict) (n : Nat) (k : Cause) : s.Follows (s.emit i p v n k) := by
  unfold State.emit
  have entry : s.Follows (s.post [.recipe ((s.slot i).entryAddr p.ordinal) (recipeOf p v n k)]) := s.post_apart_follows (by simp [HostWrite.apart])
  have slot : (s.post [.recipe ((s.slot i).entryAddr p.ordinal) (recipeOf p v n k)]).slot i = s.slot i := s.slot_post _ i
  dsimp only
  generalize s.post [.recipe ((s.slot i).entryAddr p.ordinal) (recipeOf p v n k)] = t at entry slot ⊢
  refine entry.trans (.trans (.trans (.trans (t.edit_post_decide_follows (by simp [HostWrite.aside]) fun x => ⟨x, ?_⟩) (State.joinRun_follows _ i))
    (State.trySettle_follows _ i)) (State.refresh_follows _ i))
  simp [showAll, HostWrite.show, Slot.shownAs, Slot.deviceHalf, slot]

/-! ### What every operation carries on: the sweep and the requests (chapters 2 and 8) -/

theorem State.issueFirm_follows (i : SlotNo) (r : Nat) : s.Follows (s.issueFirm i r) := by
  have edited : s.Follows (s.editSlot i fun c => { c.dropProv r with inflight := c.inflight + 1 }) := s.editSlot_follows .of_same
  exact (edited.trans (State.editRecord_follows _ r fun p => { p with disp := .firming })).trans .of_same

theorem State.holdStored_follows (i : SlotNo) (read : Nat) : s.Follows (s.holdStored i read) := by
  unfold State.holdStored
  refine .ite (fun _ => .refl s) fun _ => ?_
  dsimp only
  generalize holdValue read (s.slot i).stored (s.slot i).written = t
  have stored : s.Follows (s.editSlot i fun c => { c with stored := t }) := s.editSlot_follows .of_same
  generalize s.editSlot i (fun c => { c with stored := t }) = u at stored
  have firmed := stored.trans (.foldl (fun (s : State) r => s.issueFirm_follows i r) (u.firmDue i t) u)
  generalize (u.firmDue i t).foldl (State.issueFirm i) u = v at firmed
  refine (firmed.trans (v.setSlot_post_follows .of_same (by simp [HostWrite.aside]) fun x => ⟨x, ?_⟩)).trans (State.tryClose_follows _ i)
  simp [showAll, HostWrite.show, Slot.shownAs, Slot.deviceHalf]

theorem State.holdTaken_follows (i : SlotNo) (read : Nat) : s.Follows (s.holdTaken i read) :=
  .ite (fun _ => .refl s) fun _ => s.edit_decide_follows fun x => ⟨x, rfl⟩

/-- A countdown loaded from the class is not due (R42). -/
theorem State.reloadIdle_follows (i : SlotNo) : s.Follows (s.editSlot i fun c => { c with idle := c.cls.idleLimit }) := by
  refine s.editSlot_follows ⟨fun due => ?_, id, id⟩
  simp only [Slot.idleDue, Bool.and_eq_true, bne_iff_ne, ne_eq, beq_iff_eq] at due
  exact absurd due.2 due.1.2

theorem State.takeHostHalf_follows (i : SlotNo) (half : List Byte) : s.Follows (s.takeHostHalf i half) := by
  unfold State.takeHostHalf
  dsimp only
  refine State.Follows.trans ?_ (State.refresh_follows _ i)
  refine State.Follows.trans ?_ (.ite (fun _ => State.takeCells_follows _ i half) fun _ => .refl _)
  refine .trans (.trans (.trans ?_ (State.holdStored_follows _ i _)) (State.holdTaken_follows _ i _)) (State.editSlot_follows _ .of_same)
  refine State.Follows.trans (.ite (fun _ => .refl s) fun _ => ?_) (.ite (fun _ => State.reloadIdle_follows _ i) fun _ => .refl _)
  refine s.setSlot_post_follows .of_same (by simp [HostWrite.aside]) fun x => ⟨x, ?_⟩
  simp [showAll, HostWrite.show, Slot.shownAs, Slot.deviceHalf]

theorem State.evaluateFill_follows : s.Follows s.evaluateFill := by
  unfold State.evaluateFill
  refine .ite (fun _ => .refl s) fun _ => ?_
  split <;> exact .ite (fun _ => .ite (fun _ => s.setFill_follows _ _) fun _ => s.setFill_follows _ _) fun _ => s.setFill_follows _ _

/-- Writes of which each is of the device half of one slot: a slot's half shows the one of its own. -/
theorem showAll_filterMap (i : SlotNo) (f : SlotNo → Option HostWrite) (aside : ∀ j w, f j = some w → w.aside j = true) (js : List SlotNo) (distinct : js.Nodup)
    (d : DeviceHalf) : showAll i (js.filterMap f) d = if i ∈ js then ((f i).map fun w => w.show i d).getD d else d := by
  induction js generalizing d with
  | nil => rfl
  | cons j js ih =>
    obtain ⟨fresh, distinct⟩ := List.nodup_cons.1 distinct
    have step : showAll i ((j :: js).filterMap f) d = showAll i (js.filterMap f) (((f j).map fun w => w.show i d).getD d) := by
      cases e : f j <;> simp [e, showAll]
    rw [step, ih distinct]
    by_cases e : i = j
    · subst e
      simp [fresh]
    · have same : ((f j).map fun w => w.show i d).getD d = d := by
        cases k : f j with
        | none => rfl
        | some w => exact HostWrite.aside.show (aside j w k) e d
      simp [same, e]

theorem showWords_of_aside {word : Nat} {ws : List HostWrite} (h : ∀ w ∈ ws, ∃ j, w.aside j = true) (v : BitVec 32) :
    ws.foldl (fun v w => w.showWord word v) v = v :=
  showWords_of_same (fun w hw => (h w hw).elim fun _ k => HostWrite.aside.showWord k word) v

/-- The writes of a sweep's end to the device halves: the Consumed Offset of each slot where it differs from the one last written (R46, R159). -/
def State.consumedWrite (s : State) (i : SlotNo) : Option HostWrite :=
  if (s.slot i).consumed = (s.slot i).shown then none else some (.slotConsumed i (s.slot i).consumed)

theorem State.consumedWrite_aside (i : SlotNo) (w : HostWrite) (h : s.consumedWrite i = some w) : w.aside i = true := by
  unfold State.consumedWrite at h
  split at h <;> cases h
  simp [HostWrite.aside]

theorem State.writeConsumedAll_eq : s.writeConsumedAll = { s.post ((List.finRange 1024).filterMap s.consumedWrite) with
    slots := mapVector (fun c : Slot => { c with shown := c.consumed }) s.slots } := rfl

theorem State.writeConsumedAll_slot (i : SlotNo) : s.writeConsumedAll.slot i = { s.slot i with shown := (s.slot i).consumed } :=
  get_mapVector (fun c : Slot => ({ c with shown := c.consumed } : Slot)) s.slots i

theorem State.writeConsumedAll_follows : s.Follows s.writeConsumedAll := by
  have aside (w : HostWrite) (hw : w ∈ (List.finRange 1024).filterMap s.consumedWrite) : ∃ j, w.aside j = true := by
    obtain ⟨j, -, k⟩ := List.mem_filterMap.1 hw
    exact ⟨j, s.consumedWrite_aside j w k⟩
  refine .of_slots ?_ (fun i => ?_) fun m => ⟨(List.finRange 1024).filterMap s.consumedWrite, ?_, fun i x => ⟨x, ?_⟩, fun word _ => ?_⟩
  · rw [s.writeConsumedAll_eq]; exact s.post_ctl _
  · rw [s.writeConsumedAll_slot]; exact .of_same
  · rw [s.writeConsumedAll_eq]; exact (s.post_writes _ m).1
  · rw [showAll_filterMap i _ (fun j w => s.consumedWrite_aside j w) _ (List.nodup_finRange 1024), if_pos (List.mem_finRange i), s.writeConsumedAll_slot]
    unfold State.consumedWrite
    split
    · rename_i same
      simp [Slot.shownAs, Slot.deviceHalf, same]
    · simp [HostWrite.show, Slot.shownAs, Slot.deviceHalf]
  · rw [s.writeConsumedAll_eq]
    exact (showWords_of_aside aside _).trans (by rw [s.post_notice])

theorem State.acceptFormat_follows (cell : ReqNo) (k n : Nat) (e : BitVec 32) : s.Follows (s.acceptFormat cell k n e) :=
  (s.setFill_follows .normal 0).trans .of_same

theorem State.closeStream_follows (i : SlotNo) (f : Nat) : s.Follows (s.closeStream i f) := by
  refine .trans (.trans (.trans (.trans (s.setSlot_post_follows .of_same (by simp [HostWrite.aside]) fun x => ⟨x, ?_⟩) (State.markFinished_follows _ i))
    (State.trySettle_follows _ i)) (State.refresh_follows _ i)) (State.joinRun_follows _ i)
  simp [showAll, HostWrite.show, Slot.shownAs, Slot.deviceHalf]

end Sys2Proof.Machine

namespace Sys2Proof.Machine

set_option Elab.async false

variable (s : State)

/-! ### What every operation carries on: the RELEASE, the OPEN and the START (R35, R39, R172) -/

/-- The slot of a RELEASE, before its condition set is written: what it writes and holds (R39, R46). -/
def State.releasedHalf (s : State) (i : SlotNo) : State :=
  (((s.editSlot i Slot.released).post [.slotReason i none, .slotFinal i none]).writeConsumed i).post [.slotState i .free]

theorem State.releaseSlot_eq (i : SlotNo) : s.releaseSlot i = (s.releasedHalf i).writeMarks i .off := rfl

theorem State.releasedHalf_spec (i : SlotNo) :
    s.SlotsAndPort (s.releasedHalf i) ∧
    (s.releasedHalf i).slot i = { (s.slot i).released with shown := if s.mayWrite then (s.slot i).consumed else (s.slot i).shown } ∧
    (∀ j, j ≠ i → (s.releasedHalf i).slot j = s.slot j) ∧
    (s.mayWrite = true → s.Writes (s.releasedHalf i) [.slotReason i none, .slotFinal i none, .slotConsumed i (s.slot i).consumed, .slotState i .free]) := by
  unfold State.releasedHalf
  generalize hu : (s.editSlot i Slot.released).post [.slotReason i none, .slotFinal i none] = u
  have rest : s.SlotsAndPort u := hu ▸ (s.editSlot_slotsAndPort i Slot.released).trans (State.post_slotsAndPort _ _)
  have self : u.slot i = (s.slot i).released := by rw [← hu]; simp
  have others (j : SlotNo) (e : j ≠ i) : u.slot j = s.slot j := by rw [← hu]; simp [e]
  have writes (m : s.mayWrite = true) : s.Writes u [.slotReason i none, .slotFinal i none] := hu ▸ State.post_writes (s.editSlot i Slot.released) _ m
  obtain ⟨restc, selfc, othersc⟩ := u.writeConsumed_spec i
  refine ⟨(rest.trans restc).trans (State.post_slotsAndPort _ _), ?_, fun j e => ?_, fun m => ?_⟩
  · rw [State.slot_post, selfc, self, rest.mayWrite]; rfl
  · rw [State.slot_post, othersc j e, others j e]
  · have consumed := u.writeConsumed_writes i (rest.mayWrite.trans m)
    rw [self] at consumed
    have ctl : u.ctl = s.ctl := by rw [rest]
    have ctlc : (u.writeConsumed i).ctl = s.ctl := by rw [restc]; exact ctl
    exact ((writes m).trans consumed (by rw [ctl])).trans (State.post_writes _ _ ((rest.trans restc).mayWrite.trans m)) (by rw [ctlc])

theorem Slot.released_follows (c : Slot) (n : Nat) : c.Follows { c.released with shown := n } :=
  ⟨by simp [Slot.idleDue, Slot.released, SlotState.isLive], by simp [Slot.released, SlotState.isOpen], fun _ _ => rfl⟩

theorem State.releaseSlot_follows (i : SlotNo) : s.Follows (s.releaseSlot i) := by
  rw [s.releaseSlot_eq]
  obtain ⟨rest, self, others, writes⟩ := s.releasedHalf_spec i
  refine State.Follows.trans ?_ (State.writeMarks_follows _ i _)
  refine .of_slot i _ (by rw [self]; exact (s.slot i).released_follows _) others (fun m => (writes m).1) (by simp [HostWrite.aside]) (fun m x => ⟨x, ?_⟩)
    (by rw [rest]) (by rw [rest])
  rw [self, if_pos m]
  simp [showAll, HostWrite.show, Slot.shownAs, Slot.deviceHalf, Slot.released]

/-- The cells of a device half after the writes of an OPEN to some of them (R35). -/
theorem showAll_cells (i : SlotNo) (tag : CellNo → Tag) (ns : List CellNo) (d : DeviceHalf) :
    showAll i (ns.flatMap fun n => [HostWrite.cellStatus i n .done, HostWrite.cellTag i n (tag n)]) d =
      { d with cells := Vector.ofFn fun n => if n ∈ ns then (tag n, .done) else d.cells.get n } := by
  induction ns generalizing d with
  | nil =>
    have same : (Vector.ofFn fun n : CellNo => d.cells.get n) = d.cells := by
      refine Vector.ext fun k lt => ?_
      simp [Vector.get]
    simp [showAll, same]
  | cons n ns ih =>
    have step : showAll i ((n :: ns).flatMap fun n => [HostWrite.cellStatus i n .done, HostWrite.cellTag i n (tag n)]) d =
        showAll i (ns.flatMap fun n => [HostWrite.cellStatus i n .done, HostWrite.cellTag i n (tag n)]) { d with cells := d.cells.set n (tag n, .done) } := by
      simp [showAll, HostWrite.show, get_set_self]
    rw [step, ih]
    congr 1
    refine Vector.ext fun k lt => ?_
    simp only [Vector.getElem_ofFn, List.mem_cons]
    by_cases later : (⟨k, lt⟩ : CellNo) ∈ ns
    · simp [later]
    · by_cases e : (⟨k, lt⟩ : CellNo) = n
      · rw [if_neg later, if_pos (.inl e), e]
        exact get_set_self _ n _
      · rw [if_neg later, if_neg (not_or.2 ⟨e, later⟩), get_set_of_ne _ _ e]

/-- An opened stream is ACTIVE, as R26 decides with nothing pending, and no expiry of it is due (R26, R35). -/
theorem Slot.opened_follows (c : Slot) (cls : ChunkClass) (start addr size : Nat) (half : List Byte) : c.Follows (.opened cls start addr size half) where
  due := fun h => by
    simp only [Slot.idleDue, Slot.opened, Bool.and_eq_true, bne_iff_ne, ne_eq, beq_iff_eq] at h
    exact absurd h.2 h.1.2
  decided := fun _ _ => rfl
  freed := fun _ _ => rfl

/-- The writes of an OPEN bring the device half of a FREE slot after, whose Abort Reason is absent already (R35, R39). -/
theorem State.openSlot_follows (i : SlotNo) (cls : ChunkClass) (start addr size : Nat) (half : List Byte) (free : (s.slot i).state = .free) :
    s.Follows (s.openSlot i (.opened cls start addr size half)) := by
  generalize hc : Slot.opened cls start addr size half = c
  have self : (s.slot i).Follows c := hc ▸ (s.slot i).opened_follows cls start addr size half
  have slot (j : SlotNo) : (s.slot j).Follows ((s.openSlot i c).slot j) := by
    rw [State.openSlot, State.slot_post]
    by_cases e : j = i
    · subst e; simpa using self
    · simpa [e] using .refl _
  refine ⟨State.post_ctl _ _, fun j => (slot j).due, fun h j => (slot j).decided (h j), fun h => ?_⟩
  refine (s.setSlot_post_follows self ?_ fun x => ⟨.zero, ?_⟩).shown h
  · simp only [openWrites, List.mem_append, List.mem_flatMap]
    rintro w (⟨n, -, hw⟩ | hw)
    · simp only [List.mem_cons, List.not_mem_nil, or_false] at hw
      rcases hw with rfl | rfl <;> simp [HostWrite.aside]
    · simp only [List.mem_cons, List.not_mem_nil, or_false] at hw
      rcases hw with rfl | rfl | rfl | rfl | rfl | rfl | rfl | rfl <;> simp [HostWrite.aside]
  · have absent := h.free_reason i free
    have cells : mapVector (fun r => (r.done, r.status)) c.cells = Vector.ofFn fun n : CellNo => ((c.cells.get n).done, CellStatus.done) := by
      refine Vector.ext fun k lt => ?_
      have e : (mapVector (fun r : CellRecord => (r.done, r.status)) c.cells)[k] = _ := get_mapVector _ c.cells ⟨k, lt⟩
      rw [e, ← hc]
      simp [Slot.opened, cellsAtOpen, Vector.get]
    have split : showAll i (openWrites i c) ((s.slot i).shownAs x) = showAll i [.slotSeen i c.seen, .slotConsumed i c.consumed, .slotSafe i c.safe,
        .slotWritten i 0, .slotFinal i none, .slotMarks i .off, .slotStats i .zero, .slotState i .active]
        (showAll i ((List.finRange 16).flatMap fun n => [HostWrite.cellStatus i n .done,
          HostWrite.cellTag i n (c.cells.get n).done]) ((s.slot i).shownAs x)) := by
      simp [showAll, openWrites]
    rw [split, showAll_cells]
    simp only [showAll, List.foldl_cons, List.foldl_nil, HostWrite.show, if_pos, Slot.shownAs, Slot.deviceHalf, cells, List.mem_finRange, absent]
    rw [← hc]
    rfl

/-- The last value written to a word of the Ready Map, after one more write to the map. -/
theorem shownWord_concat (area word n : Nat) (v : BitVec 32) (posted : List Posted) :
    shownWord word (posted ++ [Posted.mk area (.readyWord n v)]) = if n = word then some v else shownWord word posted := by
  simp only [shownWord, List.reverse_append, List.reverse_singleton, List.singleton_append, List.findSome?_cons]
  by_cases e : n = word
  · simp [e]
  · simp [e]

/-- The words of a START, each written once (R164, R172). -/
theorem shownWord_words (area word : Nat) (f : Nat → BitVec 32) (n : Nat) (posted : List Posted) :
    shownWord word (posted ++ ((List.range n).map fun w => HostWrite.readyWord w (f w)).map (Posted.mk area)) =
      if word < n then some (f word) else shownWord word posted := by
  induction n with
  | zero => simp
  | succ n ih =>
    rw [List.range_succ, List.map_append, List.map_append, ← List.append_assoc, List.map_singleton, List.map_singleton, shownWord_concat, ih]
    by_cases e : n = word
    · simp [e]
    · rw [if_neg e]
      by_cases lt : word < n
      · rw [if_pos lt, if_pos (by omega)]
      · rw [if_neg lt, if_neg (by omega)]

end Sys2Proof.Machine

namespace Sys2Proof.Machine

set_option Elab.async false

/-! ### Idle expiries that are due (R42) -/

/-- The slots listed as due from number `n` on are those of the list that are due, each at its number. -/
theorem mem_dueFrom {cs : List Slot} {n : Nat} (fits : n + cs.length ≤ 1024) (i : SlotNo) :
    i ∈ dueFrom cs n ↔ ∃ k c, cs[k]? = some c ∧ c.idleDue = true ∧ i.val = n + k := by
  induction cs generalizing n with
  | nil => simp [dueFrom]
  | cons c cs ih =>
    rw [List.length_cons] at fits
    have rest := ih (n := n + 1) (by omega)
    have later : (∃ k d, (c :: cs)[k + 1]? = some d ∧ d.idleDue = true ∧ i.val = n + (k + 1)) ↔ i ∈ dueFrom cs (n + 1) := by
      rw [rest]
      simp only [List.getElem?_cons_succ, Nat.add_assoc, Nat.add_comm 1]
    have split : (∃ k d, (c :: cs)[k]? = some d ∧ d.idleDue = true ∧ i.val = n + k) ↔
        (c.idleDue = true ∧ i.val = n) ∨ i ∈ dueFrom cs (n + 1) := by
      rw [← later]
      constructor
      · rintro ⟨k, d, at', due, val⟩
        cases k with
        | zero => exact .inl (by simp at at'; exact ⟨at' ▸ due, val⟩)
        | succ k => exact .inr ⟨k, d, at', due, val⟩
      · rintro (⟨due, val⟩ | ⟨k, d, at', due, val⟩)
        · exact ⟨0, c, rfl, due, val⟩
        · exact ⟨k + 1, d, at', due, val⟩
    rw [split]
    have first : i = Fin.ofNat 1024 n ↔ i.val = n := by
      rw [Fin.ext_iff, Fin.val_ofNat, Nat.mod_eq_of_lt (by omega)]
    rw [show dueFrom (c :: cs) n = if c.idleDue then Fin.ofNat 1024 n :: dueFrom cs (n + 1) else dueFrom cs (n + 1) from rfl]
    by_cases due : c.idleDue = true
    · rw [if_pos due, List.mem_cons, first]
      simp only [due, true_and]
    · rw [if_neg due]
      simp only [due, Bool.false_eq_true, false_and, false_or]

variable (s : State)

/-- The slots listed as due are those whose expiry is due. -/
theorem State.mem_dueSlots (i : SlotNo) : i ∈ s.dueSlots ↔ (s.slot i).idleDue = true := by
  rw [State.dueSlots, mem_dueFrom (by simp)]
  have at' (k : Nat) (c : Slot) : s.slots.toList[k]? = some c ↔ ∃ lt : k < 1024, s.slot ⟨k, lt⟩ = c := by
    rw [List.getElem?_eq_some_iff]
    simp [State.slot, Vector.get]
  constructor
  · rintro ⟨k, c, e, due, val⟩
    obtain ⟨lt, rfl⟩ := (at' k c).1 e
    have : i = ⟨k, lt⟩ := Fin.ext (by simpa using val)
    exact this ▸ due
  · exact fun due => ⟨i.val, s.slot i, (at' _ _).2 ⟨i.isLt, rfl⟩, due, by simp⟩

theorem State.abortStream_slot (i : SlotNo) (r : AbortReason) (j : SlotNo) :
    (s.abortStream i r).slot j = ((s.enterAborting i r).refresh i).slot j := by
  have ends := congrArg State.slots (s.endEvent_eq ((s.enterAborting i r).refresh i))
  exact congrArg (fun v => Vector.get v j) ends

/-- An abort touches one slot's context (R30). -/
theorem State.abortStream_others (i : SlotNo) (r : AbortReason) {j : SlotNo} (e : j ≠ i) : (s.abortStream i r).slot j = s.slot j := by
  obtain ⟨-, -, others⟩ := (s.enterAborting i r).refresh_spec i
  rw [s.abortStream_slot, others j e]
  by_cases live : (s.slot i).state.isLive = true
  · exact (s.enterAborting_aborts i r live).others j e
  · unfold State.enterAborting
    rw [if_neg live]

/-- It leaves that slot not live (R29, R30). -/
theorem State.abortStream_not_live (i : SlotNo) (r : AbortReason) : ((s.abortStream i r).slot i).state.isLive = false := by
  obtain ⟨-, self, -⟩ := (s.enterAborting i r).refresh_spec i
  rw [s.abortStream_slot, self]
  by_cases live : (s.slot i).state.isLive = true
  · dsimp only
    rw [(s.enterAborting_aborts i r live).state_eq]
    split <;> rfl
  · unfold State.enterAborting
    rw [if_neg live]
    simpa using live

/-- Of the slots that a list of expiries takes, none is left due; each other slot is left as it was. -/
theorem State.expiries_slot (l : List SlotNo) (j : SlotNo) :
    (j ∈ l → ((l.foldl (fun s i => s.abortStream i .idle) s).slot j).state.isLive = false) ∧
    (j ∉ l → (l.foldl (fun s i => s.abortStream i .idle) s).slot j = s.slot j) := by
  induction l generalizing s with
  | nil => simp
  | cons i l ih =>
    obtain ⟨taken, left⟩ := ih (s.abortStream i .idle)
    rw [List.foldl_cons]
    refine ⟨fun m => ?_, fun m => ?_⟩
    · by_cases later : j ∈ l
      · exact taken later
      · obtain rfl := (List.mem_cons.1 m).resolve_right later
        rw [left later]
        exact s.abortStream_not_live j .idle
    · obtain ⟨ne, later⟩ := not_or.1 (mt List.mem_cons.2 m)
      rw [left later, s.abortStream_others i .idle ne]

/-- A command finds a slot whose expiry was not due as it was (R42). -/
theorem State.settled_slot_of_not_due {j : SlotNo} (h : (s.slot j).idleDue = false) : s.settled.slot j = s.slot j :=
  (s.expiries_slot s.dueSlots j).2 (by simp [s.mem_dueSlots, h])

/-- It finds one whose expiry was due no longer live. -/
theorem State.settled_not_live_of_due {j : SlotNo} (h : (s.slot j).idleDue = true) : (s.settled.slot j).state.isLive = false :=
  (s.expiries_slot s.dueSlots j).1 ((s.mem_dueSlots j).2 h)

/-- A command finds no expiry due (R42). -/
theorem State.settled_settled : s.settled.Settled := by
  intro j
  cases due : (s.slot j).idleDue
  · rw [s.settled_slot_of_not_due due, due]
  · simp [Slot.idleDue, s.settled_not_live_of_due due]

/-- A slot that a command finds live is as it was before. -/
theorem State.settled_slot_of_live {j : SlotNo} (h : (s.settled.slot j).state.isLive = true) : s.settled.slot j = s.slot j := by
  cases due : (s.slot j).idleDue
  · exact s.settled_slot_of_not_due due
  · rw [s.settled_not_live_of_due due] at h
    cases h

/-! ### The START (R158, R172) -/

/-- The writes of a START, in their order (R172). -/
def State.startWrites (s : State) (table : List (List Byte)) : List HostWrite :=
  s.suppliedTags table ++ (List.finRange 1024).map (fun i => HostWrite.deviceHalf i (s.slot i).deviceHalf) ++
    (List.range 32).map fun w => HostWrite.readyWord w (readyWord s.notice.ready w)

theorem State.joinLevel_levels (l : Nat) : ∃ ls, s.joinLevel l = { s with notice := { s.notice with levels := ls } } := by
  unfold State.joinLevel
  split
  · exact ⟨s.notice.levels, rfl⟩
  · exact ⟨_, rfl⟩

/-- A START before its test for a due message (R172). -/
theorem State.completeStart_eq (h : Header) (table : List (List Byte)) : ∃ (u : State) (ls : List Nat), s.completeStart h table = u.testDue ∧ u = { s with
    header := h
    ctl := { s.ctl with starting := false, startError := .none, area := s.ctl.base.toNat, engine := .running }
    requests := s.completeRecords table
    slots := mapVector (fun c : Slot => { c with shown := c.consumed }) s.slots
    time := u.time
    notice := { s.notice with levels := ls }
    port := { s.port with posted := s.port.posted ++ (s.startWrites table).map (Posted.mk s.ctl.base.toNat) } } ∧ u.time.running = true := by
  unfold State.completeStart
  dsimp only
  generalize ha : State.postAlways { s with
    header := h
    ctl := { s.ctl with starting := false, startError := .none, area := s.ctl.base.toNat }
    requests := s.completeRecords table
    slots := mapVector (fun c : Slot => { c with shown := c.consumed }) s.slots } _ = a
  obtain ⟨bs, eb⟩ : ∃ ls, (if a.index.fill = .declared then a.joinLevel h.fillLevel else a) = { a with notice := { a.notice with levels := ls } } := by
    split
    · exact a.joinLevel_levels _
    · exact ⟨a.notice.levels, rfl⟩
  rw [eb]
  generalize hb : ({ a with notice := { a.notice with levels := bs } } : State) = b
  obtain ⟨cs, ec⟩ : ∃ ls, (if b.index.error then b.joinLevel h.errorLevel else b) = { b with notice := { b.notice with levels := ls } } := by
    split
    · exact b.joinLevel_levels _
    · exact ⟨b.notice.levels, rfl⟩
  rw [ec]
  subst hb ha
  exact ⟨_, cs, rfl, rfl, rfl⟩

end Sys2Proof.Machine

namespace Sys2Proof.Machine

set_option Elab.async false

/-! ### The bytes of the engine's writes (R148, R149, chapter 11.3) -/

theorem length_leBytes (size v : Nat) : (leBytes size v).length = size := by
  induction size generalizing v with
  | zero => rfl
  | succ size ih => rw [leBytes, List.length_cons, ih]

/-- A write of the Exchange Area whose bytes are all of those that the engine owns there. -/
def HostWrite.Owned (w : HostWrite) (base : Nat) : Prop :=
  w.inArea = true ∧ base ≤ w.addr base ∧ ∀ n, n < w.bytes.length → engineOwns (w.addr base - base + n) = true

/-- A write within a slot's device half. -/
theorem HostWrite.Owned.of_half {w : HostWrite} {base : Nat} (i : SlotNo) (o : Nat) (area : w.inArea = true) (addr : w.addr base = deviceHalfAt base i + o)
    (len : o + w.bytes.length ≤ 0x180) : w.Owned base := by
  rw [deviceHalfAt] at addr
  refine ⟨area, by omega, fun n lt => ?_⟩
  have i_lt := i.isLt
  have low : 0x4000 ≤ w.addr base - base + n := by omega
  have high : w.addr base - base + n < 1064960 := by omega
  have within : 0x280 ≤ (w.addr base - base + n - 0x4000) % 1024 := by omega
  simp [engineOwns, low, high, within]

/-- A write within the device half of a request cell. -/
theorem HostWrite.Owned.of_cell {w : HostWrite} {base : Nat} (c : ReqNo) (o : Nat) (area : w.inArea = true)
    (addr : w.addr base = requestCellAt base c + 0x60 + o)
    (len : o + w.bytes.length ≤ 0x20) : w.Owned base := by
  rw [requestCellAt] at addr
  refine ⟨area, by omega, fun n lt => ?_⟩
  have c_lt := c.isLt
  have low : 0x3000 ≤ w.addr base - base + n := by omega
  have high : w.addr base - base + n < 0x4000 := by omega
  have within : 0x60 ≤ (w.addr base - base + n - 0x3000) % 128 := by omega
  simp [engineOwns, low, high, within]

/-- A write within the Engine Record. -/
theorem HostWrite.Owned.of_record {w : HostWrite} {base : Nat} (o : Nat) (area : w.inArea = true) (addr : w.addr base = base + 0x1000 + o)
    (len : o + w.bytes.length ≤ 0x1000) : w.Owned base := by
  refine ⟨area, by omega, fun n lt => ?_⟩
  have low : 0x1000 ≤ w.addr base - base + n := by omega
  have high : w.addr base - base + n < 0x2000 := by omega
  simp [engineOwns, low, high]

/-- A write of one of the 32 words of the Ready Map. -/
theorem HostWrite.Owned.of_word (base word : Nat) (v : BitVec 32) (h : word < 32) : (HostWrite.readyWord word v).Owned base := by
  have len : (HostWrite.readyWord word v).bytes.length = 4 := length_leBytes 4 _
  refine ⟨rfl, by simp only [HostWrite.addr]; omega, fun n lt => ?_⟩
  rw [len] at lt
  have addr : (HostWrite.readyWord word v).addr base = base + 0x2080 + 4 * word := rfl
  have low : 0x2080 ≤ (HostWrite.readyWord word v).addr base - base + n := by omega
  have high : (HostWrite.readyWord word v).addr base - base + n < 0x2100 := by omega
  simp [engineOwns, low, high]

theorem SlotStats.length_asBytes (t : SlotStats) : t.asBytes.length = 56 := by
  simp [SlotStats.asBytes, length_leBytes]

theorem EngineStats.length_bytes (t : EngineStats) : t.bytes.length = 72 := by
  simp [EngineStats.bytes, length_leBytes]

theorem LiveFields.length_bytes (l : LiveFields) : l.bytes.length = 24 := by
  simp [LiveFields.bytes, length_leBytes]

theorem DeviceHalf.length_bytes (d : DeviceHalf) : d.bytes.length = 384 := by
  simp [DeviceHalf.bytes, layout]

theorem ReqResult.length_bytes_le (r : ReqResult) : r.bytes.length ≤ 16 := by
  cases r <;> simp [ReqResult.bytes, length_leBytes]

theorem RecipeEntry.length_bytes (e : RecipeEntry) : e.bytes.length = 64 := by
  simp [RecipeEntry.bytes, length_leBytes]

/-- A write that any command may bring is of bytes that the engine owns, or of the Notice Word (R148, R149, R164, R168). -/
theorem HostWrite.owned_of_lawful {w : HostWrite} {h : Header} (l : w.lawful h = true) (base : Nat) :
    w.Owned base ∨ w = .notice h.noticeAddress h.noticeWord := by
  cases w with
  | slotState i v => exact .inl (.of_half i 0 rfl rfl (by simp [HostWrite.bytes]))
  | slotReason i v => exact .inl (.of_half i 1 rfl rfl (by simp [HostWrite.bytes]))
  | slotMarks i v => exact .inl (.of_half i 3 rfl rfl (by simp [HostWrite.bytes]))
  | slotSeen i v => exact .inl (.of_half i 4 rfl rfl (by simp [HostWrite.bytes, length_leBytes]))
  | slotConsumed i v => exact .inl (.of_half i 8 rfl rfl (by simp [HostWrite.bytes, length_leBytes]))
  | slotSafe i v => exact .inl (.of_half i 0x10 rfl rfl (by simp [HostWrite.bytes, length_leBytes]))
  | slotWritten i v => exact .inl (.of_half i 0x18 rfl rfl (by simp [HostWrite.bytes, length_leBytes]))
  | slotFinal i v => exact .inl (.of_half i 0x20 rfl rfl (by simp [HostWrite.bytes, length_leBytes]))
  | slotStats i v => exact .inl (.of_half i 0x80 rfl rfl (by simp [HostWrite.bytes, SlotStats.length_asBytes]))
  | cellStatus i n v =>
    refine .inl (.of_half i (0x40 + 2 * n.val + 1) rfl (by simp only [HostWrite.addr]; omega) ?_)
    have := n.isLt
    simp only [HostWrite.bytes, List.length_singleton]; omega
  | cellTag i n v =>
    refine .inl (.of_half i (0x40 + 2 * n.val) rfl (by simp only [HostWrite.addr]; omega) ?_)
    have := n.isLt
    simp only [HostWrite.bytes, List.length_singleton]; omega
  | deviceHalf i v => exact .inl (.of_half i 0 rfl rfl (by simp [HostWrite.bytes, DeviceHalf.length_bytes]))
  | reqResult c v => exact .inl (.of_cell c 8 rfl rfl (by have := v.length_bytes_le; simp only [HostWrite.bytes]; omega))
  | reqStatus c v => exact .inl (.of_cell c 1 rfl rfl (by simp [HostWrite.bytes]))
  | reqTag c v => exact .inl (.of_cell c 0 rfl rfl (by simp [HostWrite.bytes]))
  | readyWord word v => exact .inl (.of_word base word v (by simpa [HostWrite.lawful] using l))
  | recordLive v => exact .inl (.of_record 0 rfl rfl (by simp [HostWrite.bytes, LiveFields.length_bytes]))
  | recordStats v => exact .inl (.of_record 0x40 rfl rfl (by simp [HostWrite.bytes, EngineStats.length_bytes]))
  | recipe addr v => cases l
  | notice addr word =>
    right
    simpa [HostWrite.lawful] using l

end Sys2Proof.Machine

namespace Sys2Proof.Machine

set_option Elab.async false

/-! ### What a command carries on: its laws and its writes -/

/-- A change that carries on what an event carries on, keeps the header copy and the Timebase's running, starts or remembers a sweep only where the engine may
write, and adds lawful writes. -/
structure State.Carries (s t : State) : Prop where
  follows : s.Follows t
  header : t.header = s.header
  running : t.time.running = s.time.running
  flight : t.sweep.flight.isSome = true → s.sweep.flight.isSome = true ∨ s.mayWrite = true
  remembered : t.sweep.remembered = true → s.sweep.remembered = true ∨ s.mayWrite = true
  posted : ∃ ws : List Posted, t.port.posted = s.port.posted ++ ws ∧ (s.mayWrite = false → ws = []) ∧
    ∀ w ∈ ws, w.write.lawful s.header = true ∧ w.area = s.ctl.area

theorem State.Carries.mayWrite {s t : State} (h : s.Carries t) : t.mayWrite = s.mayWrite := by simp [State.mayWrite, h.follows.ctl]

theorem State.Carries.of_keeps {s t : State} (k : s.Keeps t) (h : s.Follows t) : s.Carries t :=
  ⟨h, k.header, by rw [k.time], by rw [k.sweep]; exact .inl, by rw [k.sweep]; exact .inl, k.posted⟩

/-- A change of blocks of which the laws do not speak, the sweep's list among them. -/
theorem State.Carries.of_same {s t : State} (ctl : t.ctl = s.ctl := by rfl) (slots : t.slots = s.slots := by rfl)
    (ready : t.notice.ready = s.notice.ready := by rfl) (posted : t.port.posted = s.port.posted := by rfl) (header : t.header = s.header := by rfl)
    (running : t.time.running = s.time.running := by rfl)
    (flight : t.sweep.flight.isSome = true → s.sweep.flight.isSome = true ∨ s.mayWrite = true := by exact .inl)
    (remembered : t.sweep.remembered = true → s.sweep.remembered = true ∨ s.mayWrite = true := by exact .inl) : s.Carries t :=
  ⟨.of_same ctl slots ready posted, header, running, flight, remembered, [], by simp [posted]⟩

theorem State.Carries.refl (s : State) : s.Carries s := .of_same

theorem State.Carries.trans {s t u : State} (h : s.Carries t) (k : t.Carries u) : s.Carries u := by
  obtain ⟨ws, hw, hm, hr⟩ := h.posted
  obtain ⟨vs, kw, km, kr⟩ := k.posted
  refine ⟨h.follows.trans k.follows, k.header.trans h.header, k.running.trans h.running, fun f => ?_, fun f => ?_, ws ++ vs, by simp [kw, hw],
    fun m => by simp [hm m, km (h.mayWrite.trans m)], fun w hw => ?_⟩
  · exact (k.flight f).elim h.flight fun m => .inr (h.mayWrite ▸ m)
  · exact (k.remembered f).elim h.remembered fun m => .inr (h.mayWrite ▸ m)
  · rcases List.mem_append.1 hw with hw | hw
    · exact hr w hw
    · exact h.header ▸ h.follows.ctl ▸ kr w hw

/-- The laws of engine state, Timebase and sweep go on (R41, R42, R152, R154, R170, R174). -/
theorem State.Carries.control {s t : State} (h : s.Carries t) (k : s.ControlOk) : t.ControlOk where
  starting_stopped := by rw [h.follows.ctl]; exact k.starting_stopped
  cause_faulted := by rw [h.follows.ctl]; exact k.cause_faulted
  timebase := by rw [h.running, h.mayWrite]; exact k.timebase
  flight_writes := fun f => h.mayWrite.trans ((h.flight f).elim k.flight_writes id)
  remembered_writes := fun f => h.mayWrite.trans ((h.remembered f).elim k.remembered_writes id)
  due_running := fun i due => by rw [h.follows.ctl]; exact k.due_running i (h.follows.due i due)

/-- The writes left for a reset to take back are among those by which a state goes beyond another (R169). -/
def State.Recent (s t : State) : Prop := s.port.posted.length + t.port.recent ≤ t.port.posted.length

/-- A command, or what it begins with: what it carries on, and the writes that it leaves for a reset to take back are its own. -/
structure State.Event (s t : State) : Prop where
  carries : s.Carries t
  recent : t.port.recent = s.port.recent ∨ s.Recent t

theorem State.Carries.length_le {s t : State} (h : s.Carries t) : s.port.posted.length ≤ t.port.posted.length := by
  obtain ⟨ws, posted, -⟩ := h.posted
  simp [posted]

theorem State.Recent.trans {s t u : State} (h : s.Recent t) (k : t.Event u) : s.Recent u := by
  have grown := k.carries.length_le
  unfold State.Recent at *
  rcases k.recent with e | r
  · omega
  · unfold State.Recent at r; omega

theorem State.Event.trans {s t u : State} (h : s.Event t) (k : t.Event u) : s.Event u := by
  refine ⟨h.carries.trans k.carries, ?_⟩
  rcases h.recent with e | r
  · rcases k.recent with f | r
    · exact .inl (f.trans e)
    · have := h.carries.length_le
      unfold State.Recent at *
      exact .inr (by omega)
  · exact .inr (r.trans k)

/-- A change with no writes of its own. -/
theorem State.Carries.event {s t : State} (h : s.Carries t) (recent : t.port.recent = s.port.recent := by rfl) : s.Event t := ⟨h, .inl recent⟩

theorem State.Event.refl (s : State) : s.Event s := (State.Carries.refl s).event

/-- The writes by which an event goes beyond its first state are its own (R169). -/
theorem State.Carries.issued {s t : State} (h : s.Carries t) : s.Event (s.issued t) := by
  refine ⟨h.trans .of_same, .inr ?_⟩
  have := h.length_le
  simp only [State.Recent, State.issued]
  omega

theorem State.Carries.endEvent {s t : State} (h : s.Carries t) : s.Event (s.endEvent t) :=
  State.Carries.issued (t := s.notify t)
    (by unfold State.notify; split
        · exact h
        · exact h.trans (.of_keeps t.testDue_keeps t.testDue_follows))

/-- What a command begins with: its due expiries (R42). -/
theorem State.settled_event (s : State) : s.Event s.settled :=
  ⟨.of_keeps s.settled_keeps s.settled_follows, .inr (State.Carries.length_le (.of_keeps s.settled_keeps s.settled_follows))⟩

theorem State.settled_recent_after (s : State) : s.Recent s.settled := State.Carries.length_le (.of_keeps s.settled_keeps s.settled_follows)

theorem State.begun_event (s : State) : s.Event s.begun := ⟨.of_same, .inr le_rfl⟩

/-- What every command upholds: the three laws, and which writes it adds. -/
structure State.Upholds (s t : State) : Prop where
  decided : s.StatesDecided → t.StatesDecided
  control : s.ControlOk → t.ControlOk
  shown : s.ShownOk → t.ShownOk
  writes : ∃ ws : List Posted, t.port.posted = s.port.posted ++ ws ∧ t.port.recent ≤ ws.length ∧ (s.mayWrite = false → ws = []) ∧
    ∀ w ∈ ws, w.area = t.ctl.area ∧
      (w.write.Owned w.area ∨
        (∃ (i : SlotNo) (e : RecipeEntry) (n : Nat), w.write = .recipe ((s.slot i).areaAddr + 64 * n) e ∧ n < (s.slot i).areaSize ∧
          (s.slot i).state = .active ∧ w.write.bytes.length = 64) ∨
        w.write = .notice t.header.noticeAddress t.header.noticeWord)

/-- What a command carries on it upholds, and what then changes the engine state or the register window, with no write and nothing that the host sees. -/
theorem State.Event.upholds_of {s u t : State} (h : s.Event u) (r : s.Recent u) (control : s.ControlOk → t.ControlOk)
    (may : t.mayWrite = true → u.mayWrite = true)
    (area : t.ctl.area = u.ctl.area := by rfl) (slots : t.slots = u.slots := by rfl) (ready : t.notice.ready = u.notice.ready := by rfl)
    (posted : t.port.posted = u.port.posted := by rfl) (recent : t.port.recent = u.port.recent := by rfl) (header : t.header = u.header := by rfl) :
    s.Upholds t := by
  have slot (i : SlotNo) : t.slot i = u.slot i := by rw [State.slot, State.slot, slots]
  refine ⟨fun k i => slot i ▸ h.carries.follows.decided k i, control, fun k => ?_, ?_⟩
  · obtain ⟨halves, words, freed⟩ := h.carries.follows.shown k
    refine ⟨fun m i d => ?_, fun m word lt => ?_, fun i => slot i ▸ freed i⟩
    · rw [posted, slot]; exact halves (may m) i d
    · rw [posted, ready]; exact words (may m) word lt
  · obtain ⟨ws, hw, silent, lawful⟩ := h.carries.posted
    refine ⟨ws, posted.trans hw, ?_, silent, fun w hw => ?_⟩
    · have := congrArg List.length hw
      simp only [State.Recent, List.length_append] at r this
      omega
    · obtain ⟨law, at'⟩ := lawful w hw
      have same : w.area = t.ctl.area := by rw [at', area, h.carries.follows.ctl]
      refine ⟨same, (HostWrite.owned_of_lawful law w.area).imp_right fun e => .inr ?_⟩
      rw [e, header, h.carries.header]

theorem State.Event.upholds {s t : State} (h : s.Event t) (r : s.Recent t) : s.Upholds t := h.upholds_of r h.carries.control id

/-- A command that begins with its due expiries. -/
theorem State.Event.after_settled {s t : State} (h : s.settled.Event t) : s.Upholds t := (s.settled_event.trans h).upholds (s.settled_recent_after.trans h)

end Sys2Proof.Machine

namespace Sys2Proof.Machine

set_option Elab.async false

variable {s t : State}

/-! ### What each command carries on: the requests of a sweep (R156, R157) -/

theorem State.answer_carries (s : State) (cell : ReqNo) (st : Status) (r : Option ReqResult) : s.Carries (s.answer cell st r) :=
  .of_keeps (s.answer_keeps cell st r) (s.answer_follows cell st r)

/-- The next request leaves the sweep, and nothing else changes. -/
theorem State.nextRequest_carries {cell : ReqNo} {r : Request} (e : s.nextRequest cell = some (r, t)) : s.Carries t ∧ ∀ i, t.slot i = s.slot i := by
  unfold State.nextRequest at e
  split at e
  · rename_i flight
    split at e <;> cases e
    exact ⟨.of_same (flight := fun _ => .inl (by rw [flight]; rfl)), fun _ => rfl⟩
  all_goals cases e

/-- A request that is one event with its answer (R157, R166). -/
theorem State.Event.answer {u v : State} {cell : ReqNo} {r : Request} (e : s.nextRequest cell = some (r, u)) (h : u.Carries v)
    {st : Status} {res : Option ReqResult} : s.Event (s.endEvent (v.answer cell st res)) :=
  ((State.nextRequest_carries e).1.trans (h.trans (v.answer_carries cell st res))).endEvent

/-- A request that is not answered at once. -/
theorem State.Event.request {u v : State} {cell : ReqNo} {r : Request} (e : s.nextRequest cell = some (r, u)) (h : u.Carries v)
    (recent : v.port.recent = u.port.recent := by rfl) : s.Event v := by
  refine ((State.nextRequest_carries e).1.trans h).event (recent.trans ?_)
  unfold State.nextRequest at e
  split at e
  · split at e <;> cases e
    rfl
  all_goals cases e

theorem State.acceptFormat_recent (s : State) (cell : ReqNo) (k n : Nat) (e : BitVec 32) : (s.acceptFormat cell k n e).port.recent = s.port.recent := by
  simp [State.acceptFormat, State.setFill, State.issueWrite]

theorem execFormat_upholds (cell : ReqNo) (e : execFormat cell s = .next t) : s.Upholds t := by
  unfold execFormat at e
  refine State.Event.after_settled ?_
  generalize s.settled = s at *
  dsimp only at e
  split at e
  · rename_i next
    split at e <;> cases e
    · exact .answer next (.refl _)
    · exact .request next (.of_keeps (State.acceptFormat_keeps _ _ _ _ _) (State.acceptFormat_follows _ _ _ _ _)) (State.acceptFormat_recent _ _ _ _ _)
  · cases e

theorem execSetClass_upholds (cell : ReqNo) (e : execSetClass cell s = .next t) : s.Upholds t := by
  unfold execSetClass at e
  refine State.Event.after_settled ?_
  generalize s.settled = s at *
  dsimp only at e
  split at e
  · rename_i next
    split at e <;> cases e
    · exact .answer next .of_same
    · exact .answer next (.refl _)
  · cases e

/-- An OPEN that passes its checks opens a FREE slot (check 2 of R34). -/
theorem State.free_of_checkOpen {slot cls addr size : Nat} {i : SlotNo} {c : ChunkClass} (h : s.checkOpen slot cls addr size = .ok (i, c)) :
    (s.slot i).state = .free := by
  unfold State.checkOpen at h
  split at h
  · cases h
  · split at h
    · cases h
    · split at h
      · cases h
      · rename_i free
        split at h
        · cases h
        · split at h <;> cases h
          simpa using free

theorem openWrites_lawful (i : SlotNo) (c : Slot) (h : Header) : ∀ w ∈ openWrites i c, w.lawful h = true := by
  simp only [openWrites, List.mem_append, List.mem_flatMap]
  rintro w (⟨n, -, hw⟩ | hw)
  · simp only [List.mem_cons, List.not_mem_nil, or_false] at hw
    rcases hw with rfl | rfl <;> rfl
  · simp only [List.mem_cons, List.not_mem_nil, or_false] at hw
    rcases hw with rfl | rfl | rfl | rfl | rfl | rfl | rfl | rfl <;> rfl

theorem State.openSlot_carries (s : State) (i : SlotNo) (cls : ChunkClass) (start addr size : Nat) (half : List Byte) (free : (s.slot i).state = .free) :
    s.Carries (s.openSlot i (.opened cls start addr size half)) := by
  have follows := s.openSlot_follows i cls start addr size half free
  have posted := (State.post_keeps (s.setSlot i (.opened cls start addr size half)) (openWrites_lawful i (.opened cls start addr size half) s.header)).posted
  unfold State.openSlot at *
  have header := State.post_header (s.setSlot i (.opened cls start addr size half)) (openWrites i (.opened cls start addr size half))
  have time := State.post_time (s.setSlot i (.opened cls start addr size half)) (openWrites i (.opened cls start addr size half))
  have sweep := State.post_sweep (s.setSlot i (.opened cls start addr size half)) (openWrites i (.opened cls start addr size half))
  exact ⟨follows, header, by rw [time]; rfl, by rw [sweep]; exact .inl, by rw [sweep]; exact .inl, posted⟩

theorem execOpenStream_upholds (cell : ReqNo) (half : List Byte) (e : execOpenStream cell half s = .next t) : s.Upholds t := by
  unfold execOpenStream at e
  refine State.Event.after_settled ?_
  generalize s.settled = s at *
  dsimp only at e
  split at e
  · rename_i next
    split at e
    · cases e; exact .answer next (.refl _)
    · rename_i check
      split at e <;> cases e
      have free := State.free_of_checkOpen check
      rw [← (State.nextRequest_carries next).2] at free
      exact .answer next (State.openSlot_carries _ _ _ _ _ _ _ free)
  · cases e

theorem execClose_upholds (cell : ReqNo) (e : execClose cell s = .next t) : s.Upholds t := by
  unfold execClose at e
  refine State.Event.after_settled ?_
  generalize s.settled = s at *
  dsimp only at e
  split at e
  · rename_i next
    split at e
    · cases e; exact .answer next (.refl _)
    · split at e
      · cases e; exact .answer next (.refl _)
      · obtain rfl := Host.Outcome.next.inj e
        exact .answer next (.of_keeps (State.closeStream_keeps _ _ _) (State.closeStream_follows _ _ _))
  · cases e

theorem execAbort_upholds (cell : ReqNo) (e : execAbort cell s = .next t) : s.Upholds t := by
  unfold execAbort at e
  refine State.Event.after_settled ?_
  generalize s.settled = s at *
  dsimp only at e
  split at e
  · rename_i next
    split at e
    · cases e; exact .answer next (.refl _)
    · split at e <;> cases e
      · exact .answer next (.of_keeps ((State.enterAborting_keeps _ _ _).trans (State.refresh_keeps _ _))
          ((State.enterAborting_follows _ _ _).trans (State.refresh_follows _ _)))
      · exact .answer next (.refl _)
  · cases e

theorem execRelease_upholds (cell : ReqNo) (e : execRelease cell s = .next t) : s.Upholds t := by
  unfold execRelease at e
  refine State.Event.after_settled ?_
  generalize s.settled = s at *
  dsimp only at e
  split at e
  · rename_i next
    split at e
    · cases e; exact .answer next (.refl _)
    · split at e <;> obtain rfl := Host.Outcome.next.inj e
      · exact .answer next (.of_keeps (State.releaseSlot_keeps _ _) (State.releaseSlot_follows _ _))
      · exact .answer next (.of_keeps (State.releaseSlot_keeps _ _) (State.releaseSlot_follows _ _))
      all_goals exact .answer next (.refl _)
  · cases e

theorem execSeed_upholds (cell : ReqNo) (e : execSeed cell s = .next t) : s.Upholds t := by
  unfold execSeed at e
  refine State.Event.after_settled ?_
  generalize s.settled = s at *
  dsimp only at e
  split at e
  · rename_i next
    split at e
    · cases e; exact .answer next (.refl _)
    · split at e
      · cases e; exact .answer next (.refl _)
      · split at e <;> cases e
        · exact .answer next (.refl _)
        · exact .request next .of_same
  · cases e

theorem execRetire_upholds (cell : ReqNo) (e : execRetire cell s = .next t) : s.Upholds t := by
  unfold execRetire at e
  refine State.Event.after_settled ?_
  generalize s.settled = s at *
  dsimp only at e
  split at e
  · rename_i next
    split at e <;> cases e
    · exact .answer next (.refl _)
    · exact .request next .of_same
  · cases e

theorem execSetEpoch_upholds (cell : ReqNo) (e : execSetEpoch cell s = .next t) : s.Upholds t := by
  unfold execSetEpoch at e
  refine State.Event.after_settled ?_
  generalize s.settled = s at *
  dsimp only at e
  split at e
  · rename_i next
    split at e
    · cases e; exact .answer next (.refl _)
    · split at e <;> cases e
      · exact .answer next (.refl _)
      · exact .request next .of_same
  · cases e

theorem execSnapshotSlot_upholds (cell : ReqNo) (e : execSnapshotSlot cell s = .next t) : s.Upholds t := by
  unfold execSnapshotSlot at e
  refine State.Event.after_settled ?_
  generalize s.settled = s at *
  dsimp only at e
  split at e
  · rename_i next
    split at e
    · cases e
    · split at e
      · cases e; exact .answer next (.refl _)
      · split at e <;> cases e
        · exact .answer next (.refl _)
        · refine .answer next (.of_keeps (State.post_keeps _ ?_) (State.post_stats_follows _ _ _))
          simp [HostWrite.lawful]
  · cases e

theorem execSnapshotEngine_upholds (cell : ReqNo) (e : execSnapshotEngine cell s = .next t) : s.Upholds t := by
  unfold execSnapshotEngine at e
  refine State.Event.after_settled ?_
  generalize s.settled = s at *
  dsimp only at e
  split at e
  · rename_i u next
    split at e <;> cases e
    refine .answer next (.trans (t := { u with index := { u.index with error := false } }) .of_same (.of_keeps (State.post_keeps _ ?_) (State.post_apart_follows _ ?_)))
    · simp [HostWrite.lawful]
    · simp [HostWrite.apart]
  · cases e

theorem execUnknownRequest_upholds (cell : ReqNo) (e : execUnknownRequest cell s = .next t) : s.Upholds t := by
  unfold execUnknownRequest at e
  refine State.Event.after_settled ?_
  generalize s.settled = s at *
  dsimp only at e
  split at e
  · rename_i next
    cases e; exact .answer next (.refl _)
  · cases e

end Sys2Proof.Machine

namespace Sys2Proof.Machine

set_option Elab.async false

variable {s t : State}

/-! ### What each command carries on: the Sweep Unit and the Timebase (chapter 8) -/

theorem execSlotHostHalfTaken_upholds (i : SlotNo) (post : BitVec 32) (half : List Byte) (e : execSlotHostHalfTaken i post half s = .next t) :
    s.Upholds t := by
  unfold execSlotHostHalfTaken at e
  refine State.Event.after_settled ?_
  generalize s.settled = s at *
  dsimp only at e
  split at e
  · rename_i j left flight
    have taken : s.Carries { s with sweep := { s.sweep with flight := some (.slots left) } } := .of_same (flight := fun _ => .inl (by rw [flight]; rfl))
    split at e
    · split at e
      · cases e; exact taken.event
      · split at e <;> cases e
        exact (taken.trans (.of_keeps (State.takeHostHalf_keeps _ i half) (State.takeHostHalf_follows _ i half))).endEvent
    · cases e
  all_goals cases e

theorem execRequestTableRead_upholds (table : List (List Byte)) (e : execRequestTableRead table s = .next t) : s.Upholds t := by
  unfold execRequestTableRead at e
  refine State.Event.after_settled ?_
  generalize s.settled = s at *
  dsimp only at e
  split at e
  · rename_i flight
    split at e
    · cases e
    · split at e <;> cases e
      exact (State.Carries.of_same (flight := fun _ => .inl (by rw [flight]; rfl))).event
  all_goals cases e

/-- The Consumed Offsets written at a sweep's end (R46, R159). -/
theorem State.writeConsumedAll_carries (s : State) : s.Carries s.writeConsumedAll := by
  have follows := s.writeConsumedAll_follows
  have lawful (w : HostWrite) (hw : w ∈ (List.finRange 1024).filterMap s.consumedWrite) : w.lawful s.header = true := by
    obtain ⟨j, -, k⟩ := List.mem_filterMap.1 hw
    unfold State.consumedWrite at k
    split at k <;> cases k
    rfl
  have kept := s.post_keeps lawful
  rw [s.writeConsumedAll_eq] at follows ⊢
  exact ⟨follows, kept.header, by exact congrArg Timebase.running kept.time, by dsimp only; rw [kept.sweep]; exact .inl,
    by dsimp only; rw [kept.sweep]; exact .inl,
    kept.posted⟩

theorem State.closeSweep_carries (s : State) (map : List Byte) (flight : s.sweep.flight.isSome = true) : s.Carries (s.closeSweep map) := by
  unfold State.closeSweep
  dsimp only
  split
  · exact .of_same (flight := fun _ => .inl flight) (remembered := by simp [State.startSweep])
  · exact .of_same (flight := by simp) (remembered := by simp)

theorem execSweepEnd_upholds (map : List Byte) (e : execSweepEnd map s = .next t) : s.Upholds t := by
  unfold execSweepEnd at e
  refine State.Event.after_settled ?_
  generalize s.settled = s at *
  dsimp only at e
  split at e
  · cases e
  · rename_i ended
    have flight : s.sweep.flight.isSome = true := by
      unfold State.sweepOver at ended
      split at ended <;> simp_all
    split at e <;> cases e
    have written : s.Carries s.evaluateFill.writeConsumedAll := (State.Carries.of_keeps s.evaluateFill_keeps s.evaluateFill_follows).trans
      (State.writeConsumedAll_carries _)
    have sweep : s.evaluateFill.writeConsumedAll.sweep = s.sweep := by
      rw [State.writeConsumedAll_eq]
      exact (State.post_sweep _ _).trans s.evaluateFill_keeps.sweep
    generalize s.evaluateFill.writeConsumedAll = u at written sweep
    have live : u.Carries (u.post [.recordLive u.liveFields]) :=
      .of_keeps (u.post_keeps (by simp [HostWrite.lawful])) (u.post_apart_follows (by simp [HostWrite.apart]))
    exact ((written.trans live).trans (State.closeSweep_carries _ map (by rw [State.post_sweep, sweep]; exact flight))).issued

theorem execSweepNow_upholds (v : BitVec 32) (map : List Byte) (e : execSweepNow v map s = .next t) : s.Upholds t := by
  unfold execSweepNow at e
  refine State.Event.after_settled ?_
  generalize s.settled = s at *
  dsimp only at e
  split at e
  · cases e; exact .refl _
  · rename_i may
    have may : s.mayWrite = true := by simpa using may
    repeat' split at e
    all_goals cases e
    all_goals exact (State.Carries.of_same (flight := fun _ => .inr may) (remembered := fun _ => .inr may)).event

theorem execSweepCountdownExpiry_upholds (map : List Byte) (e : execSweepCountdownExpiry map s = .next t) : s.Upholds t := by
  unfold execSweepCountdownExpiry at e
  refine State.Event.after_settled ?_
  generalize s.settled = s at *
  dsimp only at e
  split at e
  · cases e
  · rename_i waits
    have may : s.mayWrite = true := by
      by_contra k
      exact waits (.inl (by simpa using k))
    split at e
    · cases e; exact .refl _
    · split at e <;> cases e
      exact (State.Carries.of_same (flight := fun _ => .inr may)).event

/-- A tick at a slot changes its countdown alone. -/
theorem Slot.tick_eq (c : Slot) : ∃ n, c.tick = { c with idle := n } := by
  unfold Slot.tick
  split
  · exact ⟨_, rfl⟩
  · exact ⟨c.idle, rfl⟩

/-- A tick makes idle expiries due, in RUNNING alone; what else a command carries on it carries on (R41, R42, R152). -/
theorem State.tick_upholds (s : State) (recent : s.port.recent = 0) : s.Upholds s.tick := by
  have slot (i : SlotNo) : ∃ n, s.tick.slot i = { s.slot i with idle := n } := by
    unfold State.tick State.slot
    dsimp only
    split
    · rw [get_mapVector]; exact Slot.tick_eq _
    · exact ⟨_, rfl⟩
  have may : s.tick.mayWrite = s.mayWrite := rfl
  refine ⟨fun h i => ?_, fun h => ?_, fun h => ?_, [], by simp [State.tick], by simp [State.tick, recent], by simp, by simp⟩
  · obtain ⟨n, e⟩ := slot i
    rw [e]
    exact h i
  · refine ⟨h.starting_stopped, h.cause_faulted, h.timebase, h.flight_writes, h.remembered_writes, fun i due => ?_⟩
    by_contra stopped
    replace stopped : ¬ s.ctl.engine = .running := stopped
    refine stopped (h.due_running i ?_)
    have same : s.tick.slot i = s.slot i := by
      unfold State.tick State.slot
      dsimp only
      rw [if_neg stopped]
    rwa [same] at due
  · refine ⟨fun m i d => ?_, fun m => h.ready m, fun i free => ?_⟩
    · obtain ⟨n, e⟩ := slot i
      obtain ⟨x, shown⟩ := h.halves m i d
      exact ⟨x, by rw [e]; exact shown⟩
    · obtain ⟨n, e⟩ := slot i
      rw [e] at free ⊢
      exact h.free_reason i free

/-! ### What each command carries on: the lanes and the Index Unit (chapters 3, 4, 5 and 7) -/

theorem State.setLane_carries (s : State) (n : LaneNo) (l : Lane) : s.Carries (s.setLane n l) := .of_same

theorem execLaneTakesSlot_upholds (n : LaneNo) (e : execLaneTakesSlot n s = .next t) : s.Upholds t := by
  unfold execLaneTakesSlot at e
  refine State.Event.after_settled ?_
  generalize s.settled = s at *
  dsimp only at e
  split at e
  · split at e
    · cases e
    · rename_i i rest _
      have left : s.Carries { s with runList := rest } := .of_same
      split at e <;> cases e
      · exact (left.trans ((State.setLane_carries _ n _).trans (.of_keeps (State.continueTurn_keeps _ n) (State.continueTurn_follows _ n)))).endEvent
      · exact left.event
  · cases e

theorem execSegmentReadComplete_upholds (id : ReadId) (data : List Byte) (e : execSegmentReadComplete id data s = .next t) : s.Upholds t := by
  unfold execSegmentReadComplete at e
  refine State.Event.after_settled ?_
  generalize s.settled = s at *
  cases id with
  | lane n =>
    dsimp only at e
    split at e
    · cases e
    · split at e <;> cases e
      exact (((s.setLane_carries n _).trans (.of_keeps (State.takeBytes_keeps _ n _ data) (State.takeBytes_follows _ n _ data))).trans
        (.of_keeps (State.continueTurn_keeps _ n) (State.continueTurn_follows _ n))).endEvent
  | lost =>
    dsimp only at e
    split at e <;> cases e
    exact (State.Carries.of_same).event
  | sweep => cases e
  | openHalf => cases e
  | start => cases e

theorem State.offer_event {a : Source} {op : Op} (e : s.offer a = some (op, t)) : s.Event t := by
  cases a <;> simp only [State.offer] at e <;> split at e <;> cases e
  · rename_i l rest _
    refine State.Carries.event (.trans (t := { s with lookups := rest }) .of_same ?_)
    exact .of_keeps (State.editSlot_keeps _ .of_same) (State.editSlot_follows _ .of_same)
  all_goals exact (State.Carries.of_same).event

theorem execOperationAccepted_upholds (e : execOperationAccepted s = .next t) : s.Upholds t := by
  unfold execOperationAccepted at e
  refine State.Event.after_settled ?_
  generalize s.settled = s at *
  dsimp only at e
  split at e
  · cases e
  · split at e
    · cases e
    · split at e <;> cases e
      rename_i offered
      exact (State.offer_event offered).trans (State.Carries.of_same).event

theorem State.complete_upholds (key : OpKey) (ecc : Vector Ecc 16) (e : s.settled.complete key ecc = .next t) : s.Upholds t := by
  refine State.Event.after_settled ?_
  generalize s.settled = s at *
  unfold State.complete at e
  split at e <;> cases e
  exact (State.Carries.of_keeps (s.carryOut_keeps _ _) (s.carryOut_follows _ _)).endEvent

theorem execWaiterRemoval_upholds (i : SlotNo) (o : Nat) (e : execWaiterRemoval i o s = .next t) : s.Upholds t := by
  unfold execWaiterRemoval at e
  refine State.Event.after_settled ?_
  generalize s.settled = s at *
  dsimp only at e
  split at e
  · cases e; exact .refl _
  · split at e <;> cases e
    · exact (State.Carries.of_keeps ((s.discardWaiter_keeps _ _).trans (State.refresh_keeps _ _))
        ((s.discardWaiter_follows _ _).trans (State.refresh_follows _ _))).endEvent
    · exact (State.Carries.of_same).event

theorem execFormatClear_upholds (e : execFormatClear s = .next t) : s.Upholds t := by
  unfold execFormatClear at e
  refine State.Event.after_settled ?_
  generalize s.settled = s at *
  dsimp only at e
  split at e
  · cases e
  · split at e <;> cases e
    exact (State.Carries.of_same).event

/-- A descriptor write that is read back whole (R78, R79, R87, R143). -/
theorem State.writeDone_carries (s : State) (w : DescWrite) (rest : List DescWrite) : s.Carries (s.writeDone w rest) := by
  unfold State.writeDone
  dsimp only
  split
  · exact (State.Carries.of_same (s := s)).trans (.of_keeps (State.resumeAll_keeps _) (State.resumeAll_follows _))
  · exact (State.Carries.of_same (s := s)).trans (State.answer_carries _ _ _ _)
  · exact .of_same
  · split
    · exact .of_same
    · exact (State.Carries.of_same (s := s)).trans (State.answer_carries _ _ _ _)

/-- The passage to FAULTED: the port takes no more writes, and no idle expiry is due (R152, R155, R174). -/
theorem State.Event.upholds_enterFaulted {u : State} (h : s.Event u) (r : s.Recent u) (settled : u.Settled) (cause : FaultCause) (real : cause ≠ .none) :
    s.Upholds (u.enterFaulted cause) := by
  by_cases faulted : u.ctl.engine = .faulted
  · rw [State.enterFaulted_of_faulted faulted]
    exact h.upholds r
  · obtain ⟨spec, -⟩ := u.enterFaulted_spec cause faulted
    generalize u.enterFaulted cause = t at spec
    have silent : t.mayWrite = false := by rw [spec]; rfl
    refine h.upholds_of r (fun k => ?_) (by simp [silent]) (by rw [spec]) (by rw [spec]) (by rw [spec]) (by rw [spec]) (by rw [spec]) (by rw [spec])
    have engine : t.ctl.engine = .faulted := by rw [spec]
    refine ⟨?_, ?_, ?_, ?_, ?_, fun i due => ?_⟩
    · rw [spec]; simp
    · rw [spec]; simpa using real
    · rw [silent, spec]
    · rw [spec]; simp
    · rw [spec]; simp
    · have same : t.slot i = u.slot i := by rw [spec]; rfl
      rw [same, settled i] at due
      cases due

theorem execDescriptorWriteComplete_upholds (ecc : Ecc) (e : execDescriptorWriteComplete ecc s = .next t) : s.Upholds t := by
  unfold execDescriptorWriteComplete at e
  have begins := s.settled_event
  have recent := s.settled_recent_after
  have settled := s.settled_settled
  generalize s.settled = u at *
  dsimp only at e
  split at e
  · cases e
  · split at e
    · cases e
    · rename_i w rest _
      split at e <;> cases e
      · have ends := (u.writeDone_carries w rest).endEvent
        exact (begins.trans ends).upholds (recent.trans ends)
      · have ends := ((State.Carries.of_keeps (u.editStats_keeps _) .of_same).trans
          (State.writeDone_carries (u.editStats fun t => { t with corrected := sat32 (t.corrected + 1) }) w rest)).endEvent
        exact (begins.trans ends).upholds (recent.trans ends)
      · have lost : u.Event { u with mem := { u.mem with desc := w.desc }, index := { u.index with writeFailed := true } } := (State.Carries.of_same).event
        exact (begins.trans lost).upholds_enterFaulted (recent.trans lost) settled _ (by simp)

theorem State.failSweep_upholds {u : State} (h : s.Event u) (r : s.Recent u) (settled : u.Settled) : s.Upholds u.failSweep := by
  have ended : u.Event { u with sweep := { u.sweep with flight := none } } := (State.Carries.of_same (flight := by simp)).event
  exact (h.trans ended).upholds_enterFaulted (r.trans ended) settled _ (by simp)

theorem State.failRead_upholds (id : ReadId) (e : s.settled.failRead id = .next t) : s.Upholds t := by
  have begins := s.settled_event
  have recent := s.settled_recent_after
  have settled := s.settled_settled
  generalize s.settled = u at *
  cases id with
  | lane n =>
    simp only [State.failRead] at e
    split at e <;> cases e
    have cleared : u.Event (u.clearRead n) := (u.setLane_carries n _).event
    exact (begins.trans cleared).upholds_enterFaulted (recent.trans cleared) settled _ (by simp)
  | sweep =>
    simp only [State.failRead] at e
    split at e <;> cases e
    exact State.failSweep_upholds begins recent settled
  | openHalf =>
    simp only [State.failRead] at e
    split at e <;> cases e
    exact State.failSweep_upholds begins recent settled
  | start =>
    simp only [State.failRead] at e
    split at e <;> cases e
    refine begins.upholds_of recent (fun k => ?_) id
    have k := begins.carries.control k
    exact { k with starting_stopped := by simp [State.failStart] }
  | lost =>
    simp only [State.failRead] at e
    split at e <;> cases e
    have dropped : u.Event u.dropLostRead := (State.Carries.of_same).event
    exact (begins.trans dropped).upholds (recent.trans dropped)

end Sys2Proof.Machine

namespace Sys2Proof.Machine

set_option Elab.async false

variable {s t : State}

/-! ### What each command carries on: the Recipe Writer (R119) -/

/-- A stream whose head may be emitted is ACTIVE, and its recipe area has room (R27, R117). -/
theorem Slot.active_of_emittable {c : Slot} {x : PendingChunk × Verdict × Nat × Cause} (h : c.emittable = some x) :
    c.state = .active ∧ c.written - c.taken < c.areaSize := by
  unfold Slot.emittable at h
  split at h
  · cases h
  · split at h
    · split at h
      · assumption
      · cases h
    · cases h
    · cases h

/-- The laws of the Engine Controller, where it, the Timebase and the sweep stand and no further expiry is due. -/
theorem State.ControlOk.of_same (k : s.ControlOk) (ctl : t.ctl = s.ctl) (time : t.time = s.time) (sweep : t.sweep = s.sweep)
    (due : ∀ i, (t.slot i).idleDue = true → (s.slot i).idleDue = true) : t.ControlOk where
  starting_stopped := by rw [ctl]; exact k.starting_stopped
  cause_faulted := by rw [ctl]; exact k.cause_faulted
  timebase := by rw [time, State.mayWrite, ctl]; exact k.timebase
  flight_writes := by rw [sweep, State.mayWrite, ctl]; exact k.flight_writes
  remembered_writes := by rw [sweep, State.mayWrite, ctl]; exact k.remembered_writes
  due_running := fun i d => by rw [ctl]; exact k.due_running i (due i d)

/-- An emission: its recipe entry is in the recipe area of an ACTIVE stream, the slot that no expiry has touched (R42, R117, R119). -/
theorem execEmission_upholds (i : SlotNo) (e : execEmission i s = .next t) : s.Upholds t := by
  unfold execEmission at e
  have begins := s.settled_event
  have same (live : (s.settled.slot i).state.isLive = true) : s.settled.slot i = s.slot i := s.settled_slot_of_live live
  generalize s.settled = u at *
  dsimp only at e
  split at e
  · rename_i p v n cause ready
    split at e
    · rename_i m
      obtain rfl := Host.Outcome.next.inj e
      obtain ⟨active, room⟩ := Slot.active_of_emittable ready
      have same := same (by rw [active]; rfl)
      generalize entry : HostWrite.recipe ((u.slot i).entryAddr p.ordinal) (recipeOf p v n cause) = w
      have follows := (u.emit_follows i p v n cause).trans (u.endEvent_follows_after _)
      have keeps : (u.post [w]).Keeps (u.notify (u.emit i p v n cause)) := by
        have k := u.emit_keeps i p v n cause ready
        rw [entry] at k
        unfold State.notify
        split
        · exact k
        · exact k.trans (State.testDue_keeps _)
      have ends : u.endEvent (u.emit i p v n cause) = u.issued (u.notify (u.emit i p v n cause)) := rfl
      rw [ends] at follows ⊢
      generalize u.notify (u.emit i p v n cause) = x at follows keeps ⊢
      have ctl : x.ctl = u.ctl := keeps.ctl.trans (u.post_ctl _)
      have header : x.header = u.header := keeps.header.trans (u.post_header _)
      refine ⟨follows.decided ∘ begins.carries.follows.decided, fun k => ?_, follows.shown ∘ begins.carries.follows.shown, ?_⟩
      · exact (begins.carries.control k).of_same ctl (keeps.time.trans (u.post_time _)) (keeps.sweep.trans (u.post_sweep _)) follows.due
      · obtain ⟨ws, first, silent, lawful⟩ := begins.carries.posted
        obtain ⟨vs, later, -, lawful'⟩ := keeps.posted
        have posted : x.port.posted = u.port.posted ++ (Posted.mk u.ctl.area w :: vs) := by
          rw [later, u.post_of_mayWrite _ m]; simp
        have area : x.ctl.area = s.ctl.area := by rw [ctl, begins.carries.follows.ctl]
        refine ⟨ws ++ Posted.mk u.ctl.area w :: vs, by rw [← List.append_assoc, ← first]; exact posted, ?_, fun k => ?_, fun z hz => ?_⟩
        · simp only [State.issued, posted, List.length_append]; omega
        · rw [begins.carries.mayWrite, k] at m; cases m
        · rw [← area] at lawful
          rw [u.post_header, u.post_ctl, ← ctl] at lawful'
          rcases List.mem_append.1 hz with hz | hz
          · obtain ⟨law, at'⟩ := lawful z hz
            refine ⟨at', (HostWrite.owned_of_lawful law z.area).imp_right fun e => .inr ?_⟩
            rw [e, ← begins.carries.header, ← header]; rfl
          · rcases List.mem_cons.1 hz with rfl | hz
            · refine ⟨by rw [← ctl]; rfl, .inr (.inl ⟨i, recipeOf p v n cause, p.ordinal % (s.slot i).areaSize, ?_, ?_, ?_, ?_⟩)⟩
              · rw [← entry, Slot.entryAddr, same]
              · exact Nat.mod_lt _ (by rw [← same]; omega)
              · rw [← same]; exact active
              · rw [← entry]; exact RecipeEntry.length_bytes _
            · obtain ⟨law, at'⟩ := lawful' z hz
              refine ⟨at', (HostWrite.owned_of_lawful law z.area).imp_right fun e => .inr ?_⟩
              rw [e, ← header]; rfl
    · cases e
  · cases e

end Sys2Proof.Machine

namespace Sys2Proof.Machine

set_option Elab.async false

variable {s t : State}

/-! ### What each command carries on: the Engine Controller (chapter 10) -/

/-- The writes of a START leave every device half as the context holds it, and every word of the Ready Map (R172). -/
theorem State.startWrites_shown (s : State) (table : List (List Byte)) (area : Nat) :
    (∀ i d, shownHalf i (s.port.posted ++ (s.startWrites table).map (Posted.mk area)) d = (s.slot i).deviceHalf) ∧
    ∀ word, word < 32 → shownWord word (s.port.posted ++ (s.startWrites table).map (Posted.mk area)) = some (readyWord s.notice.ready word) := by
  refine ⟨fun i d => ?_, fun word lt => ?_⟩
  · have tags (w : HostWrite) (hw : w ∈ s.suppliedTags table) (d : DeviceHalf) : w.show i d = d := by
      obtain ⟨n, -, k⟩ := List.mem_filterMap.1 hw
      split at k <;> cases k
      rfl
    have words (w : HostWrite) (hw : w ∈ (List.range 32).map fun w => HostWrite.readyWord w (readyWord s.notice.ready w)) (d : DeviceHalf) :
        w.show i d = d := by
      obtain ⟨n, -, rfl⟩ := List.mem_map.1 hw
      rfl
    have halves := showAll_filterMap i (fun j => some (HostWrite.deviceHalf j (s.slot j).deviceHalf)) (fun j w e => by cases e; simp [HostWrite.aside])
      (List.finRange 1024) (List.nodup_finRange 1024) (shownHalf i s.port.posted d)
    rw [if_pos (List.mem_finRange i), ← Function.comp_def some, List.filterMap_eq_map] at halves
    rw [shownHalf_append, State.startWrites]
    have split (xs ys : List HostWrite) (d : DeviceHalf) : showAll i (xs ++ ys) d = showAll i ys (showAll i xs d) := by simp [showAll]
    rw [split, split, showAll_of_same words, showAll_of_same tags, halves]
    simp [HostWrite.show]
  · rw [State.startWrites, List.map_append, ← List.append_assoc, shownWord_words, if_pos lt]

/-- They are of bytes that the engine owns (R148, R149). -/
theorem State.startWrites_lawful (s : State) (table : List (List Byte)) (h : Header) : ∀ w ∈ s.startWrites table, w.lawful h = true := by
  simp only [State.startWrites, List.mem_append, List.mem_map]
  rintro w ((hw | ⟨i, -, rfl⟩) | ⟨n, lt, rfl⟩)
  · obtain ⟨n, -, k⟩ := List.mem_filterMap.1 hw
    split at k <;> cases k
    rfl
  · rfl
  · simpa [HostWrite.lawful] using List.mem_range.1 lt

/-- A START that completes: from STOPPED to RUNNING, with the Timebase, and the host shown everything anew (R170, R172). -/
theorem State.completeStart_upholds (s : State) (h : Header) (table : List (List Byte)) (starting : s.ctl.starting = true) :
    (s.StatesDecided → (s.completeStart h table).StatesDecided) ∧ (s.ControlOk → (s.completeStart h table).ControlOk) ∧
    (s.ShownOk → (s.completeStart h table).ShownOk) ∧
    ∃ ws : List Posted, (s.completeStart h table).port.posted = s.port.posted ++ ws ∧
      ∀ w ∈ ws, w.write.lawful (s.completeStart h table).header = true ∧ w.area = (s.completeStart h table).ctl.area := by
  obtain ⟨u, ls, complete, spec, runs⟩ := s.completeStart_eq h table
  have slot (i : SlotNo) : u.slot i = { s.slot i with shown := (s.slot i).consumed } := by
    rw [spec]
    exact get_mapVector (fun c : Slot => ({ c with shown := c.consumed } : Slot)) s.slots i
  have engine : u.ctl.engine = .running := by rw [spec]
  have may : u.mayWrite = true := by simp [State.mayWrite, engine]
  have posted : u.port.posted = s.port.posted ++ (s.startWrites table).map (Posted.mk u.ctl.area) := by rw [spec]
  have follows := u.testDue_follows
  rw [complete]
  refine ⟨fun k => follows.decided fun i => ?_, fun k => State.ControlOk.of_same (s := u) ?_ u.testDue_keeps.ctl u.testDue_keeps.time u.testDue_keeps.sweep follows.due,
    fun k => follows.shown ⟨fun _ i d => ?_, fun _ word lt => ?_, fun i => ?_⟩, ?_⟩
  · rw [slot]; exact k i
  · refine ⟨by rw [spec]; simp, ?_, runs.trans may.symm, fun _ => may, fun _ => may, fun _ _ => engine⟩
    have stopped := k.starting_stopped starting
    have cause : s.ctl.faultCause = .none := by
      by_contra c
      simp [k.cause_faulted.1 c] at stopped
    rw [spec]; simp [cause]
  · rw [posted, (s.startWrites_shown table _).1 i d, slot]
    exact ⟨(s.slot i).stats, rfl⟩
  · rw [posted, (s.startWrites_shown table _).2 word lt, spec]
  · rw [slot]; exact k.free_reason i
  · obtain ⟨ws, more, -, lawful⟩ := u.testDue_keeps.posted
    refine ⟨(s.startWrites table).map (Posted.mk u.ctl.area) ++ ws, by rw [more, posted, List.append_assoc], fun w hw => ?_⟩
    rw [u.testDue_keeps.header, u.testDue_keeps.ctl]
    rcases List.mem_append.1 hw with hw | hw
    · obtain ⟨v, hv, rfl⟩ := List.mem_map.1 hw
      exact ⟨s.startWrites_lawful table _ v hv, rfl⟩
    · exact lawful w hw

/-- A command that upholds the laws, whatever it writes where the engine may not. -/
structure State.Commanded (c : Instr) (s t : State) : Prop where
  decided : s.StatesDecided → t.StatesDecided
  control : s.ControlOk → t.ControlOk
  shown : s.ShownOk → t.ShownOk
  writes : ∃ ws : List Posted, t.port.posted = s.port.posted ++ ws ∧ t.port.recent ≤ ws.length ∧
    ((s.mayWrite = false ∧ ∀ h b, c ≠ .startComplete h b) → ws = []) ∧
    ∀ w ∈ ws, w.area = t.ctl.area ∧
      (w.write.Owned w.area ∨
        (∃ (i : SlotNo) (e : RecipeEntry) (n : Nat), w.write = .recipe ((s.slot i).areaAddr + 64 * n) e ∧ n < (s.slot i).areaSize ∧
          (s.slot i).state = .active ∧ w.write.bytes.length = 64) ∨
        w.write = .notice t.header.noticeAddress t.header.noticeWord)

theorem State.Upholds.commanded (c : Instr) (h : s.Upholds t) : s.Commanded c t := by
  obtain ⟨ws, posted, recent, silent, owned⟩ := h.writes
  exact ⟨h.decided, h.control, h.shown, ws, posted, recent, fun k => silent k.1, owned⟩

theorem execStartComplete_commanded (header : List Byte) (table : List (List Byte)) (e : execStartComplete header table s = .next t) :
    s.Commanded (.startComplete header table) t := by
  unfold execStartComplete at e
  have failed (x : StartError) : s.Upholds (s.begun.failStart x) := s.begun_event.upholds_of le_rfl
    (fun k => { k with starting_stopped := by simp [State.failStart] }) id
  dsimp only at e
  split at e
  · cases e
  · rename_i starting
    have starting : s.begun.ctl.starting = true := by simpa using starting
    repeat' split at e
    all_goals cases e
    · exact (failed _).commanded _
    · exact (failed _).commanded _
    · obtain ⟨decided, control, shown, ws, posted, lawful⟩ := s.begun.completeStart_upholds (readHeader header) table starting
      generalize s.begun.completeStart (readHeader header) table = u at *
      have after := s.begun.issued_follows_after u
      refine ⟨after.decided ∘ decided ∘ s.begun_follows.decided, fun k => ?_, after.shown ∘ shown ∘ s.begun_follows.shown, ws, posted, ?_, ?_, fun w hw => ?_⟩
      · exact (control (s.begun_event.carries.control k)).of_same rfl rfl rfl after.due
      · simp [State.issued, posted]
      · rintro ⟨-, other⟩
        exact absurd rfl (other header table)
      · obtain ⟨law, at'⟩ := lawful w hw
        exact ⟨at', (HostWrite.owned_of_lawful law w.area).imp_right .inr⟩

theorem execStart_upholds (e : execStart s = .next t) : s.Upholds t := by
  unfold execStart at e
  dsimp only at e
  split at e
  · rename_i idle
    split at e <;> cases e
    · exact s.begun_event.upholds_of le_rfl (fun k => { k with starting_stopped := fun _ => idle.1 }) id
    · exact s.begun_event.upholds_of le_rfl (fun k => { k with }) id
  · cases e; exact s.begun_event.upholds le_rfl

theorem execExchangeBase_upholds (first : Fin 8) (data : List Byte) (e : execExchangeBase first data s = .next t) : s.Upholds t := by
  unfold execExchangeBase at e
  dsimp only at e
  generalize replaceBytes _ _ _ = base at e
  split at e <;> cases e
  · exact s.begun_event.upholds_of le_rfl (fun k => { k with }) id
  · exact s.begun_event.upholds le_rfl

/-- In RUNNING and QUIESCING no START is in progress, and there is no fault cause (R170, R174). -/
theorem State.ControlOk.of_mayWrite (k : s.ControlOk) (m : s.mayWrite = true) : s.ctl.starting = false ∧ s.ctl.faultCause = .none := by
  constructor
  · by_contra x
    simp [State.mayWrite, k.starting_stopped (by simpa using x)] at m
  · by_contra x
    simp [State.mayWrite, k.cause_faulted.1 x] at m

theorem execQuiesce_upholds (e : execQuiesce s = .next t) : s.Upholds t := by
  unfold execQuiesce at e
  have begins := s.settled_event
  have recent := s.settled_recent_after
  have settled := s.settled_settled
  generalize s.settled = u at *
  dsimp only at e
  split at e <;> cases e
  · rename_i running
    have may : u.mayWrite = true := by simp [State.mayWrite, running]
    refine begins.upholds_of recent (fun k => ?_) fun _ => may
    have k := begins.carries.control k
    obtain ⟨idle, cause⟩ := k.of_mayWrite may
    refine ⟨by simp [idle], by simp [cause], k.timebase.trans may, fun _ => rfl, fun _ => rfl, fun i due => ?_⟩
    replace due : (u.slot i).idleDue = true := due
    rw [settled i] at due
    cases due
  · exact begins.upholds recent

theorem execEnterStopped_upholds (e : execEnterStopped s = .next t) : s.Upholds t := by
  unfold execEnterStopped at e
  have begins := s.settled_event
  have recent := s.settled_recent_after
  have settled := s.settled_settled
  generalize s.settled = u at *
  dsimp only at e
  split at e <;> cases e
  rename_i h
  obtain ⟨quiescing, drained⟩ := h
  have may : u.mayWrite = true := by simp [State.mayWrite, quiescing]
  have flight : u.sweep.flight = none := by
    by_contra k
    rw [State.drained_eq_false (.inl (Option.isSome_iff_ne_none.2 k))] at drained
    cases drained
  refine begins.upholds_of recent (fun k => ?_) (by simp [State.mayWrite])
  have k := begins.carries.control k
  obtain ⟨idle, cause⟩ := k.of_mayWrite may
  refine ⟨by simp [idle], by simp [cause], rfl, by simp [flight], by simp, fun i due => ?_⟩
  replace due : (u.slot i).idleDue = true := due
  rw [settled i] at due
  cases due

theorem execServingLevel_upholds (value : BitVec 32) (e : execServingLevel value s = .next t) : s.Upholds t := by
  cases e
  have held : s.settled.Carries { s.settled with notice := { s.settled.notice with serving := min value.toNat 7 } } := .of_same
  exact State.Event.after_settled (held.trans (.of_keeps (State.testDue_keeps _) (State.testDue_follows _))).issued

theorem execTick_upholds (e : execTick s = .next t) : s.Upholds t := by
  unfold execTick at e
  have begins := s.settled_event.carries
  have recent := s.settled_recent
  generalize s.settled = u at *
  dsimp only at e
  split at e <;> cases e
  obtain ⟨decided, control, shown, -⟩ := u.tick_upholds recent
  obtain ⟨ws, posted, silent, lawful⟩ := begins.posted
  refine ⟨decided ∘ begins.follows.decided, control ∘ begins.control, shown ∘ begins.follows.shown, ws, posted, ?_, silent, fun w hw => ?_⟩
  · simp [State.tick, recent]
  · obtain ⟨law, at'⟩ := lawful w hw
    refine ⟨at'.trans (congrArg Control.area begins.follows.ctl).symm, (HostWrite.owned_of_lawful law w.area).imp_right fun e => .inr ?_⟩
    rw [e, ← begins.header]; rfl

theorem State.abortStream_event (s : State) (i : SlotNo) (r : AbortReason) : s.Event (s.abortStream i r) ∧ s.Recent (s.abortStream i r) := by
  have k : s.Carries ((s.enterAborting i r).refresh i) := .of_keeps ((s.enterAborting_keeps i r).trans (State.refresh_keeps _ i))
    ((s.enterAborting_follows i r).trans (State.refresh_follows _ i))
  have ends := k.endEvent
  refine ⟨ends, ?_⟩
  have grown := ends.carries.length_le
  simp only [State.Recent, State.abortStream, State.endEvent, State.issued] at *
  omega

end Sys2Proof.Machine

namespace Sys2Proof.Machine

set_option Elab.async false

variable {s t : State}

/-! ### What each command carries on: all of them -/

theorem execIdleCountdownExpiry_upholds (i : SlotNo) (e : execIdleCountdownExpiry i s = .next t) : s.Upholds t := by
  unfold execIdleCountdownExpiry at e
  split at e
  · cases e
    obtain ⟨ends, recent⟩ := s.abortStream_event i .idle
    exact ends.upholds recent
  · split at e <;> cases e
    exact s.begun_event.upholds le_rfl

/-- A command that is no reset upholds the laws, and writes what the engine owns. -/
theorem exec_commanded (c : Instr) (reset : isReset c = false) (e : exec c s = .next t) : s.Commanded c t := by
  cases c with
  | powerOn => cases reset
  | linkReset point desc => cases reset
  | reset point desc => cases reset
  | startComplete header table => exact execStartComplete_commanded header table e
  | start => exact (execStart_upholds e).commanded _
  | quiesce => exact (execQuiesce_upholds e).commanded _
  | exchangeBase first data => exact (execExchangeBase_upholds first data e).commanded _
  | sweepNow value map => exact (execSweepNow_upholds value map e).commanded _
  | servingLevel value => exact (execServingLevel_upholds value e).commanded _
  | registerWriteIgnored offset value =>
    simp only [exec, execRegisterWriteIgnored] at e
    split at e <;> cases e
    exact (s.begun_event.upholds le_rfl).commanded _
  | tick => exact (execTick_upholds e).commanded _
  | sweepCountdownExpiry map => exact (execSweepCountdownExpiry_upholds map e).commanded _
  | idleCountdownExpiry slot => exact (execIdleCountdownExpiry_upholds slot e).commanded _
  | slotHostHalfTaken slot post half => exact (execSlotHostHalfTaken_upholds slot post half e).commanded _
  | requestTableRead table => exact (execRequestTableRead_upholds table e).commanded _
  | format cell => exact (execFormat_upholds cell e).commanded _
  | setClass cell => exact (execSetClass_upholds cell e).commanded _
  | openStream cell half => exact (execOpenStream_upholds cell half e).commanded _
  | close cell => exact (execClose_upholds cell e).commanded _
  | abort cell => exact (execAbort_upholds cell e).commanded _
  | release cell => exact (execRelease_upholds cell e).commanded _
  | seed cell => exact (execSeed_upholds cell e).commanded _
  | retire cell => exact (execRetire_upholds cell e).commanded _
  | setEpoch cell => exact (execSetEpoch_upholds cell e).commanded _
  | snapshotSlot cell => exact (execSnapshotSlot_upholds cell e).commanded _
  | snapshotEngine cell => exact (execSnapshotEngine_upholds cell e).commanded _
  | unknownRequest cell => exact (execUnknownRequest_upholds cell e).commanded _
  | sweepEnd map => exact (execSweepEnd_upholds map e).commanded _
  | laneTakesSlot lane => exact (execLaneTakesSlot_upholds lane e).commanded _
  | segmentReadComplete id data => exact (execSegmentReadComplete_upholds id data e).commanded _
  | hostReadFailure id => exact (State.failRead_upholds id e).commanded _
  | readTimeout id => exact (State.failRead_upholds id e).commanded _
  | operationAccepted => exact (execOperationAccepted_upholds e).commanded _
  | lookupInsertComplete slot ordinal ecc => exact (State.complete_upholds _ ecc e).commanded _
  | firmComplete record ecc => exact (State.complete_upholds _ ecc e).commanded _
  | withdrawComplete record ecc => exact (State.complete_upholds _ ecc e).commanded _
  | waiterRemoval slot ordinal => exact (execWaiterRemoval_upholds slot ordinal e).commanded _
  | seedComplete cell ecc => exact (State.complete_upholds _ ecc e).commanded _
  | retireComplete cell ecc => exact (State.complete_upholds _ ecc e).commanded _
  | scanComplete bucket ecc => exact (State.complete_upholds _ ecc e).commanded _
  | descriptorWriteComplete ecc => exact (execDescriptorWriteComplete_upholds ecc e).commanded _
  | formatClear => exact (execFormatClear_upholds e).commanded _
  | emission slot => exact (execEmission_upholds slot e).commanded _
  | enterStopped => exact (execEnterStopped_upholds e).commanded _

/-- The laws of slot states, engine control and what the host sees hold where every slot is fresh and the engine is in STOPPED with nothing running
(R25, R152, R154, R170). -/
theorem State.laws_of_reset (slots : s.slots = Vector.replicate 1024 .fresh) (engine : s.ctl.engine = .stopped) (cause : s.ctl.faultCause = .none)
    (time : s.time.running = false) (flight : s.sweep.flight = none) (remembered : s.sweep.remembered = false) :
    s.StatesDecided ∧ s.ControlOk ∧ s.ShownOk ∧ s.Settled := by
  have slot (i : SlotNo) : s.slot i = .fresh := by simp [State.slot, slots, Vector.get]
  have silent : s.mayWrite = false := by simp [State.mayWrite, engine]
  have settled : s.Settled := fun i => by rw [slot]; rfl
  refine ⟨fun i o => ?_, ⟨fun _ => engine, by simp [cause, engine], time.trans silent.symm, by simp [flight], by simp [remembered], fun i due => ?_⟩,
    ⟨by simp [silent], by simp [silent], fun i _ => by rw [slot]; rfl⟩, settled⟩
  · rw [slot] at o; cases o
  · rw [settled i] at due; cases due

theorem State.afterReset_laws (k : ResetKind) (index : IndexUnit) (mem : IndexMemory) (n : Nat) :
    (s.afterReset k index mem n).StatesDecided ∧ (s.afterReset k index mem n).ControlOk ∧ (s.afterReset k index mem n).ShownOk ∧
    (s.afterReset k index mem n).Settled :=
  State.laws_of_reset rfl rfl rfl rfl rfl rfl

/-- Every step upholds the laws: it is a command on the rest of the queue, an expiry, or a period of the reference clock. -/
theorem step_laws (next : step s = .next t) :
    (s.StatesDecided → t.StatesDecided) ∧ (s.ControlOk → t.ControlOk) ∧ (s.ShownOk → t.ShownOk) := by
  unfold step at next
  split at next
  · rename_i c rest _
    have taken : s.Carries { s with pending := rest } := .of_same
    cases reset : isReset c
    · have k := exec_commanded c reset next
      exact ⟨k.decided ∘ taken.follows.decided, k.control ∘ taken.control, k.shown ∘ taken.follows.shown⟩
    · obtain ⟨kind, index, mem, n, rfl⟩ := exec_reset reset next
      obtain ⟨decided, control, shown, -⟩ := State.afterReset_laws (s := { s with pending := rest }) kind index mem n
      exact ⟨fun _ => decided, fun _ => control, fun _ => shown⟩
  · cases next
    unfold State.period
    split
    · rename_i i _ _
      have k := (s.abortStream_event i .idle).1.carries
      exact ⟨k.follows.decided, k.control, k.follows.shown⟩
    · have passes : s.Carries { s with time := { s.time with prescaler := s.time.prescaler - 1 } } := .of_same
      have ticks := s.begun.tick_upholds rfl
      have begins := s.begun_event.carries
      repeat' split
      · exact ⟨id, id, id⟩
      · exact ⟨ticks.decided ∘ begins.follows.decided, ticks.control ∘ begins.control, ticks.shown ∘ begins.follows.shown⟩
      · exact ⟨passes.follows.decided, passes.control, passes.follows.shown⟩

/-- Settles O30: what R26 decides is read from the head's condition and the room, and every step keeps it, by `step_laws`. -/
theorem openStateIsDecided : Obligations.OpenStateIsDecided := by
  refine ⟨fun c => ⟨?_, ?_, ?_, ?_, ?_⟩, fun s t next => (step_laws next).1⟩
  · intro p ps r pending held
    simp [Slot.decided, pending, held]
  · intro p ps v n k pending resolved full
    simp [Slot.decided, pending, resolved, full]
  · intro p ps v n k pending resolved room
    simp [Slot.decided, pending, resolved, room]
  · intro p ps pending looking
    simp [Slot.decided, pending, looking]
  · intro pending
    simp [Slot.decided, pending]

/-- Settles O54: `step_laws`, of which this is the part of the Engine Controller, the Timebase and the Sweep Unit. -/
theorem controlStaysLawful : Obligations.ControlStaysLawful := fun _ _ next => (step_laws next).2.1

/-- Settles O58: `step_laws`, of which this is the part of the posted writes: each shared operation's writes bring the device halves and the Ready Map after what
it changes, as the lemmas `State._follows` say operation by operation. -/
theorem engineShowsWhatItHolds : Obligations.EngineShowsWhatItHolds := fun _ _ next => (step_laws next).2.2

/-- Settles O60: a reset takes from the last writes those not issued, and any other command adds what `exec_commanded` says. -/
theorem engineWritesItsOwn : Obligations.EngineWritesItsOwn := by
  intro c s t next
  refine ⟨fun reset => ?_, fun reset => ?_⟩
  · obtain ⟨kind, index, mem, n, rfl⟩ := exec_reset reset next
    exact ⟨rfl, s.port.posted.length - min n s.port.recent, by omega, rfl⟩
  · obtain ⟨ws, posted, recent, silent, owned⟩ := (exec_commanded c reset next).writes
    exact ⟨ws, posted, recent, silent, owned⟩

/-- A fresh slot's counters are all 0, and it holds no chunk (R25). -/
theorem Slot.fresh_countsOk : Slot.fresh.CountsOk := by
  constructor <;> simp [Slot.fresh, Slot.stops, Chunker.fresh]

/-- With every list empty, no record is in use and no operation waits or is in flight (R25, R63, R93). -/
theorem State.reset_poolOk : State.reset.PoolOk := by
  have slot (i : SlotNo) : State.reset.slot i = .fresh := Vector.get_replicate _ _ i
  have firms : State.reset.firms = [] := rfl
  have withdraws : State.reset.withdraws = [] := rfl
  have inflight : State.reset.index.inflight = [] := rfl
  have record (r : Nat) : State.reset.record r = none := rfl
  constructor <;> simp [slot, firms, withdraws, inflight, record, Slot.fresh]

theorem State.reset_numbersOk : State.reset.NumbersOk := by
  constructor <;> simp [State.reset, IndexUnit.unformatted, Descriptor.clear]

theorem State.reset_noticesOk : State.reset.NoticesOk where
  handed_on := fun i => by rw [show State.reset.slot i = .fresh from Vector.get_replicate _ _ i]; rfl
  ready := fun i => by
    rw [show State.reset.slot i = .fresh from Vector.get_replicate _ _ i]
    exact Vector.get_replicate _ _ i
  threshold := fun i held => absurd (by rw [show State.reset.slot i = .fresh from Vector.get_replicate _ _ i]; rfl) held
  classes := fun n c h => by
    by_cases zero : n = 0
    · subst zero
      cases h
      decide
    · rw [show State.reset.classes.get n = none from (get_set_of_ne (k := (0 : Fin 8)) _ _ zero).trans (Vector.get_replicate _ _ _)] at h
      cases h
  levels := ⟨.nil, List.not_mem_nil⟩
  sent := fun running => by cases running

/-- Settles O51: after a cold reset every store is empty, every slot fresh and the engine in STOPPED. -/
theorem resetMeetsTheLaws : Obligations.ResetMeetsTheLaws := by
  obtain ⟨decided, control, shown, settled⟩ := State.laws_of_reset (s := State.reset) rfl rfl rfl rfl rfl rfl
  refine ⟨⟨.nil, .nil, by simp [State.reset]⟩, by decide, fun i => ?_, control, decided, .of_reset _ rfl rfl rfl, State.reset_poolOk, State.reset_numbersOk,
    State.reset_noticesOk, shown, settled⟩
  rw [show State.reset.slot i = .fresh from Vector.get_replicate _ _ i]
  exact Slot.fresh_countsOk

end Sys2Proof.Machine

namespace Sys2Proof.Machine

set_option Elab.async false

/-! ### QUIESCE and the passage to STOPPED (R170, R173) -/

/-- What holds of every item of a table holds at every index. -/
theorem forall_mem_toList {α : Type} {n : Nat} (v : Vector α n) (p : α → Prop) : (∀ x ∈ v.toList, p x) ↔ ∀ k, p (v.get k) := by
  constructor
  · exact fun h k => h _ (by simp [Vector.get, Vector.toList])
  · intro h x hx
    obtain ⟨k, lt, rfl⟩ := List.getElem_of_mem hx
    exact h ⟨k, by simpa using lt⟩

/-- Each condition of R173 by itself (log entries 8 and 24 name two of them). -/
theorem State.drained_iff (s : State) (m : s.mayWrite = true) : s.drained = true ↔
    s.sweep.flight = none ∧ (s.time.running = false ∨ s.time.countdown ≠ 0) ∧ (∀ n : LaneNo, s.lanes.get n = { turn := none, read := none }) ∧
    s.lookups = [] ∧ s.index.firming = [] ∧ s.index.withdrawal = [] ∧ s.index.requests = [] ∧ s.removals = [] ∧
    (∀ o ∈ s.index.inflight, ∃ b, o.kind = .scan b) ∧ s.index.format = none ∧ s.index.writes = [] ∧
    (∀ cell : ReqNo, (s.requests.get cell).inflight = none) ∧ ∀ i, (s.slot i).emittable = none := by
  have lane (l : Lane) : (l.turn.isNone && l.read.isNone) = true ↔ l = { turn := none, read := none } := by
    rcases l with ⟨_ | _, _ | _⟩ <;> simp
  have due : (s.time.running = true → ¬s.time.countdown = 0) ↔ s.time.running = false ∨ s.time.countdown ≠ 0 := by
    cases s.time.running <;> simp
  simp only [State.drained, State.sweepDue, Bool.and_eq_true, List.all_eq_true, forall_mem_toList, lane, List.isEmpty_iff, Option.isNone_iff_eq_none,
    Bool.not_eq_true', m, Bool.and_true, ← due]
  constructor
  · rintro ⟨⟨⟨⟨⟨⟨⟨⟨⟨⟨⟨⟨flight, idle⟩, lanes⟩, lookups⟩, firming⟩, withdrawal⟩, requests⟩, inflight⟩, removals⟩, format⟩, writes⟩, cells⟩, slots⟩
    refine ⟨flight, by simpa [flight] using idle, lanes, lookups, firming, withdrawal, requests, removals, fun o ho => ?_, format, writes, cells, slots⟩
    have scan := inflight o ho
    split at scan
    · rename_i b kind
      exact ⟨b, kind⟩
    all_goals cases scan
  · rintro ⟨flight, idle, lanes, lookups, firming, withdrawal, requests, removals, inflight, format, writes, cells, slots⟩
    refine ⟨⟨⟨⟨⟨⟨⟨⟨⟨⟨⟨⟨flight, by simpa [flight] using idle⟩, lanes⟩, lookups⟩, firming⟩, withdrawal⟩, requests⟩, fun o ho => ?_⟩, removals⟩, format⟩, writes⟩,
      cells⟩, slots⟩
    obtain ⟨b, kind⟩ := inflight o ho
    rw [kind]

/-- Settles O9: QUIESCE by the engine state; ENTER_STOPPED by its guard, which `State.drained_iff` takes apart. -/
theorem quiesceAndStop : Obligations.QuiesceAndStop := by
  intro s settled
  refine ⟨fun running => ?_, fun other => ?_, fun t => ?_⟩
  · have running' : s.begun.ctl.engine = .running := running
    simp only [exec, execQuiesce, settled.eq, if_pos running']
    rfl
  · have other' : ¬ s.begun.ctl.engine = .running := other
    simp only [exec, execQuiesce, settled.eq, if_neg other']
  · simp only [exec, execEnterStopped, settled.eq]
    by_cases quiescing : s.ctl.engine = .quiescing
    · have drained := State.drained_iff s.begun (by simp [State.mayWrite, State.begun, quiescing])
      have quiescing' : s.begun.ctl.engine = .quiescing := quiescing
      by_cases h : s.begun.drained = true
      · rw [if_pos ⟨quiescing', h⟩]
        refine ⟨fun e => ⟨⟨quiescing, drained.1 h⟩, (Host.Outcome.next.inj e).symm⟩, ?_⟩
        rintro ⟨-, rfl⟩
        rfl
      · rw [if_neg fun k => h k.2]
        exact ⟨nofun, fun k => absurd (drained.2 k.1.2) h⟩
    · rw [if_neg fun k => quiescing k.1]
      exact ⟨nofun, fun k => absurd k.1.1 quiescing⟩

/-! ### TICK (R41, R152, R153) -/

/-- Settles O14: the frame and the Timebase from the definition of a tick; a slot's countdown by the condition of R41. -/
theorem tickCounts : Obligations.TickCounts := by
  intro s settled running
  have running' : s.begun.time.running = true := running
  refine ⟨s.begun.tick, ?_, rfl, rfl, fun i => ⟨fun engine active limit finished due usable => ?_, fun other => ?_⟩⟩
  · simp only [exec, execTick, settled.eq, if_pos running']
  · have ticks : s.begun.tick.slots = mapVector Slot.tick s.slots := if_pos engine
    have slot : s.begun.tick.slot i = (s.slot i).tick := by rw [State.slot, ticks, get_mapVector]; rfl
    rw [slot]
    exact if_pos ⟨active, limit, finished, due, usable⟩
  · by_cases engine : s.ctl.engine = .running
    · have ticks : s.begun.tick.slots = mapVector Slot.tick s.slots := if_pos engine
      have slot : s.begun.tick.slot i = (s.slot i).tick := by rw [State.slot, ticks, get_mapVector]; rfl
      rw [slot]
      refine if_neg fun ⟨active, limit, finished, due, usable⟩ => ?_
      simp [engine, active, limit, finished, due, usable] at other
    · have stands : s.begun.tick.slots = s.slots := if_neg engine
      rw [State.slot, stands]; rfl

end Sys2Proof.Machine

namespace Sys2Proof.Machine

set_option Elab.async false

variable {s t : State}

/-! ### SNAPSHOT and the unknown kinds (R44, R146, R156) -/

/-- A request carried out with writes of its own and no other change but in the Index Unit is answered (R157). -/
theorem State.AtRequest.answerPosted {cell : ReqNo} {r : Request} {tag : Tag} {rest : List TakenRequest} (h : s.AtRequest cell r tag rest) (index : IndexUnit)
    (ws : List HostWrite) (status : Status) :
    s.Answered (s.endEvent ((({ s.asked rest with index := index } : State).post ws).answer cell status none)) cell tag ws status ∧
    ({ s with index := index } : State).OnlyAnswered (s.endEvent ((({ s.asked rest with index := index } : State).post ws).answer cell status none)) rest := by
  have ⟨_, m, _, _⟩ := h
  have posted : s.Writes (({ s.asked rest with index := index } : State).post ws) ws :=
    State.post_writes ({ s.asked rest with index := index } : State) ws m
  refine h.answer (base := { s with index := index }) posted ?_ rfl rfl rfl rfl status
  rw [State.post_slotsAndPort ({ s.asked rest with index := index } : State) ws, State.post_slots]
  rfl

/-- Settles O27: each target by the request's own branch, then its answer. -/
theorem snapshotRequests : Obligations.SnapshotRequests := by
  intro s cell target tag rest
  refine ⟨fun h => ⟨fun big other => ?_, fun i num => ⟨fun free => ?_, fun held => ?_⟩, fun engine => ?_⟩, fun kind h => ?_⟩
  · refine ⟨_, ?_, h.refuse .range⟩
    simp only [exec, execSnapshotSlot, h.settled, h.next, if_neg (show ¬ target = engineTarget from other), slotNamed_of_le big, State.endEvent_begun]
  · subst num
    have slot : ¬ i.val = engineTarget := by have := i.isLt; simp only [engineTarget]; omega
    refine ⟨_, ?_, h.refuse .state⟩
    have free' : (s.begun.slot i).state = .free := free
    simp only [exec, execSnapshotSlot, h.settled, h.next, if_neg slot, slotNamed_val, if_pos free', State.endEvent_begun]
  · subst num
    have slot : ¬ i.val = engineTarget := by have := i.isLt; simp only [engineTarget]; omega
    refine ⟨_, ?_, h.answerPosted s.index [.slotStats i (s.slot i).stats] .done⟩
    have held' : ¬ (s.begun.slot i).state = .free := held
    simp only [exec, execSnapshotSlot, h.settled, h.next, if_neg slot, slotNamed_val, if_neg held', State.endEvent_begun]
    rfl
  · refine ⟨_, ?_, h.answerPosted { s.index with error := false } [.recordStats s.index.stats] .done⟩
    simp only [exec, execSnapshotEngine, h.settled, h.next, if_pos (show target = engineTarget from engine), State.endEvent_begun]
    rfl
  · refine ⟨_, ?_, h.refuse .unknown⟩
    simp only [exec, execUnknownRequest, h.settled, h.next, State.endEvent_begun]

/-! ### RELEASE (R39) -/

/-- A condition set that becomes all false: it is written, and the slot's flag of the Ready Map is cleared (R163, R164). -/
theorem State.writeMarks_off (s : State) (i : SlotNo) (m : s.mayWrite = true) :
    s.Writes (s.writeMarks i .off)
      ([.slotMarks i .off] ++ if s.notice.ready.get i = true then [.readyWord (i.val / 32) (readyWord (s.notice.ready.set i false) (i.val / 32))] else []) ∧
    s.writeMarks i .off = { s with
      slots := s.slots.set i { s.slot i with marks := .off }, notice := { s.notice with ready := s.notice.ready.set i false }
      port := (s.writeMarks i .off).port } := by
  have written : s.Writes ((s.editSlot i fun c => { c with marks := .off }).post [.slotMarks i .off]) [.slotMarks i .off] :=
    State.post_writes (s.editSlot i fun c => { c with marks := .off }) _ m
  have may : ((s.editSlot i fun c => { c with marks := .off }).post [.slotMarks i .off]).mayWrite = true := (State.post_slotsAndPort _ _).mayWrite.trans m
  have notice : ((s.editSlot i fun c => { c with marks := .off }).post [.slotMarks i .off]).notice = s.notice := State.post_notice _ _
  have ctl : ((s.editSlot i fun c => { c with marks := .off }).post [.slotMarks i .off]).ctl = s.ctl := State.post_ctl _ _
  have frame := (s.editSlot_slotsAndPort i fun c => { c with marks := .off }).trans (State.post_slotsAndPort _ [.slotMarks i .off])
  have slots : ((s.editSlot i fun c => { c with marks := .off }).post [.slotMarks i .off]).slots = s.slots.set i { s.slot i with marks := .off } :=
    State.post_slots _ _
  unfold State.writeMarks State.setReady
  rw [show Marks.off.any = false from rfl]
  generalize (s.editSlot i fun c => { c with marks := .off }).post [.slotMarks i .off] = u at *
  cases on : s.notice.ready.get i
  · have same : s.notice.ready.set i false = s.notice.ready := by
      refine Vector.ext fun k lt => ?_
      rw [Vector.getElem_set]
      split
      · rename_i e; subst e; exact on.symm
      · rfl
    rw [if_pos (by rw [notice]; exact on), same]
    refine ⟨by simpa using written, ?_⟩
    rw [← slots]
    exact frame
  · rw [if_neg (by rw [notice, on]; simp), notice]
    refine ⟨State.Writes.trans written (State.post_writes _ _ may) (by rw [ctl]), ?_⟩
    rw [State.post_slotsAndPort { u with notice := { s.notice with ready := s.notice.ready.set i false } }, State.post_slots, slots, frame]

end Sys2Proof.Machine

namespace Sys2Proof.Machine

set_option Elab.async false

variable {s t : State}

/-- A table of slots that differs from another at one slot alone. -/
theorem slots_eq_set {i : SlotNo} {c : Slot} (self : t.slot i = c) (others : ∀ j, j ≠ i → t.slot j = s.slot j) : t.slots = s.slots.set i c := by
  refine Vector.ext fun k lt => ?_
  rw [Vector.getElem_set]
  split
  · rename_i e; subst e; exact self
  · rename_i e
    exact others ⟨k, lt⟩ fun k => e (congrArg Fin.val k).symm

/-- An accepted RELEASE, whole: its writes, in their order, and what it makes of the slot and of the Ready Map (R39, R46, R163, R164). -/
theorem State.releaseSlot_spec (s : State) (i : SlotNo) (m : s.mayWrite = true) :
    s.Writes (s.releaseSlot i)
      ([.slotReason i none, .slotFinal i none, .slotConsumed i (s.slot i).consumed, .slotState i .free, .slotMarks i .off] ++
        if s.notice.ready.get i = true then [.readyWord (i.val / 32) (readyWord (s.notice.ready.set i false) (i.val / 32))] else []) ∧
    s.releaseSlot i = { s with
      slots := s.slots.set i { (s.slot i).released with marks := .off, shown := (s.slot i).consumed }
      notice := { s.notice with ready := s.notice.ready.set i false }, port := (s.releaseSlot i).port } := by
  rw [s.releaseSlot_eq]
  obtain ⟨rest, self, others, writes⟩ := s.releasedHalf_spec i
  have slots := slots_eq_set self others
  rw [if_pos m] at self slots
  generalize s.releasedHalf i = u at *
  obtain ⟨marked, frame⟩ := u.writeMarks_off i (rest.mayWrite.trans m)
  have notice : u.notice = s.notice := by rw [rest]
  have ctl : u.ctl = s.ctl := by rw [rest]
  rw [notice] at marked frame
  refine ⟨?_, ?_⟩
  · have all := (writes m).trans marked (by rw [ctl])
    rwa [← List.append_assoc] at all
  · rw [self, slots, Vector.set_set] at frame
    rw [frame, rest]

/-- The test for a message leaves the Ready Map (R164, R166). -/
theorem State.testDue_ready (s : State) : s.testDue.notice.ready = s.notice.ready := by
  unfold State.testDue
  split
  · rfl
  · split
    · simp only [State.post_notice]
    · rfl

theorem State.joinLevel_ready (s : State) (l : Nat) : (s.joinLevel l).notice.ready = s.notice.ready := by
  unfold State.joinLevel
  split <;> rfl

/-- So does an event that raises a level (R165). -/
theorem State.raiseLevel_ready (s : State) (l : Nat) : (s.raiseLevel l).notice.ready = s.notice.ready := by
  unfold State.raiseLevel State.notify
  split
  · exact s.joinLevel_ready l
  · exact (State.testDue_ready _).trans (s.joinLevel_ready l)

/-- Settles O25: the refusals by the slot's state; an accepted RELEASE by `State.releaseSlot_spec`. -/
theorem releaseRequest : Obligations.ReleaseRequest := by
  intro s cell slot tag rest h
  refine ⟨fun big => ⟨_, ?_, h.refuse .range⟩, ?_⟩
  · simp only [exec, execRelease, h.settled, h.next, slotNamed_of_le big, State.endEvent_begun]
  rintro i rfl
  have run : exec (.release cell) s = match (s.slot i).state with
      | .closed | .aborted => .next (s.endEvent (((s.asked rest).releaseSlot i).answer cell .done none))
      | .aborting => .next (s.endEvent ((s.asked rest).answer cell .busy none))
      | .free | .active | .held | .stalled | .settling => .next (s.endEvent ((s.asked rest).answer cell .state none)) := by
    simp only [exec, execRelease, h.settled, h.next, slotNamed_val, State.endEvent_begun]
    rfl
  refine ⟨fun aborting => ⟨_, by rw [run, aborting], h.refuse .busy⟩, fun other => ⟨_, ?_, h.refuse .state⟩, fun ended => ?_⟩
  · rw [run]
    cases state : (s.slot i).state <;> simp [state, SlotState.isLive] at other ⊢
  · have ⟨_, m, _, inflight⟩ := h
    obtain ⟨writes, spec⟩ := (s.asked rest).releaseSlot_spec i m
    have run : exec (.release cell) s = .next (s.endEvent (((s.asked rest).releaseSlot i).answer cell .done none)) := by
      rcases ended with e | e <;> rw [run, e]
    generalize (s.asked rest).releaseSlot i = v at *
    obtain ⟨answered, ends⟩ := State.answered (v := v) m inflight (show s.Writes v _ from writes) (by rw [spec]; rfl) (by rw [spec]; rfl) (by rw [spec]; rfl) .done
    have only := State.onlyAnswered (v := v) (rest := rest) (base := { s with
      notice := { s.notice with ready := s.notice.ready.set i false }
      slots := s.slots.set i { (s.slot i).released with marks := .off, shown := (s.slot i).consumed } }) m inflight (by rw [spec]; rfl) rfl rfl rfl .done ends
    refine ⟨_, _, run, answered, ?_, only⟩
    rw [only]
    simp only [State.raiseLevel_ready]
    rfl

end Sys2Proof.Machine

namespace Sys2Proof.Machine

set_option Elab.async false

variable {s t u : State}

/-! ### ABORT (R38) -/

/-- What an abort does to a slot stands through what then changes its condition set, the sweep, the requests, the notices and the port alone. -/
theorem State.Aborts.after {i : SlotNo} {r : AbortReason} (h : s.Aborts t i r)
    (frame : u = { t with sweep := u.sweep, requests := u.requests, slots := u.slots, notice := u.notice, port := u.port })
    (self : u.slot i = { t.slot i with marks := (u.slot i).marks }) (others : ∀ j, j ≠ i → u.slot j = t.slot j) : s.Aborts u i r where
  reason_eq := by rw [self]; exact h.reason_eq
  state_eq := by rw [self]; exact h.state_eq
  emptied := by rw [self]; exact h.emptied
  kept := by rw [self]; exact h.kept
  context := by
    rw [self, h.context]
  cells := by rw [self]; exact h.cells
  left := by rw [frame]; exact h.left
  others_listed := by rw [frame]; exact h.others_listed
  others_worked := by rw [frame]; exact h.others_worked
  issued := by rw [frame]; exact h.issued
  records := by rw [frame]; exact h.records
  others := fun j e => (others j e).trans (h.others j e)
  same := by rw [frame]; exact h.same

/-- It is the same from a state that differs in the sweep and in what a reset may take back alone. -/
theorem State.Aborts.of_asked {i : SlotNo} {r : AbortReason} {rest : List TakenRequest} (h : (s.asked rest).Aborts t i r) : s.Aborts t i r :=
  ⟨h.reason_eq, h.state_eq, h.emptied, h.kept, h.context, h.cells, h.left, h.others_listed, h.others_worked, h.issued, h.records, h.others, h.same⟩

/-- An abort with the conditions it changes handed on: what it does, and the first of its writes (R30, R46, R132). -/
theorem State.aborted_spec (s : State) (i : SlotNo) (r : AbortReason) (live : (s.slot i).state.isLive = true) :
    let v := (s.enterAborting i r).refresh i
    s.Aborts v i r ∧ v.sweep = s.sweep ∧ v.requests = s.requests ∧ (v.slot i).marks = (v.slot i).marksDue ∧
    (s.mayWrite = true → ∃ ws, s.Writes v ([.slotReason i (some r), .slotConsumed i (s.slot i).consumed, .slotState i .aborting] ++ ws)) := by
  obtain ⟨writes, -, -, -, sweep, requests⟩ := s.enterAborting_shows i r live
  have aborts := s.enterAborting_aborts i r live
  generalize s.enterAborting i r = u at *
  obtain ⟨frame, self, others⟩ := u.refresh_spec i
  obtain ⟨ws, more⟩ := (u.refresh_keeps i).writes
  have frame' : u.refresh i = { u with
      sweep := (u.refresh i).sweep, requests := (u.refresh i).requests, slots := (u.refresh i).slots, notice := (u.refresh i).notice
      port := (u.refresh i).port } := by rw [frame]
  refine ⟨aborts.after frame' (by rw [self]) others, ?_, ?_, ?_, fun m => ?_⟩
  · rw [frame]; exact sweep
  · rw [frame]; exact requests
  · rw [self]; rfl
  · obtain ⟨-, ctl, -⟩ := aborts.same
    have all := (writes m).trans more (by rw [ctl])
    rw [Slot.abortWrites, List.append_assoc] at all
    exact ⟨_, all⟩

/-- Settles O24: the refusals by the slot's state; an accepted ABORT by `State.aborted_spec`, and its answer behind. -/
theorem abortRequest : Obligations.AbortRequest := by
  intro s cell slot tag rest h
  refine ⟨fun big => ⟨_, ?_, h.refuse .range⟩, ?_⟩
  · simp only [exec, execAbort, h.settled, h.next, slotNamed_of_le big, State.endEvent_begun]
  rintro i rfl
  refine ⟨fun ended => ⟨_, ?_, h.refuse .state⟩, fun live => ?_⟩
  · have ended' : ¬ (s.begun.slot i).state.isLive = true := by simpa using ended
    simp only [exec, execAbort, h.settled, h.next, slotNamed_val, if_neg ended', State.endEvent_begun]
  · have ⟨_, m, _, inflight⟩ := h
    obtain ⟨aborts, sweep, requests, marks, writes⟩ := (s.asked rest).aborted_spec i .requested live
    obtain ⟨ws, writes⟩ := writes m
    have run : exec (.abort cell) s = .next (s.endEvent ((((s.asked rest).enterAborting i .requested).refresh i).answer cell .done none)) := by
      have live' : (s.begun.slot i).state.isLive = true := live
      simp only [exec, execAbort, h.settled, h.next, slotNamed_val, if_pos live', State.endEvent_begun]
    generalize ((s.asked rest).enterAborting i .requested).refresh i = v at *
    obtain ⟨-, ctl, header, -⟩ := aborts.same
    obtain ⟨answered, ends⟩ := State.answered (v := v) m inflight (show s.Writes v _ from writes) requests ctl header .done
    generalize s.endEvent (v.answer cell .done none) = t at *
    have slot (j : SlotNo) : t.slot j = v.slot j := by rw [ends]; rfl
    refine ⟨t, ws, run, aborts.of_asked.after (by rw [ends]) (by rw [slot]) fun j _ => slot j, ?_, ?_, answered⟩
    · rw [ends]; exact sweep
    · rw [slot]; exact marks

/-! ### IDLE_COUNTDOWN_EXPIRY (R42) -/

/-- The slots listed as due stand in ascending number (log entry 8). -/
theorem dueFrom_ascending {cs : List Slot} {n : Nat} (fits : n + cs.length ≤ 1024) : (dueFrom cs n).Pairwise (· < ·) := by
  induction cs generalizing n with
  | nil => exact .nil
  | cons c cs ih =>
    rw [List.length_cons] at fits
    have rest := ih (n := n + 1) (by omega)
    unfold dueFrom
    split
    · refine List.pairwise_cons.2 ⟨fun j hj => ?_, rest⟩
      obtain ⟨k, _, _, _, val⟩ := (mem_dueFrom (by omega) j).1 hj
      rw [Fin.lt_def, Fin.val_ofNat, Nat.mod_eq_of_lt (by omega), val]
      omega
    · exact rest

theorem State.dueSlots_ascending (s : State) : s.dueSlots.Pairwise (· < ·) := dueFrom_ascending (by simp)

/-- The expiry of the lowest-numbered slot that is due is the first of those that a command finds due (log entry 8). -/
theorem State.dueSlots_of_lowest {i : SlotNo} (due : (s.slot i).idleDue = true) (lowest : ∀ j, j < i → (s.slot j).idleDue = false) :
    s.dueSlots = i :: (s.abortStream i .idle).dueSlots := by
  have after (j : SlotNo) : j ∈ (s.abortStream i .idle).dueSlots ↔ j ≠ i ∧ j ∈ s.dueSlots := by
    rw [State.mem_dueSlots, State.mem_dueSlots]
    by_cases e : j = i
    · subst e
      simp [Slot.idleDue, s.abortStream_not_live j .idle]
    · rw [s.abortStream_others i .idle e]
      simp [e]
  refine List.Pairwise.eq_of_mem_iff s.dueSlots_ascending (List.pairwise_cons.2 ⟨fun j hj => ?_, State.dueSlots_ascending _⟩) fun j => ?_
  · obtain ⟨ne, later⟩ := (after j).1 hj
    refine lt_of_le_of_ne (not_lt.1 fun lt => ?_) ne.symm
    rw [s.mem_dueSlots, lowest j lt] at later
    cases later
  · rw [List.mem_cons, after]
    by_cases e : j = i
    · subst e
      simp [s.mem_dueSlots, due]
    · simp [e]

/-- A command begins with the expiries that the lowest of them has left. -/
theorem State.settled_of_lowest {i : SlotNo} (due : (s.slot i).idleDue = true) (lowest : ∀ j, j < i → (s.slot j).idleDue = false) :
    s.settled = (s.abortStream i .idle).settled := by
  rw [State.settled, State.dueSlots_of_lowest due lowest]
  rfl

theorem State.settled_idem (s : State) : s.settled.settled = s.settled := s.settled_settled.eq

/-- Every command but a reset, those of STOPPED and the expiry itself begins with the expiries that are due (R42). -/
theorem exec_settled (c : Instr) (h : takesNoExpiry c = false) (s : State) : exec c s = exec c s.settled := by
  cases c
  case powerOn | linkReset | reset | start | startComplete | exchangeBase | registerWriteIgnored | idleCountdownExpiry => cases h
  all_goals
    simp only [exec, execQuiesce, execSweepNow, execServingLevel, execTick, execSweepCountdownExpiry, execSlotHostHalfTaken, execRequestTableRead, execFormat,
      execSetClass, execOpenStream, execClose, execAbort, execRelease, execSeed, execRetire, execSetEpoch, execSnapshotSlot, execSnapshotEngine,
      execUnknownRequest, execSweepEnd, execLaneTakesSlot, execSegmentReadComplete, execHostReadFailure, execReadTimeout, execOperationAccepted,
      execLookupInsertComplete, execFirmComplete, execWithdrawComplete, execWaiterRemoval, execSeedComplete, execRetireComplete, execScanComplete,
      execDescriptorWriteComplete, execFormatClear, execEmission, execEnterStopped, State.settled_idem]

theorem Port.eq_of_fields {p q : Port} (posted : p.posted = q.posted) (lost : p.lostReads = q.lostReads) (recent : p.recent = q.recent) : p = q := by
  cases p
  cases q
  subst posted lost recent
  rfl

/-- An expiry that is due, as an event of its own (R30, R42). -/
theorem State.abortStream_spec (s : State) (i : SlotNo) (r : AbortReason) (live : (s.slot i).state.isLive = true) :
    let t := s.abortStream i r
    s.Aborts t i r ∧ t.sweep = s.sweep ∧ t.requests = s.requests ∧ (t.slot i).marks = (t.slot i).marksDue ∧
    (s.mayWrite = true → ∃ ws, s.Writes t ([.slotReason i (some r), .slotConsumed i (s.slot i).consumed, .slotState i .aborting] ++ ws)) ∧
    (s.mayWrite = false → t.port = s.begun.port) := by
  have kept := s.abortStream_keeps i r
  have slot := s.abortStream_slot i r
  unfold State.abortStream at *
  obtain ⟨aborts, sweep, requests, marks, writes⟩ := s.aborted_spec i r live
  generalize (s.enterAborting i r).refresh i = v at *
  obtain ⟨-, ctl, header, -⟩ := aborts.same
  have ends := s.endEvent_eq v
  have recent : (s.endEvent v).port.recent = (s.endEvent v).port.posted.length - s.port.posted.length := rfl
  have written (ws : List HostWrite) (h : s.Writes v ws) := h.endEvent ctl header
  generalize s.endEvent v = t at *
  refine ⟨aborts.after (by rw [ends]) (by rw [slot]) fun j _ => slot j, by rw [ends]; exact sweep, by rw [ends]; exact requests, by rw [slot]; exact marks,
    fun m => ?_, fun m => ?_⟩
  · obtain ⟨ws, posted⟩ := writes m
    obtain ⟨ns, -, all⟩ := written _ posted
    exact ⟨ws ++ ns, by rwa [List.append_assoc] at all⟩
  · obtain ⟨ws, posted, silent, -⟩ := kept.posted
    have posted : t.port.posted = s.port.posted := by rw [posted, silent m, List.append_nil]
    rw [posted, Nat.sub_self] at recent
    exact Port.eq_of_fields posted kept.lost recent

/-- A request answered after other writes (R157). -/
theorem State.Answered.after {cell : ReqNo} {tag : Tag} {ws vs : List HostWrite} {status : Status} (h : t.Answered u cell tag vs status)
    (writes : s.Writes t ws)
    (requests : t.requests = s.requests) (ctl : t.ctl = s.ctl) (header : t.header = s.header) : s.Answered u cell tag (ws ++ vs) status := by
  obtain ⟨ns, one, more⟩ := h.writes
  refine ⟨h.record.trans (by rw [requests]), ns, by rwa [State.AtMostOneNotice, header] at one, ?_⟩
  have all := writes.trans more (by rw [ctl])
  rwa [← List.append_assoc, ← List.append_assoc] at all

/-- A request refused behind the expiry of its slot, the one that was due: the command finds the slot aborted (R29, R42). -/
theorem State.refused_behind_expiry {i : SlotNo} {cell : ReqNo} {tag : Tag} {rest : List TakenRequest} {r : Request} {c : Instr}
    (live : (s.slot i).state.isLive = true) (due : (s.slot i).idleDue = true) (alone : ∀ j, j ≠ i → (s.slot j).idleDue = false) (m : s.mayWrite = true)
    (inflight : (s.requests.get cell).inflight = some tag) (flight : s.sweep.flight = some (.requests ({ cell := cell, request := r } :: rest)))
    (takes : takesNoExpiry c = false)
    (refused : ∀ t : State, t.AtRequest cell r tag rest → (t.slot i).state.isLive = false →
      exec c t = .next (t.endEvent ((t.asked rest).answer cell .state none))) :
    ∃ t ws, exec c s = .next t ∧ s.Aborts t i .idle ∧ s.Answered t cell tag ws .state := by
  obtain ⟨aborts, sweep, requests, -, writes, -⟩ := s.abortStream_spec i .idle live
  have same : exec c s = exec c (s.abortStream i .idle) := by
    rw [exec_settled c takes s, exec_settled c takes (s.abortStream i .idle), State.settled_of_lowest due fun j lt => alone j (ne_of_lt lt)]
  have ended := s.abortStream_not_live i .idle
  have others (j : SlotNo) (e : j ≠ i) := s.abortStream_others i .idle e
  rw [same]
  generalize s.abortStream i .idle = u at *
  have settled : u.Settled := fun j => by
    by_cases e : j = i
    · subst e; simp [Slot.idleDue, ended]
    · rw [others j e]; exact alone j e
  have ⟨_, ctl, header, _⟩ := aborts.same
  have next : u.AtRequest cell r tag rest := ⟨settled, by rw [State.mayWrite, ctl]; exact m, by rw [sweep]; exact flight, by rw [requests]; exact inflight⟩
  obtain ⟨ws, written⟩ := writes m
  obtain ⟨answered, only⟩ := next.refuse .state
  refine ⟨_, _, refused u next ended, ?_, answered.after written requests ctl header⟩
  generalize u.endEvent ((u.asked rest).answer cell .state none) = t at *
  have slot (j : SlotNo) : t.slot j = u.slot j := by rw [only]; rfl
  exact aborts.after (by rw [only]) (by rw [slot]) fun j _ => slot j

/-- Settles O15: the expiry by `State.abortStream_spec`; a CLOSE or an ABORT behind it by `State.refused_behind_expiry`; every other command by
`exec_settled`. -/
theorem idleExpiryAborts : Obligations.IdleExpiryAborts := by
  refine ⟨fun s i cell final tag rest => ⟨fun ended => ?_, fun live limit zero => ?_⟩,
    fun c s => ⟨s.settled_settled, State.Settled.eq, fun h => exec_settled c h s⟩⟩
  · have undue : ¬ (s.slot i).idleDue = true := by simp [Slot.idleDue, ended]
    simp only [exec, execIdleCountdownExpiry, if_neg undue, ended, Bool.false_eq_true, if_false]
  have due : (s.slot i).idleDue = true := by simp [Slot.idleDue, live, limit, zero]
  refine ⟨?_, fun alone m inflight => ⟨fun flight => ?_, fun flight => ?_⟩⟩
  · obtain ⟨aborts, sweep, requests, marks, writes, silent⟩ := s.abortStream_spec i .idle live
    refine ⟨s.abortStream i .idle, ?_, aborts, sweep, requests, marks, writes, silent, State.settled_of_lowest due⟩
    simp only [exec, execIdleCountdownExpiry, if_pos due]
  · refine State.refused_behind_expiry live due alone m inflight flight rfl fun t h ended => ?_
    have isOpen : (t.begun.slot i).state.isOpen = false := by
      by_contra k
      rw [SlotState.isLive_of_isOpen (by simpa using k)] at ended
      cases ended
    have check : (t.begun.slot i).checkClose final = some .state := if_pos isOpen
    simp only [exec, execClose, h.settled, h.next, slotNamed_val, check, State.endEvent_begun]
  · refine State.refused_behind_expiry live due alone m inflight flight rfl fun t h ended => ?_
    have ended' : ¬ (t.begun.slot i).state.isLive = true := by simpa using ended
    simp only [exec, execAbort, h.settled, h.next, slotNamed_val, if_neg ended', State.endEvent_begun]

end Sys2Proof.Machine

namespace Sys2Proof.Machine

set_option Elab.async false

/-! ### Waiters that leave their list: the rules (R31, R32, R98, R100)

A waiter leaves its record's list with an outcome for its chunk, or without one.
Each rule says what becomes of the slot's context but for its condition set and the Consumed Offset last written,
which the writes and the end of the event decide:
its core. -/

/-- A context but for its condition set and the Consumed Offset last written. -/
def Slot.core (c : Slot) : Slot := { c with marks := .off, shown := 0 }

/-- The in-flight count falls by one, and an ABORTING slot it brings to 0 is ABORTED (R31, R32). -/
def Slot.dropped (c : Slot) : Slot :=
  { c with inflight := c.inflight - 1, state := if c.state = .aborting ∧ c.inflight - 1 = 0 then .aborted else c.state }

/-- A chunk of an open stream takes a condition, and the state is decided again (R26, R75). -/
def Slot.settle (c : Slot) (ordinal : Nat) (k : ChunkCond) : Slot :=
  if c.state.isOpen = true then
    { c with pending := setCond ordinal k c.pending, state := ({ c with pending := setCond ordinal k c.pending } : Slot).decided }
  else c

/-- What a waiter that leaves its list does to its slot: with an outcome for its chunk, or without one (R100). -/
def Slot.serve (c : Slot) (ordinal : Nat) : Option ChunkCond → Slot
  | none => c.dropped
  | some k => (c.settle ordinal k).dropped

variable (s : State)

theorem State.decideState_core (i : SlotNo) :
    s.SlotsAndPort (s.decideState i) ∧
    ((s.decideState i).slot i).core = ({ s.slot i with state := if (s.slot i).state.isOpen = true then (s.slot i).decided else (s.slot i).state } : Slot).core ∧
    ∀ j, j ≠ i → (s.decideState i).slot j = s.slot j := by
  unfold State.decideState
  dsimp only
  by_cases h : (s.slot i).state.isOpen = true ∧ (s.slot i).decided ≠ (s.slot i).state
  · rw [if_pos h, if_pos h.1]
    obtain ⟨rest, self, others⟩ := s.setSlotState_spec i (s.slot i).decided
    exact ⟨rest, by rw [self]; rfl, others⟩
  · rw [if_neg h]
    refine ⟨rfl, ?_, fun _ _ => rfl⟩
    rw [not_and, not_not] at h
    by_cases o : (s.slot i).state.isOpen = true
    · rw [if_pos o, h o]
    · rw [if_neg o]

theorem State.tryAborted_core (i : SlotNo) :
    s.SlotsAndPort (s.tryAborted i) ∧
    ((s.tryAborted i).slot i).core =
      ({ s.slot i with state := if (s.slot i).state = .aborting ∧ (s.slot i).inflight = 0 then .aborted else (s.slot i).state } : Slot).core ∧
    ∀ j, j ≠ i → (s.tryAborted i).slot j = s.slot j := by
  unfold State.tryAborted
  dsimp only
  by_cases h : (s.slot i).state = .aborting ∧ (s.slot i).inflight = 0
  · rw [if_pos h, if_pos h]
    obtain ⟨rest, self, others⟩ := (s.post [.slotStats i (s.slot i).stats]).setSlotState_spec i .aborted
    exact ⟨(s.post_slotsAndPort _).trans rest, by rw [self, s.slot_post]; rfl, fun j e => by rw [others j e, s.slot_post]⟩
  · rw [if_neg h, if_neg h]
    exact ⟨rfl, rfl, fun _ _ => rfl⟩

theorem State.dropInflight_core (i : SlotNo) :
    s.SlotsAndPort (s.dropInflight i) ∧ ((s.dropInflight i).slot i).core = (s.slot i).core.dropped ∧
    ∀ j, j ≠ i → (s.dropInflight i).slot j = s.slot j := by
  obtain ⟨rest, self, others⟩ := State.tryAborted_core (s.editSlot i fun c => { c with inflight := c.inflight - 1 }) i
  refine ⟨(s.editSlot_slotsAndPort i _).trans rest, ?_, fun j e => (others j e).trans (s.slot_editSlot_of_ne i j _ e)⟩
  rw [s.slot_editSlot_self] at self
  exact self

theorem State.resolveChunk_core (i : SlotNo) (o : Nat) (v : Verdict) (n : Nat) (k : Cause) (isOpen : (s.slot i).state.isOpen = true) :
    s.SlotsAndPort (s.resolveChunk i o v n k) ∧ ((s.resolveChunk i o v n k).slot i).core = (s.slot i).core.settle o (.resolved v n k) ∧
    ∀ j, j ≠ i → (s.resolveChunk i o v n k).slot j = s.slot j := by
  obtain ⟨rest, self, others⟩ := State.decideState_core (s.editSlot i fun c => { c with pending := setCond o (.resolved v n k) c.pending }) i
  refine ⟨(s.editSlot_slotsAndPort i _).trans rest, ?_, fun j e => (others j e).trans (s.slot_editSlot_of_ne i j _ e)⟩
  rw [s.slot_editSlot_self] at self
  refine self.trans ?_
  rw [if_pos isOpen, Slot.settle, if_pos (show (s.slot i).core.state.isOpen = true from isOpen)]
  rfl

/-- A chunk is resolved where its stream is open, and left alone where it is not (R75, R100). -/
theorem State.resolveOpen_core (i : SlotNo) (o : Nat) (v : Verdict) (n : Nat) (k : Cause) :
    let t := if (s.slot i).state.isOpen then s.resolveChunk i o v n k else s
    s.SlotsAndPort t ∧ (t.slot i).core = (s.slot i).core.settle o (.resolved v n k) ∧ ∀ j, j ≠ i → t.slot j = s.slot j := by
  dsimp only
  by_cases isOpen : (s.slot i).state.isOpen = true
  · rw [if_pos isOpen]
    exact s.resolveChunk_core i o v n k isOpen
  · rw [if_neg isOpen, Slot.settle, if_neg (show ¬(s.slot i).core.state.isOpen = true from isOpen)]
    exact ⟨rfl, rfl, fun _ _ => rfl⟩

/-- What the removal of one record's waiters changes: slots, the port, the Pool and the removals to come. -/
def State.WaitersFrame (s t : State) : Prop := t = { s with slots := t.slots, port := t.port, pool := t.pool, removals := t.removals }

theorem State.WaitersFrame.trans {s t u : State} (h : s.WaitersFrame t) (k : t.WaitersFrame u) : s.WaitersFrame u := by
  unfold State.WaitersFrame at *
  rw [k, h]

theorem State.SlotsAndPort.waitersFrame {s t : State} (h : s.SlotsAndPort t) : s.WaitersFrame t := by
  unfold State.WaitersFrame
  rw [h]

/-- Waiters leave the list of a record, each with what it brings its chunk: what becomes of the record, the Pool, the removals to come and the slots (R98, R100). -/
structure State.Serves (s t : State) (r : Nat) (l : List (Waiter × Option ChunkCond)) : Prop where
  frame : s.WaitersFrame t
  record : ∀ p, s.record r = some p → t.record r = some { p with waiters := p.waiters.filter fun v => !(l.map Prod.fst).contains v }
  records : ∀ q, q ≠ r → t.record q = s.record q
  pool : tableWf s.pool → (s.record r).isSome = true → tableWf t.pool ∧ tableErase t.pool r = tableErase s.pool r
  removals : t.removals = s.removals.filter fun m => !(l.map Prod.fst).contains m.waiter
  slots : ∀ j, (t.slot j).core = l.foldl (fun c x => if x.1.slot = j then c.serve x.1.ordinal x.2 else c) (s.slot j).core
  others : ∀ j, (∀ x ∈ l, x.1.slot ≠ j) → t.slot j = s.slot j

theorem State.Serves.nil (r : Nat) : s.Serves s r [] where
  frame := rfl
  record := fun p h => by simpa using h
  records := fun _ _ => rfl
  pool := fun h _ => ⟨h, rfl⟩
  removals := by simp
  slots := fun _ => rfl
  others := fun _ _ => rfl

theorem State.Serves.append {s t u : State} {r : Nat} {l m : List (Waiter × Option ChunkCond)} (h : s.Serves t r l) (k : t.Serves u r m) :
    s.Serves u r (l ++ m) where
  frame := h.frame.trans k.frame
  record := fun p e => by
    rw [k.record _ (h.record p e)]
    simp only [List.filter_filter, List.map_append, List.contains_append, Bool.not_or, Bool.and_comm]
  records := fun q e => (k.records q e).trans (h.records q e)
  pool := fun wf used => by
    obtain ⟨p, e⟩ := Option.isSome_iff_exists.1 used
    obtain ⟨wft, erase⟩ := h.pool wf used
    obtain ⟨wfu, erase'⟩ := k.pool wft (by rw [h.record p e]; rfl)
    exact ⟨wfu, erase'.trans erase⟩
  removals := by
    rw [k.removals, h.removals]
    simp only [List.filter_filter, List.map_append, List.contains_append, Bool.not_or, Bool.and_comm]
  slots := fun j => by rw [k.slots, h.slots, List.foldl_append]
  others := fun j e => (k.others j fun x hx => e x (List.mem_append_right _ hx)).trans (h.others j fun x hx => e x (List.mem_append_left _ hx))

/-- A record changed, and the others. -/
theorem State.record_editRecord (r q : Nat) (f : PoolRecord → PoolRecord) :
    (s.editRecord r f).record q = if q = r then (s.record r).map f else s.record q := by
  unfold State.editRecord
  cases e : s.record r with
  | none =>
    by_cases same : q = r
    · simp [same, e]
    · simp [same]
  | some p =>
    by_cases same : q = r
    · rw [if_pos same, same]; exact tableGet_tablePut_self r (f p)
    · rw [if_neg same]; exact tableGet_tablePut_of_ne (f p) same

/-- A number that is not in a table is taken out of it with no effect. -/
theorem tableErase_of_absent {α : Type} {t : Table α} {n : Nat} (h : ∀ e ∈ t, e.1 ≠ n) : tableErase t n = t := by
  induction t with
  | nil => rfl
  | cons a t ih =>
    obtain ⟨first, rest⟩ := List.forall_mem_cons.1 h
    rw [tableErase, if_neg first, ih rest]

/-- A number taken out of a table after it has been written is as taken out before. -/
theorem tableErase_tablePut {α : Type} {t : Table α} (n : Nat) (x : α) (wf : tableWf t) : tableErase (tablePut t n x) n = tableErase t n := by
  induction t with
  | nil => simp [tablePut, tableErase]
  | cons a t ih =>
    obtain ⟨k, v⟩ := a
    obtain ⟨low, rest⟩ := List.pairwise_cons.1 wf
    unfold tablePut
    split
    · rename_i lt
      have absent : ∀ e ∈ (k, v) :: t, e.1 ≠ n := List.forall_mem_cons.2 ⟨by simp only; omega, fun e he => by
        have : k < e.1 := low e he
        omega⟩
      rw [tableErase_of_absent absent]
      simp [tableErase]
    · split
      · rename_i e
        simp [tableErase, e]
      · rename_i ne
        simp only [tableErase, if_neg (Ne.symm ne), ih rest]

theorem State.dropWaiter_serves (r : Nat) (w : Waiter) :
    let t := s.dropWaiter r w
    s.WaitersFrame t ∧ (∀ j, t.slot j = s.slot j) ∧
    (∀ p, s.record r = some p → t.record r = some { p with waiters := p.waiters.filter fun v => v != w }) ∧
    (∀ q, q ≠ r → t.record q = s.record q) ∧
    (tableWf s.pool → tableWf t.pool ∧ tableErase t.pool r = tableErase s.pool r) ∧ t.removals = s.removals.filter fun m => m.waiter != w := by
  intro t
  have record (q : Nat) := s.record_editRecord r q fun p => { p with waiters := p.waiters.filter fun v => v != w }
  obtain ⟨pool, e⟩ := s.editRecord_eq r fun p => { p with waiters := p.waiters.filter fun v => v != w }
  have edited : t = { s with pool := pool, removals := s.removals.filter fun m => m.waiter != w } := by
    rw [show t = { s.editRecord r fun p => { p with waiters := p.waiters.filter fun v => v != w } with
      removals := (s.editRecord r fun p => { p with waiters := p.waiters.filter fun v => v != w }).removals.filter fun m => m.waiter != w } from rfl, e]
  refine ⟨by rw [edited]; rfl, fun j => by rw [edited]; rfl, fun p h => ?_, fun q ne => ?_, fun wf => ?_, by rw [edited]⟩
  · exact (record r).trans (by rw [if_pos rfl, h]; rfl)
  · exact (record q).trans (if_neg ne)
  · have tpool : t.pool = (s.editRecord r fun p => { p with waiters := p.waiters.filter fun v => v != w }).pool := rfl
    rw [tpool]
    unfold State.editRecord
    split
    · exact ⟨tableWf_tablePut r _ wf, tableErase_tablePut r _ wf⟩
    · exact ⟨wf, rfl⟩

/-- A waiter is discarded: its stream's count is given back (R101, R107). -/
theorem State.discardWaiter_serves (r : Nat) (w : Waiter) : s.Serves (s.discardWaiter r w) r [(w, none)] := by
  obtain ⟨frame, slot, record, records, pool, removals⟩ := s.dropWaiter_serves r w
  obtain ⟨rest, self, others⟩ := State.dropInflight_core (s.dropWaiter r w) w.slot
  have tpool : (s.discardWaiter r w).pool = (s.dropWaiter r w).pool := by rw [State.discardWaiter, rest]
  have trecord (q : Nat) : (s.discardWaiter r w).record q = (s.dropWaiter r w).record q := by rw [State.record, State.record, tpool]
  refine ⟨frame.trans rest.waitersFrame, fun p h => ?_, fun q ne => by rw [trecord, records q ne], fun wf _ => by rw [tpool]; exact pool wf, ?_, fun j => ?_,
    fun j e => ?_⟩
  · rw [trecord, record p h]
    simp only [List.map_cons, List.map_nil, List.contains_cons, List.contains_nil, Bool.or_false, bne]
  · rw [State.discardWaiter, rest, removals]
    simp only [List.map_cons, List.map_nil, List.contains_cons, List.contains_nil, Bool.or_false, bne]
  · simp only [List.foldl_cons, List.foldl_nil]
    by_cases e : w.slot = j
    · subst e
      rw [if_pos rfl, State.discardWaiter, self, slot]; rfl
    · rw [if_neg e, State.discardWaiter, others j (Ne.symm e), slot]
  · have ne : w.slot ≠ j := e _ List.mem_cons_self
    rw [State.discardWaiter, others j ne.symm, slot]

/-- A waiter is resolved: the chunk of an open stream takes the outcome, and the stream's count is given back (R100). -/
theorem State.resolveWaiter_serves (r : Nat) (w : Waiter) (v : Verdict) (n : Nat) (k : Cause) :
    s.Serves (s.resolveWaiter r w v n k) r [(w, some (.resolved v n k))] := by
  obtain ⟨frame, slot, record, records, pool, removals⟩ := s.dropWaiter_serves r w
  unfold State.resolveWaiter
  dsimp only
  generalize s.dropWaiter r w = u at *
  obtain ⟨rest, self, others⟩ := u.resolveOpen_core w.slot w.ordinal v n k
  generalize (if (u.slot w.slot).state.isOpen then u.resolveChunk w.slot w.ordinal v n k else u) = x at *
  obtain ⟨rest', self', others'⟩ := x.dropInflight_core w.slot
  have rest'' := rest.trans rest'
  have tpool : (x.dropInflight w.slot).pool = u.pool := by rw [rest'']
  have trecord (q : Nat) : (x.dropInflight w.slot).record q = u.record q := by rw [State.record, State.record, tpool]
  refine ⟨frame.trans rest''.waitersFrame, fun p h => ?_, fun q ne => by rw [trecord, records q ne], fun wf _ => by rw [tpool]; exact pool wf, ?_, fun j => ?_,
    fun j e => ?_⟩
  · rw [trecord, record p h]
    simp only [List.map_cons, List.map_nil, List.contains_cons, List.contains_nil, Bool.or_false, bne]
  · rw [rest'', removals]
    simp only [List.map_cons, List.map_nil, List.contains_cons, List.contains_nil, Bool.or_false, bne]
  · simp only [List.foldl_cons, List.foldl_nil]
    by_cases e : w.slot = j
    · subst e
      rw [if_pos rfl, self', self, slot]; rfl
    · rw [if_neg e, others' j (Ne.symm e), others j (Ne.symm e), slot]
  · have ne : w.slot ≠ j := e _ List.mem_cons_self
    rw [others' j ne.symm, others j ne.symm, slot]

end Sys2Proof.Machine

namespace Sys2Proof.Machine

set_option Elab.async false

variable {s t : State}

/-! ### WAITER_REMOVAL (R101) -/

theorem State.refresh_core (s : State) (i j : SlotNo) : ((s.refresh i).slot j).core = (s.slot j).core := by
  obtain ⟨-, self, others⟩ := s.refresh_spec i
  by_cases e : j = i
  · subst e; rw [self]; rfl
  · rw [others j e]

/-- The removals to come, and whether the waiter still stands on its record's list, decide what a removal does (R101; log entry 24). -/
theorem waitersOf_contains_iff {r : Nat} {w : Waiter} :
    (s.waitersOf r).contains w = true ↔ ∃ p, s.record r = some p ∧ w ∈ p.waiters := by
  unfold State.waitersOf
  split
  · rename_i p e
    rw [e, List.contains_iff_mem]
    exact ⟨fun h => ⟨p, rfl, h⟩, fun ⟨q, e, h⟩ => by cases e; exact h⟩
  · rename_i e
    rw [e]
    exact ⟨fun h => by simp at h, fun ⟨_, e, _⟩ => by cases e⟩

/-- Settles O43: a waiter that still waits is discarded, by `State.discardWaiter_serves`; else the removal has nothing to remove. -/
theorem waiterIsRemoved : Obligations.WaiterIsRemoved := by
  rintro s i o w left settled rfl rfl
  refine ⟨fun m p found record waits aborting => ?_, fun m found gone => ?_, fun absent => ?_⟩
  · have key : m.waiter = { slot := i, ordinal := o } := by
      have := List.find?_some found
      simpa using this
    have run : exec (.waiterRemoval i o) s = .next (s.endEvent ((s.begun.discardWaiter m.record { slot := i, ordinal := o }).refresh i)) := by
      have found' : s.begun.removals.find? (fun m => m.waiter == { slot := i, ordinal := o }) = some m := found
      have stands : (s.begun.slot i).state = .aborting ∧ (s.begun.waitersOf m.record).contains m.waiter = true :=
        ⟨aborting, waitersOf_contains_iff.2 ⟨p, record, key ▸ waits⟩⟩
      rw [key] at stands
      simp only [exec, execWaiterRemoval, settled.eq, found', if_pos stands, key, State.endEvent_begun]
    have serves := s.begun.discardWaiter_serves m.record { slot := i, ordinal := o }
    generalize s.begun.discardWaiter m.record { slot := i, ordinal := o } = u at *
    obtain ⟨frame, self, others⟩ := u.refresh_spec i
    have core := u.refresh_core i
    generalize u.refresh i = v at *
    have ends := s.endEvent_eq v
    have urecord := serves.record p record
    have ucore : (u.slot i).core = (s.slot i).core.dropped := by
      have := serves.slots i
      simpa [Slot.serve] using this
    have uframe := serves.frame
    generalize s.endEvent v = t at *
    have slot (j : SlotNo) : t.slot j = v.slot j := by rw [ends]; rfl
    have tcore : (t.slot i).core = (s.slot i).core.dropped := by rw [slot, core, ucore]
    have trecord (q : Nat) : t.record q = u.record q := by rw [State.record, State.record, ends, frame]
    refine ⟨t, run, ?_, fun q ne => ?_, ?_, fun j ne => ?_, ?_, ?_, ?_, ?_⟩
    · rw [trecord, urecord]
      simp only [List.map_cons, List.map_nil, List.contains_cons, List.contains_nil, Bool.or_false, bne]
    · rw [trecord, serves.records q ne]; rfl
    · rw [ends, frame]
      have := serves.removals
      simpa only [List.map_cons, List.map_nil, List.contains_cons, List.contains_nil, Bool.or_false, bne, State.begun_removals] using this
    · rw [slot, others j ne, serves.others j (by simpa using ne.symm)]; rfl
    · rw [ends, frame, uframe]; rfl
    · rw [ends, frame, uframe]; rfl
    · exact congrArg Slot.inflight tcore
    · refine (congrArg Slot.state tcore).trans ?_
      have last : (s.slot i).inflight - 1 = 0 ↔ (s.slot i).inflight ≤ 1 := by omega
      simp only [Slot.core, Slot.dropped, aborting, true_and, last]
  · have found' : s.begun.removals.find? (fun m => m.waiter == { slot := i, ordinal := o }) = some m := found
    have key : m.waiter = { slot := i, ordinal := o } := by
      have := List.find?_some found
      simpa using this
    have gone' : ¬((s.begun.slot i).state = .aborting ∧ (s.begun.waitersOf m.record).contains m.waiter = true) := by
      rintro ⟨aborting, stands⟩
      obtain ⟨p, record, waits⟩ := waitersOf_contains_iff.1 stands
      rcases gone with gone | ⟨q, record', absent⟩ | other
      · exact Option.some_ne_none p (record.symm.trans gone)
      · cases record'.symm.trans record
        exact absent (key ▸ waits)
      · exact other aborting
    rw [key] at gone'
    simp only [exec, execWaiterRemoval, settled.eq, found', if_neg gone', key]
    rfl
  · have absent' : s.begun.removals.find? (fun m => m.waiter == { slot := i, ordinal := o }) = none := absent
    simp only [exec, execWaiterRemoval, settled.eq, absent']

end Sys2Proof.Machine

namespace Sys2Proof.Machine

set_option Elab.async false

variable {s t u : State}

/-! ### Operations at a clean bucket (R70, R83) -/

/-- The check of clean ways changes nothing (R83). -/
theorem State.checkWays_clean (s : State) (b : Nat) (ws : List WayNo) :
    s.checkWays b (ws.map fun w => (w, (Vector.replicate 16 Ecc.clean).get w)) = (s, none) := by
  induction ws with
  | nil => rfl
  | cons w ws ih =>
    rw [List.map_cons, Vector.get_replicate, State.checkWays]
    exact ih

theorem State.runFrom_clean (s : State) (op : Op) : s.runFrom op (eccList (Vector.replicate 16 .clean)) = s.runBody op := by
  unfold State.runFrom eccList
  rw [s.checkWays_clean op.bucket]

/-- Handing on what an operation has changed changes no core (R132, R163). -/
theorem State.refreshAll_core (s : State) (j : SlotNo) : (s.refreshAll.slot j).core = (s.slot j).core := by
  unfold State.refreshAll
  generalize changedFrom s.slots.toList 0 = l
  induction l generalizing s with
  | nil => rfl
  | cons i l ih => rw [List.foldl_cons, ih, s.refresh_core]

/-- It leaves a slot with nothing to hand on as it is. -/
theorem State.refreshAll_slot (s : State) (j : SlotNo) (h : (s.slot j).marks = (s.slot j).marksDue) : s.refreshAll.slot j = s.slot j := by
  unfold State.refreshAll
  generalize changedFrom s.slots.toList 0 = l
  induction l generalizing s with
  | nil => rfl
  | cons i l ih =>
    have same : (s.refresh i).slot j = s.slot j := by
      by_cases e : j = i
      · subst e
        have := (s.refresh_spec j).2.1
        rw [this, ← h]
      · exact (s.refresh_spec i).2.2 j e
    rw [List.foldl_cons, ih _ (by rw [same]; exact h), same]

theorem State.refreshAll_spec (s : State) :
    s.refreshAll = { s with slots := s.refreshAll.slots, notice := s.refreshAll.notice, port := s.refreshAll.port } := by
  unfold State.refreshAll
  generalize changedFrom s.slots.toList 0 = l
  induction l generalizing s with
  | nil => rfl
  | cons i l ih =>
    obtain ⟨frame, -⟩ := s.refresh_spec i
    rw [List.foldl_cons, ih, frame]

/-- An operation that is carried out at a clean bucket and completes: what the event leaves of the state that its body has made. -/
structure State.Completed (s t u : State) (key : OpKey) : Prop where
  frame : t = { u with
    index := { u.index with inflight := u.index.inflight.eraseP fun o => o.kind.key == key }, slots := t.slots, notice := t.notice, port := t.port }
  core : ∀ j, (t.slot j).core = (u.slot j).core
  slot : ∀ j, (u.slot j).marks = (u.slot j).marksDue → t.slot j = u.slot j

/-- The event of an operation that completes at a clean bucket (R70, R132). -/
theorem State.Settled.completes {key : OpKey} {op : Op} (settled : s.Settled) (ready : readyOp key s.index.inflight = some op) (kind : op.kind.key = key)
    (body : s.begun.runBody op = (u, none)) :
    ∃ t, s.settled.complete key (Vector.replicate 16 .clean) = .next t ∧ s.Completed t u key ∧
      t = s.endEvent ({ u with index := { u.index with inflight := u.index.inflight.eraseP fun o => o.kind.key == key } } : State).refreshAll := by
  have run : s.settled.complete key (Vector.replicate 16 .clean) =
      .next (s.endEvent ({ u with index := { u.index with inflight := u.index.inflight.eraseP fun o => o.kind.key == key } } : State).refreshAll) := by
    have ready' : readyOp key s.begun.index.inflight = some op := ready
    rw [settled.eq, State.complete, ready']
    dsimp only
    rw [State.endEvent_begun, State.carryOut, State.runFrom_clean, body, kind]
    rfl
  generalize hx : ({ u with index := { u.index with inflight := u.index.inflight.eraseP fun o => o.kind.key == key } } : State) = x at run
  have xslot (j : SlotNo) : x.slot j = u.slot j := by rw [← hx]; rfl
  have spec := x.refreshAll_spec
  have core := x.refreshAll_core
  have slots := x.refreshAll_slot
  generalize x.refreshAll = y at *
  have ends := s.endEvent_eq y
  generalize s.endEvent y = t at *
  have tslot (j : SlotNo) : t.slot j = y.slot j := by rw [ends]; rfl
  refine ⟨t, run, ⟨?_, fun j => ?_, fun j h => ?_⟩, rfl⟩
  · rw [ends, spec, ← hx]
  · rw [tslot, core, xslot]
  · rw [tslot, slots j (by rw [xslot]; exact h), xslot]

/-- A slot that the operation has not touched is as it was, its conditions having been handed on. -/
theorem State.Completed.slot_of_same {key : OpKey} (h : s.Completed t u key) (handed : s.HandedOn) {j : SlotNo} (same : u.slot j = s.slot j) :
    t.slot j = s.slot j := by
  rw [h.slot j (by rw [same]; exact handed j), same]

/-! ### LOOKUP_INSERT: what its stream takes (R75) -/

/-- An outcome that resolves a chunk, taken by its stream: dropped where that is ABORTING (R31, R75). -/
theorem State.takeResolved_core (s : State) (l : Lookup) (v : Verdict) (n : Nat) (k : Cause) :
    s.SlotsAndPort (s.takeResolved l v n k) ∧
    ((s.takeResolved l v n k).slot l.slot).core = ((s.slot l.slot).core.settle l.ordinal (.resolved v n k)).dropped ∧
    ∀ j, j ≠ l.slot → (s.takeResolved l v n k).slot j = s.slot j := by
  unfold State.takeResolved
  obtain ⟨rest, self, others⟩ := s.resolveOpen_core l.slot l.ordinal v n k
  dsimp only at *
  generalize (if (s.slot l.slot).state.isOpen then s.resolveChunk l.slot l.ordinal v n k else s) = x at *
  obtain ⟨rest', self', others'⟩ := x.dropInflight_core l.slot
  exact ⟨rest.trans rest', by rw [self', self], fun j e => by rw [others' j e, others j e]⟩

/-- What a stream that is open, or ABORTING, holds after it has taken an outcome. -/
theorem Slot.taken_spec {c d : Slot} {o : Nat} {k : ChunkCond} (core : d.core = (c.core.settle o k).dropped) :
    d.inflight = c.inflight - 1 ∧ d.stats = c.stats ∧ d.provList = c.provList ∧ d.provCount = c.provCount ∧
    (c.state.isOpen = true → d.pending = c.pending.map fun p => if p.ordinal = o then { p with cond := k } else p) ∧
    (c.state = .aborting → d.pending = c.pending ∧ d.state = if c.inflight ≤ 1 then .aborted else .aborting) := by
  have last : c.inflight - 1 = 0 ↔ c.inflight ≤ 1 := by omega
  by_cases isOpen : c.state.isOpen = true
  · rw [Slot.settle, if_pos (show c.core.state.isOpen = true from isOpen)] at core
    refine ⟨congrArg Slot.inflight core, (congrArg Slot.stats core :), (congrArg Slot.provList core :), (congrArg Slot.provCount core :),
      fun _ => (congrArg Slot.pending core :), fun aborting => ?_⟩
    rw [aborting] at isOpen
    cases isOpen
  · rw [Slot.settle, if_neg (show ¬c.core.state.isOpen = true from isOpen)] at core
    refine ⟨congrArg Slot.inflight core, (congrArg Slot.stats core :), (congrArg Slot.provList core :), (congrArg Slot.provCount core :),
      fun h => absurd h isOpen, fun aborting => ⟨(congrArg Slot.pending core :), (congrArg Slot.state core).trans ?_⟩⟩
    simp only [Slot.core, Slot.dropped, aborting, true_and, last]

theorem State.setError_spec (s : State) : s.setError = { s with index := { s.index with error := true }, notice := s.setError.notice } := by
  unfold State.setError
  split
  · rename_i on
    rw [← on]
  · rw [State.joinLevel_eq]

theorem State.allocate_of_lt {n : Nat} (h : s.index.counter < s.index.copy.reserved) (e : n = s.index.counter) :
    s.allocate = (.number n, { s with index := { s.index with counter := n + 1 } }) := by
  subst e
  exact if_pos h

/-- Every other way keeps its entry when one is written (R64). -/
theorem State.entry_writeEntry_of_ne (s : State) {b c : Nat} {v w : WayNo} (e : Entry) (h : wayKey c v ≠ wayKey b w) :
    (s.writeEntry b w e).entry c v = s.entry c v := tableGet_tablePut_of_ne e h

theorem State.entry_writeEntry_self (s : State) (b : Nat) (w : WayNo) (e : Entry) : (s.writeEntry b w e).entry b w = some e := tableGet_tablePut_self _ e

end Sys2Proof.Machine

namespace Sys2Proof.Machine

set_option Elab.async false

variable {s t u v : State}

/-! ### LOOKUP_INSERT at a clean bucket (R73, R75) -/

/-- A lookup that comes to an outcome at an entry of its digest (R73). -/
theorem State.runLookup_of_outcome {l : Lookup} {b : Nat} {o : LookupOutcome} {w : WayNo} {e : Entry} (h : s.decideLookup l b = .outcome o w e) :
    s.runLookup l b = ((s.writeEntry b w { e with lastHit := s.index.copy.epoch }).endLookup l o, none) := by
  unfold State.runLookup
  rw [h]

/-- A lookup that needs a number, with one at hand (R73, R74, R77). -/
theorem State.runLookup_of_number {l : Lookup} {b : Nat} {use : NumberUse} (h : s.decideLookup l b = .number use)
    (lt : s.index.counter < s.index.copy.reserved) :
    s.runLookup l b =
      (({ s with index := { s.index with counter := s.index.counter + 1 } } : State).lookupNumber l b use (.number s.index.counter), none) := by
  unfold State.runLookup
  rw [h]
  dsimp only
  rw [State.allocate_of_lt lt rfl]

/-- A lookup that completes at a clean bucket, its stream's slot the only one that its body changes. -/
theorem State.Settled.lookupCompletes {l : Lookup} {op : Op} (settled : s.Settled) (handed : s.HandedOn)
    (ready : readyOp (.lookup l.slot l.ordinal) s.index.inflight = some op) (kind : op.kind = .lookup l) (body : s.begun.runLookup l op.bucket = (u, none))
    (others : ∀ j, j ≠ l.slot → u.slot j = s.slot j) :
    ∃ t, exec (.lookupInsertComplete l.slot l.ordinal (Vector.replicate 16 .clean)) s = .next t ∧
      t = { u with
        index := { u.index with inflight := u.index.inflight.eraseP fun o => o.kind.key == .lookup l.slot l.ordinal }, slots := t.slots, notice := t.notice
        port := t.port } ∧
      (t.slot l.slot).core = (u.slot l.slot).core ∧ ∀ j, j ≠ l.slot → t.slot j = s.slot j := by
  obtain ⟨t, run, completed, -⟩ := settled.completes ready (by rw [kind]; rfl) (show s.begun.runBody op = (u, none) by rw [State.runBody, kind]; exact body)
  exact ⟨t, run, completed.frame, completed.core _, fun j e => completed.slot_of_same handed (others j e)⟩

/-- One that gives its stream a resolved chunk, from a state `v` that has the slots of `s`. -/
theorem State.Settled.lookupResolves {l : Lookup} {op : Op} {vd : Verdict} {n : Nat} {k : Cause} (settled : s.Settled) (handed : s.HandedOn)
    (ready : readyOp (.lookup l.slot l.ordinal) s.index.inflight = some op) (kind : op.kind = .lookup l)
    (body : s.begun.runLookup l op.bucket = (v.takeResolved l vd n k, none)) (others : ∀ j, j ≠ l.slot → v.slot j = s.slot j) :
    ∃ t, exec (.lookupInsertComplete l.slot l.ordinal (Vector.replicate 16 .clean)) s = .next t ∧
      t = { v with
        index := { v.index with inflight := v.index.inflight.eraseP fun o => o.kind.key == .lookup l.slot l.ordinal }, slots := t.slots, notice := t.notice
        port := t.port } ∧
      (t.slot l.slot).core = ((v.slot l.slot).core.settle l.ordinal (.resolved vd n k)).dropped ∧ ∀ j, j ≠ l.slot → t.slot j = s.slot j := by
  obtain ⟨rest, self, taken⟩ := v.takeResolved_core l vd n k
  obtain ⟨t, run, frame, core, same⟩ := settled.lookupCompletes handed ready kind body fun j e => (taken j e).trans (others j e)
  refine ⟨t, run, ?_, core.trans self, same⟩
  rw [frame, rest]

/-- What a lookup finds at an entry of its digest: the rows of R73. -/
theorem State.decideLookup_dup {l : Lookup} {b : Nat} {w : WayNo} {e : Entry} (found : s.findDigest b l.digest = some (w, e)) (length : e.length = l.length)
    (check : e.check = l.check)
    (own : e.state = .firm ∨ ∃ o r p, e.state = .provisional l.slot o ∧ s.recordAt b w = some (r, p) ∧ p.disp ≠ .withdrawing) :
    s.decideLookup l b = .outcome (.dup e.number) w e := by
  unfold State.decideLookup
  rw [found]
  dsimp only
  rw [if_neg (not_or.2 ⟨not_not.2 length, not_not.2 check⟩)]
  rcases own with firm | ⟨o, r, p, provisional, record, disp⟩
  · rw [firm]
  · rw [provisional]
    dsimp only
    rw [record]
    exact if_pos ⟨rfl, disp⟩

theorem State.decideLookup_held {l : Lookup} {b : Nat} {w : WayNo} {e : Entry} {owner : SlotNo} {o r : Nat} {p : PoolRecord}
    (found : s.findDigest b l.digest = some (w, e)) (length : e.length = l.length) (check : e.check = l.check) (provisional : e.state = .provisional owner o)
    (record : s.recordAt b w = some (r, p)) (other : owner ≠ l.slot ∨ p.disp = .withdrawing) : s.decideLookup l b = .outcome (.held r) w e := by
  unfold State.decideLookup
  rw [found]
  dsimp only
  rw [if_neg (not_or.2 ⟨not_not.2 length, not_not.2 check⟩), provisional]
  dsimp only
  rw [record]
  exact if_neg fun ⟨own, live⟩ => other.elim (fun ne => ne own) live

theorem State.decideLookup_conflict {l : Lookup} {b : Nat} {w : WayNo} {e : Entry} (found : s.findDigest b l.digest = some (w, e))
    (differs : e.length ≠ l.length ∨ e.check ≠ l.check) : s.decideLookup l b = .number .conflict := by
  unfold State.decideLookup
  rw [found]
  exact if_pos differs

/-- A lookup's chunk becomes HELD, and it waits on the record's list (R99); the lookup of an ABORTING stream gives back its count (R31). -/
theorem State.takeHeld_spec (s : State) (l : Lookup) (r : Nat) :
    let t := s.takeOutcome l (.held r)
    t = { s with slots := t.slots, port := t.port, pool := t.pool } ∧ (∀ j, j ≠ l.slot → t.slot j = s.slot j) ∧
    ((s.slot l.slot).state.isOpen = true →
      (∃ st, (t.slot l.slot).core = ({ s.slot l.slot with
        pending := setCond l.ordinal (.held r) (s.slot l.slot).pending
        stats := { (s.slot l.slot).stats with holds := sat48 ((s.slot l.slot).stats.holds + 1) }, state := st } : Slot).core) ∧
      ∀ q, t.record q = if q = r then (s.record r).map (fun p => { p with waiters := p.waiters ++ [{ slot := l.slot, ordinal := l.ordinal }] })
        else s.record q) ∧
    ((s.slot l.slot).state.isOpen = false → t.pool = s.pool ∧ (t.slot l.slot).core = (s.slot l.slot).core.dropped) := by
  dsimp only
  unfold State.takeOutcome
  dsimp only
  by_cases isOpen : (s.slot l.slot).state.isOpen = true
  · rw [if_pos isOpen]
    have record (q : Nat) := s.record_editRecord r q fun p => { p with waiters := p.waiters ++ [{ slot := l.slot, ordinal := l.ordinal }] }
    obtain ⟨pool, e⟩ := s.editRecord_eq r fun p => { p with waiters := p.waiters ++ [{ slot := l.slot, ordinal := l.ordinal }] }
    have slot (j : SlotNo) : (s.editRecord r fun p => { p with waiters := p.waiters ++ [{ slot := l.slot, ordinal := l.ordinal }] }).slot j = s.slot j := by
      rw [e]; rfl
    generalize s.editRecord r _ = a at *
    generalize hf : (fun c : Slot => ({ c with
      pending := setCond l.ordinal (.held r) c.pending, stats := { c.stats with holds := sat48 (c.stats.holds + 1) } } : Slot)) = f
    obtain ⟨rest, self, others⟩ := (a.editSlot l.slot f).decideState_core l.slot
    have all := (a.editSlot_slotsAndPort l.slot f).trans rest
    have held : ((a.editSlot l.slot f).slot l.slot) = f (s.slot l.slot) := by rw [a.slot_editSlot_self, slot]
    generalize (a.editSlot l.slot f).decideState l.slot = t at *
    have tpool : t.pool = a.pool := by rw [all]
    refine ⟨by rw [all, e], fun j ne => by rw [others j ne, a.slot_editSlot_of_ne _ _ _ ne, slot],
      fun _ => ⟨⟨_, by rw [self, held, ← hf]⟩, fun q => by rw [State.record, tpool]; exact record q⟩, fun closed => ?_⟩
    rw [isOpen] at closed
    cases closed
  · rw [if_neg isOpen]
    obtain ⟨rest, self, others⟩ := s.dropInflight_core l.slot
    exact ⟨by rw [rest], others, fun h => absurd h isOpen, fun _ => ⟨by rw [rest], self⟩⟩

/-- Settles O37: each row of R73 by its lemma on `State.decideLookup`, and what the stream takes by `State.takeResolved_core` and `State.takeHeld_spec`. -/
theorem lookupMatches : Obligations.LookupMatches := by
  rintro s l op w e i rfl settled handed ready kind found alive
  have closed (aborting : (s.slot l.slot).state = .aborting) : (s.slot l.slot).state.isOpen = false := by rw [aborting]; rfl
  refine ⟨fun length check => ⟨fun own => ?_, fun owner o r p provisional at' record other => ?_⟩, fun differs lt => ?_⟩
  · generalize hv : (s.begun.writeEntry op.bucket w { e with lastHit := s.begun.index.copy.epoch }).editStats (LookupOutcome.dup e.number).count = v
    have body : s.begun.runLookup l op.bucket = (v.takeResolved l .dup e.number .none, none) := by
      rw [State.runLookup_of_outcome (s := s.begun) (State.decideLookup_dup found length check own), ← hv]; rfl
    have slots (j : SlotNo) : v.slot j = s.slot j := by rw [← hv]; rfl
    obtain ⟨t, run, frame, core, others⟩ := settled.lookupResolves handed ready kind body fun j _ => slots j
    rw [slots] at core
    obtain ⟨inflight, stats, -, -, taken, dropped⟩ := Slot.taken_spec core
    have mem : t.mem = (s.begun.writeEntry op.bucket w { e with lastHit := s.begun.index.copy.epoch }).mem := by rw [frame, ← hv]; rfl
    have entry (b : Nat) (x : WayNo) : t.entry b x = (s.begun.writeEntry op.bucket w { e with lastHit := s.begun.index.copy.epoch }).entry b x := by
      rw [State.entry, State.entry, mem]
    refine ⟨t, run, ⟨⟨others, ?_, ?_, fun b x ne => ?_⟩, ?_, fun aborting => ⟨(dropped aborting).1, inflight, stats, (dropped aborting).2⟩,
      fun isOpen => ⟨inflight, taken isOpen⟩⟩, ?_, ?_, ?_⟩
    · rw [frame, ← hv]; rfl
    · rw [frame, ← hv]; rfl
    · rw [entry, State.entry_writeEntry_of_ne _ _ ne]; rfl
    · rw [frame, ← hv]; rfl
    · rw [frame, ← hv]; rfl
    · rw [entry, State.entry_writeEntry_self]; rfl
    · rw [frame, ← hv]; rfl
  · generalize hv : (s.begun.writeEntry op.bucket w { e with lastHit := s.begun.index.copy.epoch }).editStats (LookupOutcome.held r).count = v
    have body : s.begun.runLookup l op.bucket = (v.takeOutcome l (.held r), none) := by
      rw [State.runLookup_of_outcome (s := s.begun) (State.decideLookup_held found length check provisional at' other), ← hv]; rfl
    have slots (j : SlotNo) : v.slot j = s.slot j := by rw [← hv]; rfl
    have records (q : Nat) : v.record q = s.record q := by rw [← hv]; rfl
    obtain ⟨rest, left, held, dropped⟩ := v.takeHeld_spec l r
    obtain ⟨t, run, frame, core, others⟩ := settled.lookupCompletes handed ready kind body fun j ne => (left j ne).trans (slots j)
    rw [slots] at held dropped
    generalize v.takeOutcome l (.held r) = u at *
    have mem : t.mem = (s.begun.writeEntry op.bucket w { e with lastHit := s.begun.index.copy.epoch }).mem := by rw [frame, rest, ← hv]; rfl
    have entry (b : Nat) (x : WayNo) : t.entry b x = (s.begun.writeEntry op.bucket w { e with lastHit := s.begun.index.copy.epoch }).entry b x := by
      rw [State.entry, State.entry, mem]
    refine ⟨t, run, ⟨others, ?_, ?_, fun b x ne => ?_⟩, ?_, ?_, ?_, fun aborting => ?_, fun isOpen => ?_⟩
    · rw [frame, rest, ← hv]; rfl
    · rw [frame, rest, ← hv]; rfl
    · rw [entry, State.entry_writeEntry_of_ne _ _ ne]; rfl
    · rw [frame, rest, ← hv]; rfl
    · rw [entry, State.entry_writeEntry_self]; rfl
    · rw [frame, rest, ← hv]; rfl
    · obtain ⟨pool, self⟩ := dropped (closed aborting)
      have self := core.trans self
      have last : (s.slot l.slot).inflight - 1 = 0 ↔ (s.slot l.slot).inflight ≤ 1 := by omega
      refine ⟨⟨(congrArg Slot.pending self :), (congrArg Slot.inflight self :), (congrArg Slot.stats self :), (congrArg Slot.state self).trans ?_⟩, ?_⟩
      · simp only [Slot.core, Slot.dropped, aborting, true_and, last]
      · rw [frame]
        exact pool.trans (by rw [← hv]; rfl)
    · obtain ⟨⟨st, self⟩, record'⟩ := held isOpen
      have self := core.trans self
      have trecord (q : Nat) : t.record q = u.record q := by rw [State.record, State.record, frame]
      refine ⟨(congrArg Slot.inflight self :), (congrArg Slot.pending self :), (congrArg (fun c => c.stats.holds) self :), ?_, fun q ne => ?_⟩
      · rw [trecord, record', if_pos rfl, records, record]; rfl
      · rw [trecord, record', if_neg ne, records]
  · generalize hv : (({ s.begun with index := { s.begun.index with counter := s.begun.index.counter + 1 } } : State).editStats
      (LookupOutcome.conflict s.begun.index.counter).count).setError = v
    have body : s.begun.runLookup l op.bucket = (v.takeResolved l .conflict s.index.counter .none, none) := by
      rw [State.runLookup_of_number (s := s.begun) (State.decideLookup_conflict found differs) lt, ← hv]; rfl
    have spec := State.setError_spec (({ s.begun with index := { s.begun.index with counter := s.begun.index.counter + 1 } } : State).editStats
      (LookupOutcome.conflict s.begun.index.counter).count)
    rw [hv] at spec
    have slots (j : SlotNo) : v.slot j = s.slot j := by rw [spec]; rfl
    obtain ⟨t, run, frame, core, others⟩ := settled.lookupResolves handed ready kind body fun j _ => slots j
    rw [slots] at core
    obtain ⟨inflight, stats, -, -, taken, dropped⟩ := Slot.taken_spec core
    have mem : t.mem = s.mem := by rw [frame, spec]; rfl
    refine ⟨t, run, ⟨⟨others, ?_, ?_, fun b x ne => ?_⟩, ?_, fun aborting => ⟨(dropped aborting).1, inflight, stats, (dropped aborting).2⟩,
      fun isOpen => ⟨inflight, taken isOpen⟩⟩, mem, ?_, ?_, ?_⟩
    · rw [frame, spec]; rfl
    · rw [frame, spec]; rfl
    · rw [State.entry, State.entry, mem]
    · rw [frame, spec]; rfl
    · rw [frame, spec]; rfl
    · rw [frame, spec]
    · rw [frame, spec]; rfl

end Sys2Proof.Machine

namespace Sys2Proof.Machine

set_option Elab.async false

/-! ### The records of the Pool that are free (R93, R94) -/

/-- The least number not in a table is not in it. -/
theorem tableGet_leastFree {α : Type} {t : Table α} {n : Nat} (wf : tableWf t) (low : ∀ e ∈ t, n ≤ e.1) :
    tableGet t (leastFree t n) = none ∧ n ≤ leastFree t n := by
  induction t generalizing n with
  | nil => exact ⟨rfl, le_rfl⟩
  | cons a t ih =>
    obtain ⟨k, x⟩ := a
    obtain ⟨rise, wf⟩ := List.pairwise_cons.1 wf
    have first : n ≤ k := low _ List.mem_cons_self
    unfold leastFree
    split
    · rename_i e
      subst e
      obtain ⟨absent, above⟩ := ih (n := k + 1) wf rise
      refine ⟨?_, by omega⟩
      rw [tableGet, if_neg (by omega), absent]
    · rename_i ne
      have lt : n < k := by omega
      exact ⟨tableGet_none_of_lt (List.forall_mem_cons.2 ⟨lt, fun e he => lt.trans (rise e he)⟩), le_rfl⟩

/-- There is a free number among the first ones, more than the table has. -/
theorem leastFree_le {α : Type} (t : Table α) (n : Nat) : leastFree t n ≤ n + t.length := by
  induction t generalizing n with
  | nil => simp [leastFree]
  | cons a t ih =>
    unfold leastFree
    rw [List.length_cons]
    split
    · exact (ih (n + 1)).trans (by omega)
    · omega

/-- A table of numbers within bounds is no longer than they allow. -/
theorem length_le_of_within {α : Type} {t : Table α} {n m : Nat} (wf : tableWf t) (low : ∀ e ∈ t, n ≤ e.1) (high : ∀ e ∈ t, e.1 < m) : t.length ≤ m - n := by
  induction t generalizing n with
  | nil => simp
  | cons a t ih =>
    obtain ⟨rise, wf⟩ := List.pairwise_cons.1 wf
    have first : n ≤ a.1 := low a List.mem_cons_self
    have last : a.1 < m := high a List.mem_cons_self
    have rest := ih (n := a.1 + 1) wf (fun e he => rise e he) fun e he => high e (List.mem_cons_of_mem a he)
    rw [List.length_cons]
    omega

/-- Where the table has them all, the least free number is past the last. -/
theorem leastFree_of_full {α : Type} {t : Table α} {n : Nat} (wf : tableWf t) (low : ∀ e ∈ t, n ≤ e.1) (high : ∀ e ∈ t, e.1 < n + t.length) :
    leastFree t n = n + t.length := by
  induction t generalizing n with
  | nil => rfl
  | cons a t ih =>
    obtain ⟨k, x⟩ := a
    obtain ⟨rise, wf'⟩ := List.pairwise_cons.1 wf
    have first : n ≤ k := low _ List.mem_cons_self
    rw [List.length_cons] at high ⊢
    have le := length_le_of_within wf' (n := k + 1) (fun e he => rise e he) fun e he => high e (List.mem_cons_of_mem _ he)
    have last : k < n + (t.length + 1) := high _ List.mem_cons_self
    have same : k = n := by omega
    subst same
    rw [leastFree, if_pos rfl, ih wf' (fun e he => rise e he) fun e he => (by have := high e (List.mem_cons_of_mem _ he); omega)]
    omega

variable {s t u v : State}

/-- A record in use leaves a free one below 16,384 exactly where fewer are in use (R93). -/
theorem State.Canonical.leastFree_lt (h : s.Canonical) : leastFree s.pool 0 < 16384 ↔ s.pool.length < 16384 := by
  obtain ⟨-, wf, high⟩ := h
  constructor
  · intro lt
    by_contra full
    have le := length_le_of_within wf (n := 0) (m := 16384) (fun _ _ => Nat.zero_le _) high
    have all : s.pool.length = 16384 := by omega
    rw [leastFree_of_full wf (fun _ _ => Nat.zero_le _) (by rw [all, Nat.zero_add]; exact high), all] at lt
    omega
  · exact fun lt => lt_of_le_of_lt (leastFree_le s.pool 0) (by omega)

/-- A record that joins a provisional list stands behind those of lower ordinal and before the first that is not (R95, R108). -/
theorem State.joinProvList_spec (s : State) (r o : Nat) (l : List Nat) :
    ∃ as bs, l = as ++ bs ∧ s.joinProvList r o l = as ++ r :: bs ∧ (∀ q ∈ as, ∀ p, s.record q = some p → p.ordinal < o) ∧
      ∀ q p, bs.head? = some q → s.record q = some p → o ≤ p.ordinal := by
  induction l with
  | nil => exact ⟨[], [], rfl, rfl, by simp, by simp⟩
  | cons q qs ih =>
    obtain ⟨as, bs, split, joined, before, after⟩ := ih
    unfold State.joinProvList
    cases record : s.record q with
    | none =>
      refine ⟨q :: as, bs, by rw [split]; rfl, by dsimp only; rw [joined]; rfl, List.forall_mem_cons.2 ⟨fun p e => ?_, before⟩, after⟩
      rw [record] at e
      cases e
    | some p =>
      dsimp only
      by_cases lt : p.ordinal < o
      · rw [if_pos lt]
        refine ⟨q :: as, bs, by rw [split]; rfl, by rw [joined]; rfl, List.forall_mem_cons.2 ⟨fun x e => ?_, before⟩, after⟩
        rw [record] at e
        cases e
        exact lt
      · rw [if_neg lt]
        refine ⟨[], q :: qs, rfl, rfl, by simp, fun x y head e => ?_⟩
        cases head
        rw [record] at e
        cases e
        omega

/-! ### LOOKUP_INSERT that misses (R74) -/

theorem State.emptyWayOf_eq_none (s : State) (b : Nat) : s.emptyWayOf b = none ↔ ∀ w, s.entry b w ≠ none := by
  simp [State.emptyWayOf, List.find?_eq_none]

/-- The lowest-numbered EMPTY way (R63). -/
theorem State.emptyWayOf_eq_some {b : Nat} {w : WayNo} (empty : s.entry b w = none) (lowest : ∀ v, v < w → s.entry b v ≠ none) : s.emptyWayOf b = some w := by
  refine List.find?_eq_some_iff_getElem.2 ⟨by simp [empty], w.val, by simp, by simp, fun j lt => ?_⟩
  have := lowest ⟨j, by omega⟩ lt
  simpa [Option.isSome_iff_ne_none] using this

/-- What a lookup of a digest that no way holds needs (R74). -/
theorem State.decideLookup_missed {l : Lookup} {b : Nat} (missed : s.findDigest b l.digest = none) :
    s.decideLookup l b = if (s.emptyWayOf b).isNone then .number .bucketFull
      else if (s.slot l.slot).cls.policy = .yield ∧ s.index.fill = .declared then .number .fillYield else .number .insert := by
  unfold State.decideLookup
  rw [missed]

end Sys2Proof.Machine

namespace Sys2Proof.Machine

set_option Elab.async false

variable {s t u v : State}

/-- A lookup that has its number: the counter is past it (R77). -/
def State.numbered (s : State) : State := { s with index := { s.index with counter := s.index.counter + 1 } }

/-- The record of a lookup's stream that is granted and names a way (R94). -/
def Lookup.granted (l : Lookup) (b : Nat) (w : WayNo) : PoolRecord :=
  { bucket := b, way := w, owner := l.slot, ordinal := l.ordinal, disp := .live, waiters := [] }

/-- A lookup's entry is inserted under a number, its record granted (R74, R94). -/
def State.inserted (s : State) (l : Lookup) (b : Nat) (w : WayNo) (n : Nat) : State :=
  let t := (s.setRecord (leastFree s.pool 0) (l.granted b w)).editSlot l.slot fun c => { c with provCount := c.provCount + 1 }
  (t.writeEntry b w
    { state := .provisional l.slot l.ordinal, digest := l.digest, number := n, length := l.length, check := l.check
      lastHit := t.index.copy.epoch }).addOccupancy

theorem State.grant_of_room {l : Lookup} {b : Nat} {w : WayNo} (free : leastFree s.pool 0 < 16384)
    (room : (s.slot l.slot).provCount < (s.slot l.slot).cls.provisionalLimit) :
    s.grant l b w = some (leastFree s.pool 0,
      (s.setRecord (leastFree s.pool 0) (l.granted b w)).editSlot l.slot fun c => { c with provCount := c.provCount + 1 }) := if_pos ⟨free, room⟩

theorem State.grant_of_no_room {l : Lookup} {b : Nat} {w : WayNo}
    (h : (s.slot l.slot).cls.provisionalLimit ≤ (s.slot l.slot).provCount ∨ ¬leastFree s.pool 0 < 16384) : s.grant l b w = none :=
  if_neg fun ⟨free, room⟩ => h.elim (fun full => absurd room (Nat.not_lt.2 full)) fun none' => none' free

/-- What an insertion makes, the stream's record among the others, and what it leaves. -/
theorem State.inserted_spec (s : State) (l : Lookup) (b : Nat) (w : WayNo) (n : Nat) :
    let t := s.inserted l b w n
    t = { s with slots := t.slots, pool := t.pool, mem := t.mem, index := { s.index with occupancy := s.index.occupancy + 1 } } ∧
    t.slot l.slot = { s.slot l.slot with provCount := (s.slot l.slot).provCount + 1 } ∧ (∀ j, j ≠ l.slot → t.slot j = s.slot j) ∧
    t.record (leastFree s.pool 0) = some (l.granted b w) ∧ (∀ q, q ≠ leastFree s.pool 0 → t.record q = s.record q) ∧
    t.entry b w = some
      { state := .provisional l.slot l.ordinal, digest := l.digest, number := n, length := l.length, check := l.check, lastHit := s.index.copy.epoch } ∧
    ∀ c v, wayKey c v ≠ wayKey b w → t.entry c v = s.entry c v := by
  dsimp only
  refine ⟨rfl, ?_, fun j ne => ?_, tableGet_tablePut_self _ _, fun _ ne => tableGet_tablePut_of_ne _ ne, tableGet_tablePut_self _ _,
    fun _ _ ne => tableGet_tablePut_of_ne _ ne⟩
  · exact (s.setRecord (leastFree s.pool 0) (l.granted b w)).slot_editSlot_self l.slot fun c => { c with provCount := c.provCount + 1 }
  · exact (s.setRecord (leastFree s.pool 0) (l.granted b w)).slot_editSlot_of_ne l.slot j (fun c => { c with provCount := c.provCount + 1 }) ne

/-- A chunk that is NEW is taken by its stream, which has the record on its list, or gives it up (R95, R106). -/
def State.recordTaken (s : State) (l : Lookup) (r : Nat) : State :=
  if (s.slot l.slot).state.isOpen then s.editSlot l.slot fun c => { c with provList := s.joinProvList r l.ordinal c.provList }
  else (s.editSlot l.slot fun c => { c with provCount := c.provCount - 1 }).issueWithdraw r

theorem State.joinProvList_congr {l : List Nat} (h : ∀ q ∈ l, s.record q = t.record q) {r o : Nat} : s.joinProvList r o l = t.joinProvList r o l := by
  induction l with
  | nil => rfl
  | cons q l ih =>
    obtain ⟨first, rest⟩ := List.forall_mem_cons.1 h
    unfold State.joinProvList
    rw [first, ih rest]

theorem State.recordTaken_of_open {l : Lookup} {r : Nat} (h : (s.slot l.slot).state.isOpen = true) :
    let t := s.recordTaken l r
    t = { s with slots := t.slots } ∧ t.slot l.slot = { s.slot l.slot with provList := s.joinProvList r l.ordinal (s.slot l.slot).provList } ∧
    ∀ j, j ≠ l.slot → t.slot j = s.slot j := by
  dsimp only
  rw [State.recordTaken, if_pos h]
  exact ⟨rfl, s.slot_editSlot_self _ _, fun j ne => s.slot_editSlot_of_ne _ j _ ne⟩

theorem State.recordTaken_of_aborting {l : Lookup} {r : Nat} (h : (s.slot l.slot).state = .aborting) :
    let t := s.recordTaken l r
    t = { s with slots := t.slots, pool := t.pool, index := { s.index with withdrawal := s.index.withdrawal ++ [r] } } ∧
    t.slot l.slot = { s.slot l.slot with provCount := (s.slot l.slot).provCount - 1 } ∧ (∀ j, j ≠ l.slot → t.slot j = s.slot j) ∧
    ∀ q, t.record q = if q = r then (s.record r).map (fun p => { p with disp := .withdrawing }) else s.record q := by
  dsimp only
  rw [State.recordTaken, if_neg (by rw [h]; exact Bool.false_ne_true), State.issueWithdraw]
  generalize hx : s.editSlot l.slot (fun c => { c with provCount := c.provCount - 1 }) = x
  have self : x.slot l.slot = { s.slot l.slot with provCount := (s.slot l.slot).provCount - 1 } := by rw [← hx]; exact s.slot_editSlot_self _ _
  have others (j : SlotNo) (ne : j ≠ l.slot) : x.slot j = s.slot j := by rw [← hx]; exact s.slot_editSlot_of_ne _ j _ ne
  have rest : x = { s with slots := x.slots } := by rw [← hx]; rfl
  have record (q : Nat) : x.record q = s.record q := by rw [← hx]; rfl
  have edited (q : Nat) := x.record_editRecord r q fun p => { p with disp := .withdrawing }
  obtain ⟨pool, e⟩ := x.editRecord_eq r fun p => { p with disp := .withdrawing }
  have slot (j : SlotNo) : (x.editRecord r fun p => { p with disp := .withdrawing }).slot j = x.slot j := by rw [e]; rfl
  refine ⟨by rw [e, rest], (slot _).trans self, fun j ne => (slot j).trans (others j ne), fun q => ?_⟩
  exact (edited q).trans (by rw [record, record])

/-- A lookup that comes to a number and is UNINDEXED with a cause: what its stream takes, and what stays (R74, R75, R76). -/
theorem State.Settled.lookupUnindexed {l : Lookup} {op : Op} {k : Cause} (settled : s.Settled) (handed : s.HandedOn)
    (ready : readyOp (.lookup l.slot l.ordinal) s.index.inflight = some op) (kind : op.kind = .lookup l)
    (body : s.begun.runLookup l op.bucket = (s.begun.numbered.endLookup l (.unindexed s.index.counter k), none)) :
    ∃ t, exec (.lookupInsertComplete l.slot l.ordinal (Vector.replicate 16 .clean)) s = .next t ∧
      ((t.slot l.slot).inflight = (s.slot l.slot).inflight - 1 ∧
        ((s.slot l.slot).state.isOpen = true → (t.slot l.slot).pending =
          (s.slot l.slot).pending.map fun p => if p.ordinal = l.ordinal then { p with cond := .resolved .unindexed s.index.counter k } else p) ∧
        ((s.slot l.slot).state = .aborting → (t.slot l.slot).pending = (s.slot l.slot).pending ∧
          (t.slot l.slot).state = if (s.slot l.slot).inflight ≤ 1 then .aborted else .aborting) ∧
        (∀ j, j ≠ l.slot → t.slot j = s.slot j) ∧
        t.index.inflight = s.index.inflight.eraseP (fun o => o.kind.key == .lookup l.slot l.ordinal) ∧ t.index.counter = s.index.counter + 1) ∧
      t.index.stats = (LookupOutcome.unindexed s.index.counter k).count s.index.stats ∧ t.mem = s.mem ∧ t.pool = s.pool ∧
      t.index.occupancy = s.index.occupancy ∧ t.index.withdrawal = s.index.withdrawal ∧ (t.slot l.slot).provList = (s.slot l.slot).provList ∧
      (t.slot l.slot).provCount = (s.slot l.slot).provCount := by
  generalize hv : s.begun.numbered.editStats (LookupOutcome.unindexed s.index.counter k).count = v
  have slots (j : SlotNo) : v.slot j = s.slot j := by rw [← hv]; rfl
  have body' : s.begun.runLookup l op.bucket = (v.takeResolved l .unindexed s.index.counter k, none) := by rw [body, ← hv]; rfl
  obtain ⟨t, run, frame, core, others⟩ := settled.lookupResolves handed ready kind body' fun j _ => slots j
  rw [slots] at core
  obtain ⟨inflight, -, list, count, taken, dropped⟩ := Slot.taken_spec core
  refine ⟨t, run, ⟨inflight, taken, dropped, others, ?_, ?_⟩, ?_, ?_, ?_, ?_, ?_, list, count⟩ <;> (rw [frame, ← hv]; rfl)

/-- The state in which a stream takes the chunk that an insertion made NEW. -/
def State.toTakeNew (s : State) (l : Lookup) (b : Nat) (w : WayNo) : State :=
  ((s.begun.numbered.inserted l b w s.index.counter).editStats (LookupOutcome.new s.index.counter (leastFree s.pool 0)).count).recordTaken l (leastFree s.pool 0)

/-- Whether its stream is open or ABORTING, an insertion makes one entry and one record, and counts (R74, R76, R81, R94). -/
theorem State.toTakeNew_spec (s : State) (l : Lookup) (b : Nat) (w : WayNo) (alive : (s.slot l.slot).state.isOpen = true ∨ (s.slot l.slot).state = .aborting) :
    let t := s.toTakeNew l b w
    t.index = { s.index with
      counter := s.index.counter + 1, occupancy := s.index.occupancy + 1
      stats := (LookupOutcome.new s.index.counter (leastFree s.pool 0)).count s.index.stats
      withdrawal := if (s.slot l.slot).state.isOpen then s.index.withdrawal else s.index.withdrawal ++ [leastFree s.pool 0] } ∧
    t.slot l.slot =
      (if (s.slot l.slot).state.isOpen then
        { s.slot l.slot with
          provCount := (s.slot l.slot).provCount + 1
          provList := (s.begun.numbered.inserted l b w s.index.counter).joinProvList (leastFree s.pool 0) l.ordinal (s.slot l.slot).provList }
      else s.slot l.slot) ∧
    (∀ j, j ≠ l.slot → t.slot j = s.slot j) ∧
    t.record (leastFree s.pool 0) = some { l.granted b w with disp := if (s.slot l.slot).state.isOpen then .live else .withdrawing } ∧
    (∀ q, q ≠ leastFree s.pool 0 → t.record q = s.record q) ∧
    t.entry b w = some
      { state := .provisional l.slot l.ordinal, digest := l.digest, number := s.index.counter, length := l.length, check := l.check,
        lastHit := s.index.copy.epoch } ∧
    ∀ c v, wayKey c v ≠ wayKey b w → t.entry c v = s.entry c v := by
  obtain ⟨rest, self, others, record, records, entry, entries⟩ := s.begun.numbered.inserted_spec l b w s.index.counter
  dsimp only
  unfold State.toTakeNew
  generalize s.begun.numbered.inserted l b w s.index.counter = x at *
  generalize hy : x.editStats (LookupOutcome.new s.index.counter (leastFree s.pool 0)).count = y
  have slot (j : SlotNo) : y.slot j = x.slot j := by rw [← hy]; rfl
  have yrecord (q : Nat) : y.record q = x.record q := by rw [← hy]; rfl
  have yjoin (o : Nat) (ps : List Nat) : y.joinProvList (leastFree s.pool 0) o ps = x.joinProvList (leastFree s.pool 0) o ps := 
    State.joinProvList_congr fun q _ => yrecord q
  have ymem : y.mem = x.mem := by rw [← hy]; rfl
  have yindex : y.index = { s.index with
      counter := s.index.counter + 1, occupancy := s.index.occupancy + 1
      stats := (LookupOutcome.new s.index.counter (leastFree s.pool 0)).count s.index.stats } := by rw [← hy, rest]; rfl
  have same : (y.slot l.slot).state = (s.slot l.slot).state := by rw [slot, self]; rfl
  rcases alive with isOpen | aborting
  · obtain ⟨rest', self', others'⟩ := State.recordTaken_of_open (s := y) (l := l) (r := leastFree s.pool 0) (by rw [same]; exact isOpen)
    generalize y.recordTaken l (leastFree s.pool 0) = t at *
    have trecord (q : Nat) : t.record q = x.record q := by rw [← yrecord, State.record, State.record, rest']
    have tentry (c : Nat) (v : WayNo) : t.entry c v = x.entry c v := by rw [State.entry, State.entry, rest', ymem]
    simp only [isOpen, if_true]
    refine ⟨by rw [rest', yindex], by rw [self', slot, self, yjoin]; rfl, fun j ne => by rw [others' j ne, slot, others j ne]; rfl,
      by rw [trecord]; exact record, fun q ne => by rw [trecord]; exact records q ne, by rw [tentry]; exact entry,
      fun c v ne => by rw [tentry]; exact entries c v ne⟩
  · obtain ⟨rest', self', others', record'⟩ := State.recordTaken_of_aborting (s := y) (l := l) (r := leastFree s.pool 0) (by rw [same]; exact aborting)
    generalize y.recordTaken l (leastFree s.pool 0) = t at *
    have tentry (c : Nat) (v : WayNo) : t.entry c v = x.entry c v := by rw [State.entry, State.entry, rest', ymem]
    have closed : (s.slot l.slot).state.isOpen = false := by rw [aborting]; rfl
    simp only [closed, Bool.false_eq_true, if_false]
    refine ⟨by rw [rest', yindex], by rw [self', slot, self]; rfl, fun j ne => by rw [others' j ne, slot, others j ne]; rfl,
      by rw [record', if_pos rfl, yrecord]; exact congrArg (Option.map _) record, fun q ne => by rw [record', if_neg ne, yrecord]; exact records q ne,
      by rw [tentry]; exact entry, fun c v ne => by rw [tentry]; exact entries c v ne⟩

/-- A record granted stands in ordinal position on its stream's list, the records of that list as they were (R95). -/
theorem State.joinProvList_inserted (s : State) (l : Lookup) (b : Nat) (w : WayNo) (free : s.record (leastFree s.pool 0) = none) (ps : List Nat) :
    ∃ as bs, ps = as ++ bs ∧ (s.begun.numbered.inserted l b w s.index.counter).joinProvList (leastFree s.pool 0) l.ordinal ps = as ++ leastFree s.pool 0 :: bs ∧
      (∀ q ∈ as, ∀ p, s.record q = some p → p.ordinal < l.ordinal) ∧ ∀ q p, bs.head? = some q → s.record q = some p → l.ordinal ≤ p.ordinal := by
  obtain ⟨-, -, -, -, records, -⟩ := s.begun.numbered.inserted_spec l b w s.index.counter
  obtain ⟨as, bs, split, joined, before, after⟩ :=
    (s.begun.numbered.inserted l b w s.index.counter).joinProvList_spec (leastFree s.pool 0) l.ordinal ps
  have same {q : Nat} {p : PoolRecord} (record : s.record q = some p) : (s.begun.numbered.inserted l b w s.index.counter).record q = some p := by
    refine (records q fun e => ?_).trans record
    rw [e] at record
    exact Option.some_ne_none p (record.symm.trans free)
  exact ⟨as, bs, split, joined, fun q mem p record => before q mem p (same record), fun q p head record => after q p head (same record)⟩

/-- Settles O38: the tests of R74 in their order by `State.decideLookup_missed`, the grant by `leastFree`, and what the stream takes by `Slot.taken_spec`. -/
theorem lookupMisses : Obligations.LookupMisses := by
  rintro s l op i rfl settled handed ready kind missed alive lt canonical
  have decide := State.decideLookup_missed (s := s.begun) (l := l) (b := op.bucket) missed
  have unindexed (k : Cause) (use : NumberUse) (need : s.begun.decideLookup l op.bucket = .number use)
      (ends : s.begun.numbered.lookupNumber l op.bucket use (.number s.index.counter) = s.begun.numbered.endLookup l (.unindexed s.index.counter k)) :=
    settled.lookupUnindexed handed ready kind ((State.runLookup_of_number (s := s.begun) need lt).trans (congrArg (·, none) ends))
  refine ⟨fun full => ?_, fun w empty lowest => ⟨fun yields declared => ?_, fun goes => ?_⟩⟩
  · refine unindexed .bucketFull .bucketFull ?_ rfl
    rw [decide, if_pos (by rw [(State.emptyWayOf_eq_none s.begun op.bucket).2 full]; rfl)]
  · refine unindexed .fillYield .fillYield ?_ rfl
    rw [decide, State.emptyWayOf_eq_some (s := s.begun) empty lowest, if_neg (by simp), if_pos ⟨yields, declared⟩]
  have inserts : s.begun.decideLookup l op.bucket = .number .insert := by
    rw [decide, State.emptyWayOf_eq_some (s := s.begun) empty lowest, if_neg (by simp), if_neg]
    rintro ⟨yields, declared⟩
    rcases goes with always | normal
    · rw [show (s.slot l.slot).cls.policy = .yield from yields] at always; cases always
    · rw [show s.index.fill = .declared from declared] at normal; cases normal
  have way : s.begun.numbered.emptyWayOf op.bucket = some w := State.emptyWayOf_eq_some (s := s.begun.numbered) empty lowest
  refine ⟨fun refused => ?_, fun room fewer => ?_⟩
  · refine unindexed .provisionalLimit .insert inserts ?_
    have no := State.grant_of_no_room (s := s.begun.numbered) (l := l) (b := op.bucket) (w := w)
      (refused.imp_right fun (all : s.pool.length = 16384) => mt canonical.leastFree_lt.1 (by omega))
    simp only [State.lookupNumber, way, no]
  · have free : leastFree s.pool 0 < 16384 := canonical.leastFree_lt.2 fewer
    have unused : s.record (leastFree s.pool 0) = none := (tableGet_leastFree canonical.2.1 fun _ _ => Nat.zero_le _).1
    have granted := State.grant_of_room (s := s.begun.numbered) (l := l) (b := op.bucket) (w := w) free room
    have body : s.begun.runLookup l op.bucket = ((s.toTakeNew l op.bucket w).takeResolved l .new s.index.counter .none, none) := by
      rw [State.runLookup_of_number (s := s.begun) inserts lt]
      change (s.begun.numbered.lookupNumber l op.bucket .insert (.number s.index.counter), none) = _
      simp only [State.lookupNumber, way, granted]
      rfl
    obtain ⟨index, self, others, record, records, entry, entries⟩ := s.toTakeNew_spec l op.bucket w alive
    obtain ⟨as, bs, split, joined, before, after⟩ := s.joinProvList_inserted l op.bucket w unused (s.slot l.slot).provList
    rw [joined] at self
    generalize s.toTakeNew l op.bucket w = v at *
    obtain ⟨t, run, frame, core, same⟩ := settled.lookupResolves handed ready kind body others
    obtain ⟨inflight, -, list, count, taken, dropped⟩ := Slot.taken_spec core
    have trecord (q : Nat) : t.record q = v.record q := by rw [State.record, State.record, frame]
    have tentry (c : Nat) (x : WayNo) : t.entry c x = v.entry c x := by rw [State.entry, State.entry, frame]
    have tindex : t.index = { v.index with inflight := v.index.inflight.eraseP fun o => o.kind.key == .lookup l.slot l.ordinal } := by rw [frame]
    rw [index] at tindex
    have closed (aborting : (s.slot l.slot).state = .aborting) : (s.slot l.slot).state.isOpen = false := by rw [aborting]; rfl
    have kept : (v.slot l.slot).state = (s.slot l.slot).state ∧ (v.slot l.slot).inflight = (s.slot l.slot).inflight ∧
        (v.slot l.slot).pending = (s.slot l.slot).pending := by
      rw [self]
      split <;> exact ⟨rfl, rfl, rfl⟩
    obtain ⟨keptState, keptInflight, keptPending⟩ := kept
    rw [keptState, keptPending] at taken dropped
    rw [keptInflight] at inflight dropped
    refine ⟨t, leastFree s.pool 0, run, ⟨inflight, taken, dropped, same, by rw [tindex], by rw [tindex]⟩, free, unused,
      (trecord _).trans record, fun q ne => (trecord q).trans (records q ne), fun isOpen => ?_, fun aborting => ?_, (tentry _ _).trans entry,
      fun b x ne => (tentry b x).trans (entries b x ne), by rw [tindex], by rw [tindex]; rfl⟩
    · rw [if_pos isOpen] at self tindex
      exact ⟨count.trans (by rw [self]), by rw [tindex], as, bs, split, list.trans (by rw [self]), before, after⟩
    · rw [if_neg (by rw [closed aborting]; exact Bool.false_ne_true)] at self tindex
      exact ⟨count.trans (by rw [self]), list.trans (by rw [self]), by rw [tindex]⟩

end Sys2Proof.Machine

namespace Sys2Proof.Machine

set_option Elab.async false

/-! ### What waiters that leave a list leave of a slot (R31, R32, R100) -/

/-- A slot after waiters have left a list, of which some are its own. -/
def Slot.served (c : Slot) (j : SlotNo) (l : List (Waiter × Option ChunkCond)) : Slot :=
  l.foldl (fun c x => if x.1.slot = j then c.serve x.1.ordinal x.2 else c) c

/-- The condition of a chunk after waiters have left a list: the last outcome for it. -/
def condServed (j : SlotNo) (o : Nat) (l : List (Waiter × Option ChunkCond)) (k : ChunkCond) : ChunkCond :=
  l.foldl (fun k x => if x.1 = { slot := j, ordinal := o } then x.2.getD k else k) k

theorem Slot.serve_inflight (c : Slot) (o : Nat) (k : Option ChunkCond) : (c.serve o k).inflight = c.inflight - 1 := by
  cases k with
  | none => rfl
  | some k =>
    by_cases h : c.state.isOpen = true
    · rw [Slot.serve, Slot.settle, if_pos h]; rfl
    · rw [Slot.serve, Slot.settle, if_neg h]; rfl

/-- One waiter that leaves a list changes the count, the state and the pending chunks of its slot. -/
theorem Slot.serve_rest (c : Slot) (o : Nat) (k : Option ChunkCond) :
    c.serve o k = { c with inflight := (c.serve o k).inflight, state := (c.serve o k).state, pending := (c.serve o k).pending } := by
  cases k with
  | none => rfl
  | some k =>
    by_cases h : c.state.isOpen = true
    · rw [Slot.serve, Slot.settle, if_pos h]; rfl
    · rw [Slot.serve, Slot.settle, if_neg h]; rfl

theorem Slot.dropped_of_open {c : Slot} (h : c.state.isOpen = true) : c.dropped.state = c.state := by
  refine if_neg fun ⟨aborting, _⟩ => ?_
  rw [aborting] at h
  cases h

/-- An open stream stays open, and its chunk takes the outcome if there is one. -/
theorem Slot.serve_of_open {c : Slot} (o : Nat) (k : Option ChunkCond) (h : c.state.isOpen = true) :
    (c.serve o k).state.isOpen = true ∧ (c.serve o k).pending = c.pending.map fun p => if p.ordinal = o then { p with cond := k.getD p.cond } else p := by
  cases k with
  | none =>
    refine ⟨(congrArg SlotState.isOpen (Slot.dropped_of_open h)).trans h, ?_⟩
    simp [Slot.serve, Slot.dropped]
  | some k =>
    have decided (d : Slot) : d.decided.isOpen = true := d.decided_isOpen
    have settled : (c.settle o k).state.isOpen = true := by rw [Slot.settle, if_pos h]; exact decided _
    refine ⟨(congrArg SlotState.isOpen (Slot.dropped_of_open settled)).trans settled, ?_⟩
    show (c.settle o k).pending = _
    rw [Slot.settle, if_pos h]
    rfl

/-- One that is not keeps its pending chunks, and its state but for the passage to ABORTED. -/
theorem Slot.serve_of_closed {c : Slot} (o : Nat) (k : Option ChunkCond) (h : c.state.isOpen = false) :
    (c.serve o k).pending = c.pending ∧ (c.serve o k).state = if c.state = .aborting ∧ c.inflight - 1 = 0 then .aborted else c.state := by
  cases k with
  | none => exact ⟨rfl, rfl⟩
  | some k =>
    have same : c.settle o k = c := if_neg (by rw [h]; exact Bool.false_ne_true)
    unfold Slot.serve
    dsimp only
    rw [same]
    exact ⟨rfl, rfl⟩

variable {c : Slot} {j : SlotNo} {l : List (Waiter × Option ChunkCond)}

theorem Slot.served_cons (c : Slot) (j : SlotNo) (x : Waiter × Option ChunkCond) (l : List (Waiter × Option ChunkCond)) :
    c.served j (x :: l) = (if x.1.slot = j then c.serve x.1.ordinal x.2 else c).served j l := rfl

/-- Waiters of other slots leave a slot as it is. -/
theorem Slot.served_of_none (h : ∀ x ∈ l, x.1.slot ≠ j) : c.served j l = c := by
  induction l with
  | nil => rfl
  | cons x l ih =>
    obtain ⟨first, rest⟩ := List.forall_mem_cons.1 h
    rw [Slot.served_cons, if_neg first, ih rest]

theorem Slot.served_inflight (c : Slot) (j : SlotNo) (l : List (Waiter × Option ChunkCond)) :
    (c.served j l).inflight = c.inflight - l.countP fun x => x.1.slot == j := by
  induction l generalizing c with
  | nil => rfl
  | cons x l ih =>
    rw [Slot.served_cons, ih, List.countP_cons]
    by_cases e : x.1.slot = j
    · rw [if_pos e, Slot.serve_inflight, if_pos (beq_iff_eq.2 e)]
      omega
    · rw [if_neg e, if_neg fun h => e (beq_iff_eq.1 h), Nat.add_zero]

theorem Slot.served_rest (c : Slot) (j : SlotNo) (l : List (Waiter × Option ChunkCond)) :
    c.served j l = { c with inflight := (c.served j l).inflight, state := (c.served j l).state, pending := (c.served j l).pending } := by
  induction l generalizing c with
  | nil => rfl
  | cons x l ih =>
    rw [Slot.served_cons, ih]
    split
    · generalize Slot.served _ j l = d
      rw [c.serve_rest]
    · rfl

/-- An open stream whose waiters leave stays open, each of its chunks with the last outcome for it. -/
theorem Slot.served_of_open (h : c.state.isOpen = true) :
    (c.served j l).state.isOpen = true ∧ (c.served j l).pending = c.pending.map fun p => { p with cond := condServed j p.ordinal l p.cond } := by
  induction l generalizing c with
  | nil => exact ⟨h, by simp [Slot.served, condServed]⟩
  | cons x l ih =>
    rw [Slot.served_cons]
    obtain ⟨w, k⟩ := x
    by_cases e : w.slot = j
    · obtain ⟨stays, pending⟩ := c.serve_of_open w.ordinal k h
      rw [if_pos e]
      obtain ⟨stays', pending'⟩ := ih stays
      refine ⟨stays', ?_⟩
      rw [pending', pending, List.map_map]
      refine List.map_congr_left fun p _ => ?_
      subst e
      by_cases o : p.ordinal = w.ordinal
      · simp only [Function.comp, condServed, List.foldl_cons, o, if_true]
      · have ne : w ≠ { slot := w.slot, ordinal := p.ordinal } := fun same => o (congrArg Waiter.ordinal same).symm
        simp only [Function.comp, condServed, List.foldl_cons, if_neg o, if_neg ne]
    · rw [if_neg e]
      obtain ⟨stays', pending'⟩ := ih h
      refine ⟨stays', pending'.trans (List.map_congr_left fun p _ => ?_)⟩
      have ne : w ≠ { slot := j, ordinal := p.ordinal } := fun same => e (congrArg Waiter.slot same)
      simp only [condServed, List.foldl_cons, if_neg ne]

/-- A stream that is neither open nor ABORTING keeps its state. -/
theorem Slot.served_state (h : c.state.isOpen = false) (ne : c.state ≠ .aborting) : (c.served j l).state = c.state ∧ (c.served j l).pending = c.pending := by
  induction l generalizing c with
  | nil => exact ⟨rfl, rfl⟩
  | cons x l ih =>
    rw [Slot.served_cons]
    split
    · obtain ⟨pending, state⟩ := c.serve_of_closed x.1.ordinal x.2 h
      rw [if_neg fun k => ne k.1] at state
      obtain ⟨state', pending'⟩ := ih (by rw [state]; exact h) (by rw [state]; exact ne)
      exact ⟨state'.trans state, pending'.trans pending⟩
    · exact ih h ne

/-- An ABORTING stream of which a waiter leaves becomes ABORTED where its count comes to 0, and only there (R32). -/
theorem Slot.served_of_aborting (h : c.state = .aborting) (some : ∃ x ∈ l, x.1.slot = j) :
    (c.served j l).state = if (c.served j l).inflight = 0 then .aborted else .aborting := by
  induction l generalizing c with
  | nil => obtain ⟨_, mem, _⟩ := some; cases mem
  | cons x l ih =>
    rw [Slot.served_cons]
    by_cases e : x.1.slot = j
    · rw [if_pos e]
      obtain ⟨-, state⟩ := c.serve_of_closed x.1.ordinal x.2 (by rw [h]; rfl)
      have count := c.serve_inflight x.1.ordinal x.2
      generalize c.serve x.1.ordinal x.2 = d at *
      by_cases zero : c.inflight - 1 = 0
      · rw [if_pos ⟨h, zero⟩] at state
        rw [(Slot.served_state (by rw [state]; rfl) (by rw [state]; nofun)).1, state, Slot.served_inflight, if_pos (by omega)]
      · rw [if_neg fun k => zero k.2, h] at state
        by_cases more : ∃ x ∈ l, x.1.slot = j
        · exact ih state more
        · have none' : l.countP (fun x => x.1.slot == j) = 0 := List.countP_eq_zero.2 fun x mem k => more ⟨x, mem, beq_iff_eq.1 k⟩
          rw [Slot.served_of_none fun x mem k => more ⟨x, mem, k⟩, state, count, if_neg zero]
    · rw [if_neg e]
      obtain ⟨y, mem, k⟩ := some
      rcases List.mem_cons.1 mem with rfl | mem
      · exact absurd k e
      · exact ih h ⟨y, mem, k⟩

end Sys2Proof.Machine

namespace Sys2Proof.Machine

set_option Elab.async false

variable {s t u : State} {r : Nat} {l : List (Waiter × Option ChunkCond)}

/-! ### The slots after waiters have left a list -/

theorem State.Serves.core (h : s.Serves t r l) (j : SlotNo) : (t.slot j).core = (s.slot j).core.served j l := h.slots j

theorem State.Serves.inflight (h : s.Serves t r l) (j : SlotNo) : (t.slot j).inflight = (s.slot j).inflight - l.countP fun x => x.1.slot == j :=
  (congrArg Slot.inflight (h.core j) :).trans ((s.slot j).core.served_inflight j l)

theorem State.Serves.of_open (h : s.Serves t r l) {j : SlotNo} (isOpen : (s.slot j).state.isOpen = true) :
    (t.slot j).state.isOpen = true ∧ (t.slot j).pending = (s.slot j).pending.map fun p => { p with cond := condServed j p.ordinal l p.cond } := by
  obtain ⟨stays, pending⟩ := Slot.served_of_open (c := (s.slot j).core) (j := j) (l := l) isOpen
  exact ⟨(congrArg (fun c => c.state.isOpen) (h.core j)).trans stays, (congrArg Slot.pending (h.core j)).trans pending⟩

theorem State.Serves.of_aborting (h : s.Serves t r l) {j : SlotNo} (aborting : (s.slot j).state = .aborting) (own : ∃ x ∈ l, x.1.slot = j) :
    (t.slot j).state = if (t.slot j).inflight = 0 then .aborted else .aborting := by
  have inflight : (t.slot j).inflight = ((s.slot j).core.served j l).inflight := (congrArg Slot.inflight (h.core j) :)
  rw [inflight]
  exact (congrArg Slot.state (h.core j)).trans (Slot.served_of_aborting (c := (s.slot j).core) aborting own)

theorem State.Serves.of_not_live (h : s.Serves t r l) {j : SlotNo} (closed : (s.slot j).state.isOpen = false) (ne : (s.slot j).state ≠ .aborting) :
    (t.slot j).state = (s.slot j).state :=
  (congrArg Slot.state (h.core j)).trans (Slot.served_state (c := (s.slot j).core) closed ne).1

/-- What else of a context the leaving of waiters keeps. -/
theorem State.Serves.kept (h : s.Serves t r l) (j : SlotNo) :
    (t.slot j).stored = (s.slot j).stored ∧ (t.slot j).written = (s.slot j).written ∧ (t.slot j).cls = (s.slot j).cls ∧
    (t.slot j).provCount = (s.slot j).provCount ∧ (t.slot j).provList = (s.slot j).provList := by
  have core := (h.core j).trans ((s.slot j).core.served_rest j l)
  exact ⟨(congrArg Slot.stored core :), (congrArg Slot.written core :), (congrArg Slot.cls core :), (congrArg Slot.provCount core :),
    (congrArg Slot.provList core :)⟩

/-- The waiters of a list are resolved in turn, each with the same outcome (R100). -/
theorem State.resolveWaiters_serves (s : State) (r : Nat) (ws : List Waiter) (v : Verdict) (n : Nat) (k : Cause) :
    s.Serves (ws.foldl (fun s w => s.resolveWaiter r w v n k) s) r (ws.map fun w => (w, some (.resolved v n k))) := by
  induction ws generalizing s with
  | nil => exact .nil s r
  | cons w ws ih => exact (s.resolveWaiter_serves r w v n k).append (ih _)

/-- Where every outcome is the same, a chunk of which a waiter leaves takes it. -/
theorem condServed_same (j : SlotNo) (o : Nat) (ws : List Waiter) (v k : ChunkCond) :
    condServed j o (ws.map fun w => (w, some v)) k = if ws.contains { slot := j, ordinal := o } then v else k := by
  induction ws generalizing k with
  | nil => rfl
  | cons w ws ih =>
    rw [List.map_cons, condServed, List.foldl_cons]
    refine (ih _).trans ?_
    rw [List.contains_cons]
    by_cases e : w = { slot := j, ordinal := o }
    · simp [e]
    · simp [e, Ne.symm e]

/-! ### FIRM (R103) -/

theorem State.tryClose_core (s : State) (i : SlotNo) :
    s.SlotsAndPort (s.tryClose i) ∧
    ((s.tryClose i).slot i).core =
      ({ s.slot i with state := if (s.slot i).state = .settling then (s.slot i).settles else (s.slot i).state } : Slot).core ∧
    ∀ j, j ≠ i → (s.tryClose i).slot j = s.slot j := by
  by_cases settling : (s.slot i).state = .settling
  · obtain ⟨rest, self, others⟩ := s.tryClose_spec i settling
    rw [if_pos settling]
    exact ⟨rest, by rw [self]; rfl, others⟩
  · have same : s.tryClose i = s := if_neg fun h => settling h.1
    rw [if_neg settling, same]
    exact ⟨rfl, rfl, fun _ _ => rfl⟩

/-- The end of a FIRM: its owner's count is given back, a SETTLING owner becomes CLOSED and an ABORTING one ABORTED where that is due (R28, R32, R103). -/
theorem State.endFirm_spec (s : State) (i : SlotNo) :
    let t := s.endFirm i
    s.SlotsAndPort t ∧ (∀ j, j ≠ i → t.slot j = s.slot j) ∧ (t.slot i).inflight = (s.slot i).inflight - 1 ∧ (t.slot i).pending = (s.slot i).pending ∧
    ((s.slot i).state = .settling → (t.slot i).state = if (s.slot i).stored = (s.slot i).written ∧ (t.slot i).inflight = 0 then .closed else .settling) ∧
    ((s.slot i).state = .aborting ∨ (s.slot i).state = .aborted ∧ (s.slot i).inflight = 0 →
      (t.slot i).state = if (t.slot i).inflight = 0 then .aborted else .aborting) := by
  dsimp only
  unfold State.endFirm
  obtain ⟨rest, self, others⟩ := s.dropInflight_core i
  generalize s.dropInflight i = u at *
  obtain ⟨rest', self', others'⟩ := u.tryClose_core i
  generalize u.tryClose i = t at *
  have inflight : (t.slot i).inflight = (s.slot i).inflight - 1 := (congrArg Slot.inflight self' :).trans (congrArg Slot.inflight self :)
  have was : (u.slot i).inflight = (s.slot i).inflight - 1 := (congrArg Slot.inflight self :)
  have state : (u.slot i).state = if (s.slot i).state = .aborting ∧ (s.slot i).inflight - 1 = 0 then .aborted else (s.slot i).state :=
    (congrArg Slot.state self :)
  have closes : (t.slot i).state = if (u.slot i).state = .settling then (u.slot i).settles else (u.slot i).state := (congrArg Slot.state self' :)
  have stored : (u.slot i).stored = (s.slot i).stored := (congrArg Slot.stored self :)
  have written : (u.slot i).written = (s.slot i).written := (congrArg Slot.written self :)
  refine ⟨rest.trans rest', fun j ne => (others' j ne).trans (others j ne), inflight, (congrArg Slot.pending self' :).trans (congrArg Slot.pending self :),
    fun settling => ?_, fun h => ?_⟩
  · rw [settling, if_neg (by nofun)] at state
    rw [closes, if_pos state, Slot.settles, stored, written, was, inflight]
  · have ends : (u.slot i).state = if (s.slot i).inflight - 1 = 0 then .aborted else .aborting := by
      rcases h with aborting | ⟨aborted, zero⟩
      · rw [state, aborting]; simp
      · rw [state, aborted, zero]; simp
    rw [closes, inflight, ← ends, if_neg]
    rw [ends]
    split <;> nofun

/-- What a FIRM leaves of a state `s` whose record `p` it frees: its owner, the Pool and the index (R28, R31, R32, R103). -/
def State.FirmEnded (s t : State) (r : Nat) (p : PoolRecord) : Prop :=
  ((s.slot p.owner).state = .settling → (t.slot p.owner).state =
    if (s.slot p.owner).stored = (s.slot p.owner).written ∧ (t.slot p.owner).inflight = 0 then .closed else .settling) ∧
  ((s.slot p.owner).state = .aborting → (t.slot p.owner).state = if (t.slot p.owner).inflight = 0 then .aborted else .aborting) ∧
  t.index.inflight = s.index.inflight.eraseP (fun o => o.kind.key == .firm r) ∧ t.record r = none ∧ (∀ q, q ≠ r → t.record q = s.record q) ∧
  t.index.occupancy = s.index.occupancy ∧ t.index.counter = s.index.counter

/-- A FIRM whose waiters have left, from a state `u` with the slots and the Pool of `s`, to the state `x` in which the record becomes free. -/
theorem State.Settled.firmEnds {x : State} {op : Op} {p : PoolRecord} (settled : s.Settled) (handed : s.HandedOn)
    (ready : readyOp (.firm r) s.index.inflight = some op) (kind : op.kind = .firm r) (record : s.record r = some p) (canonical : s.Canonical)
    (before : u = { s.begun with mem := u.mem, index := { s.index with stats := u.index.stats } }) (serves : u.Serves x r l)
    (body : s.begun.runFirm r = (x.freeRecord r).endFirm p.owner) :
    ∃ t, exec (.firmComplete r (Vector.replicate 16 .clean)) s = .next t ∧ s.FirmEnded t r p ∧ t.mem = u.mem ∧ t.index.stats = u.index.stats ∧
      (∀ j, (t.slot j).inflight = (s.slot j).inflight - l.countP (fun y => y.1.slot == j) - if j = p.owner then 1 else 0) ∧
      (∀ j, (s.slot j).state.isOpen = true → (t.slot j).pending = (s.slot j).pending.map fun y => { y with cond := condServed j y.ordinal l y.cond }) ∧
      ∀ j, j ≠ p.owner → (∀ y ∈ l, y.1.slot ≠ j) → t.slot j = s.slot j := by
  have slots (j : SlotNo) : u.slot j = s.slot j := by rw [before]; rfl
  have pool : u.pool = s.pool := by rw [before]; rfl
  have urecord (q : Nat) : u.record q = s.record q := by rw [State.record, State.record, pool]
  obtain ⟨wf, -⟩ := serves.pool (by rw [pool]; exact canonical.2.1) (by rw [urecord, record]; rfl)
  obtain ⟨rest, others, inflight, pending, settles, aborts⟩ := (x.freeRecord r).endFirm_spec p.owner
  have run : s.begun.runBody op = ((x.freeRecord r).endFirm p.owner, none) := by rw [State.runBody, kind]; exact congrArg (·, none) body
  generalize (x.freeRecord r).endFirm p.owner = z at *
  have free (j : SlotNo) : (x.freeRecord r).slot j = x.slot j := rfl
  obtain ⟨t, event, completed, -⟩ := settled.completes ready (by rw [kind]; rfl) run
  have zpool : z.pool = tableErase x.pool r := by rw [rest]; rfl
  have frame : x = { u with slots := x.slots, port := x.port, pool := x.pool, removals := x.removals } := serves.frame
  have zindex : z.index = u.index := by rw [rest, frame]; rfl
  have zmem : z.mem = u.mem := by rw [rest, frame]; rfl
  have trecord (q : Nat) : t.record q = tableGet (tableErase x.pool r) q := by rw [State.record, completed.frame, ← zpool]
  have tinflight (j : SlotNo) : (t.slot j).inflight = (z.slot j).inflight := (congrArg Slot.inflight (completed.core j) :)
  have tpending (j : SlotNo) : (t.slot j).pending = (z.slot j).pending := (congrArg Slot.pending (completed.core j) :)
  have tstate (j : SlotNo) : (t.slot j).state = (z.slot j).state := (congrArg Slot.state (completed.core j) :)
  have zpending (j : SlotNo) : (z.slot j).pending = (x.slot j).pending := by
    by_cases e : j = p.owner
    · rw [e]; exact pending
    · rw [others j e]; rfl
  have index : u.index = { s.index with stats := u.index.stats } := congrArg State.index before
  refine ⟨t, event, ⟨fun settling => ?_, fun aborting => ?_, ?_, ?_, fun q ne => ?_, ?_, ?_⟩, ?_, ?_, fun j => ?_, fun j isOpen => ?_, fun j ne none' => ?_⟩
  · obtain ⟨stored, written, -⟩ := serves.kept p.owner
    have same := serves.of_not_live (j := p.owner) (by rw [slots, settling]; rfl) (by rw [slots, settling]; nofun)
    rw [slots] at same stored written
    rw [tstate, tinflight, ← stored, ← written]
    exact settles (same.trans settling)
  · rw [tstate, tinflight]
    refine aborts ?_
    by_cases own : ∃ y ∈ l, y.1.slot = p.owner
    · have state := serves.of_aborting (j := p.owner) (by rw [slots]; exact aborting) own
      by_cases zero : (x.slot p.owner).inflight = 0
      · rw [if_pos zero] at state
        exact .inr ⟨state, zero⟩
      · rw [if_neg zero] at state
        exact .inl state
    · exact .inl ((congrArg Slot.state (serves.others p.owner fun y mem e => own ⟨y, mem, e⟩)).trans (by rw [slots]; exact aborting))
  · rw [completed.frame]
    dsimp only
    rw [zindex, index]
  · rw [trecord, tableGet_tableErase_self wf]
  · rw [trecord, tableGet_tableErase_of_ne ne]
    exact (serves.records q ne).trans (urecord q)
  · rw [completed.frame]
    dsimp only
    rw [zindex, index]
  · rw [completed.frame]
    dsimp only
    rw [zindex, index]
  · rw [completed.frame]
    exact zmem
  · rw [completed.frame]
    dsimp only
    rw [zindex]
  · have count := serves.inflight j
    rw [slots] at count
    rw [tinflight]
    by_cases e : j = p.owner
    · subst e
      rw [if_pos rfl, ← count]
      exact inflight
    · rw [if_neg e, others j e, Nat.sub_zero, ← count]
      rfl
  · rw [tpending, zpending, ← slots]
    exact (serves.of_open (by rw [slots]; exact isOpen)).2
  · refine completed.slot_of_same handed ((others j ne).trans ((serves.others j none').trans (slots j)))

/-- Settles O40: the waiters of the record by `State.resolveWaiters_serves`, and its owner by `State.endFirm_spec`. -/
theorem firmCompletes : Obligations.FirmCompletes := by
  intro s r op p settled handed ready kind record canonical
  have record' : s.begun.record r = some p := record
  refine ⟨fun e live entry => ?_, fun lost => ?_⟩
  · have entry' : s.begun.entry p.bucket p.way = some e := entry
    have body : s.begun.runFirm r = (State.freeRecord (p.waiters.foldl (fun s w => s.resolveWaiter r w .dup e.number .none)
        ((s.begun.writeEntry p.bucket p.way { e with state := .firm }).editStats fun t => { t with firms := sat48 (t.firms + 1) })) r).endFirm p.owner := by
      unfold State.runFirm
      rw [record']
      dsimp only
      split
      · contradiction
      · rename_i none' _
        rw [entry'] at none'
        cases none'
      · rename_i e' some' _
        rw [entry'] at some'
        cases some'
        rfl
    obtain ⟨t, run, ended, mem, stats, inflight, pending, others⟩ :=
      settled.firmEnds handed ready kind record canonical (by rfl) (State.resolveWaiters_serves _ r p.waiters .dup e.number .none) body
    have tentry (b : Nat) (w : WayNo) : t.entry b w = (s.begun.writeEntry p.bucket p.way { e with state := .firm }).entry b w := by
      rw [State.entry, mem]; rfl
    refine ⟨t, run, ended, (tentry _ _).trans (State.entry_writeEntry_self _ _ _ _), fun b v ne => (tentry b v).trans (State.entry_writeEntry_of_ne _ _ ne), ?_,
      fun j => ?_, fun j isOpen => ?_, fun j ne none' => ?_⟩
    · rw [stats]; rfl
    · rw [inflight, List.countP_map]; rfl
    · rw [pending j isOpen]
      refine List.map_congr_left fun x _ => ?_
      rw [condServed_same]
      split <;> rfl
    · refine others j ne fun y mem => ?_
      obtain ⟨w, mem', rfl⟩ := List.mem_map.1 mem
      exact none' w mem'
  · have body : s.begun.runFirm r = (s.begun.freeRecord r).endFirm p.owner := by
      unfold State.runFirm
      rw [record']
      dsimp only
      rw [lost]
    obtain ⟨t, run, ended, mem, stats, inflight, -, others⟩ := settled.firmEnds handed ready kind record canonical (by rfl) (.nil s.begun r) body
    refine ⟨t, run, ended, mem, stats, ?_, fun j ne => others j ne nofun⟩
    rw [inflight, if_pos rfl]
    rfl

end Sys2Proof.Machine

namespace Sys2Proof.Machine

set_option Elab.async false

variable {s t u : State} {r : Nat} {l : List (Waiter × Option ChunkCond)}

/-! ### WITHDRAW: waiters discarded and passed over (R107, R109) -/

theorem State.Serves.index_eq (h : s.Serves t r l) : t.index = s.index := by
  have frame : t = { s with slots := t.slots, port := t.port, pool := t.pool, removals := t.removals } := h.frame
  rw [frame]

theorem State.Serves.mem_eq (h : s.Serves t r l) : t.mem = s.mem := by
  have frame : t = { s with slots := t.slots, port := t.port, pool := t.pool, removals := t.removals } := h.frame
  rw [frame]

/-- The index unit has no part in what waiters leave. -/
theorem State.Serves.withIndex (h : s.Serves t r l) (x : IndexUnit) : State.Serves { s with index := x } { t with index := x } r l where
  frame := by
    have frame : t = { s with slots := t.slots, port := t.port, pool := t.pool, removals := t.removals } := h.frame
    show { t with index := x } = _
    rw [frame]
  record := h.record
  records := h.records
  pool := h.pool
  removals := h.removals
  slots := h.slots
  others := h.others

/-- A waiter is that of an ABORTING stream. -/
def State.ofAborting (s : State) (w : Waiter) : Bool := (s.slot w.slot).state == .aborting

/-- The in-flight count of each ABORTING stream covers its waiters in a list (R31). -/
def State.Covers (s : State) (ws : List Waiter) : Prop :=
  ∀ v ∈ ws, (s.slot v.slot).state = .aborting → ws.countP (fun x => x.slot == v.slot) ≤ (s.slot v.slot).inflight

/-- The waiters of ABORTING streams are discarded, each of them, the counts covering them (step 1 of R107). -/
theorem State.discards (s : State) (r : Nat) (ws : List Waiter) (covers : s.Covers ws) :
    s.Serves (ws.foldl (fun s w => if (s.slot w.slot).state = .aborting then s.discardWaiter r w else s) s) r ((ws.filter s.ofAborting).map (·, none)) := by
  induction ws generalizing s with
  | nil => exact .nil s r
  | cons w ws ih =>
    rw [List.foldl_cons]
    by_cases aborting : (s.slot w.slot).state = .aborting
    · have serves := s.discardWaiter_serves r w
      have core := serves.core w.slot
      rw [if_pos aborting, List.filter_cons_of_pos (by exact beq_iff_eq.2 aborting), List.map_cons]
      have head := covers w List.mem_cons_self aborting
      rw [List.countP_cons_of_pos (by simp)] at head
      have same (v : Waiter) (mem : v ∈ ws) : ((s.discardWaiter r w).slot v.slot).state = (s.slot v.slot).state := by
        by_cases e : v.slot = w.slot
        · have one : 0 < ws.countP fun x => x.slot == w.slot := List.countP_pos_iff.2 ⟨v, mem, beq_iff_eq.2 e⟩
          have state := serves.of_aborting aborting ⟨_, List.mem_cons_self, rfl⟩
          have count := serves.inflight w.slot
          rw [List.countP_cons_of_pos (by simp), List.countP_nil] at count
          rw [e, state, aborting, if_neg (by omega)]
        · rw [serves.others v.slot fun x mem' e' => e (by rw [List.mem_singleton.1 mem'] at e'; exact e'.symm)]
      have filter : ws.filter s.ofAborting = ws.filter (s.discardWaiter r w).ofAborting :=
        List.filter_congr fun v mem => by rw [State.ofAborting, State.ofAborting, same v mem]
      rw [filter]
      refine serves.append (ih _ fun v mem aborting' => ?_)
      rw [same v mem] at aborting'
      have cover := covers v (List.mem_cons_of_mem _ mem) aborting'
      have count := serves.inflight v.slot
      rw [List.countP_cons, List.countP_nil] at count
      rw [List.countP_cons] at cover
      dsimp only at count
      omega
    · rw [if_neg aborting, List.filter_cons_of_neg (by exact mt beq_iff_eq.1 aborting)]
      refine ih s fun v mem aborting' => ?_
      have cover := covers v (List.mem_cons_of_mem _ mem) aborting'
      rw [List.countP_cons] at cover
      omega

/-- Waiters passed over, each at its Provisional Limit, under the fresh numbers from `n` on (R109). -/
def passedOver (n : Nat) (ws : List Waiter) : List (Waiter × Option ChunkCond) :=
  (ws.zipIdx n).map fun x => (x.1, some (.resolved .unindexed x.2 .provisionalLimit))

theorem passedOver_fst (n : Nat) (ws : List Waiter) : (passedOver n ws).map Prod.fst = ws := by
  simp [passedOver, Function.comp_def]

theorem passedOver_countP (n : Nat) (ws : List Waiter) (j : SlotNo) : (passedOver n ws).countP (fun x => x.1.slot == j) = ws.countP fun w => w.slot == j := by
  conv_rhs => rw [← passedOver_fst n ws, List.countP_map]
  rfl

/-- A walk passes over the waiters of open streams at their limit, each with the next number (R109). -/
theorem State.walk_passes (s : State) (r : Nat) (as rest : List Waiter)
    (limit : ∀ v ∈ as, (s.slot v.slot).state.isOpen = true ∧ (s.slot v.slot).cls.provisionalLimit ≤ (s.slot v.slot).provCount)
    (numbers : s.index.counter + as.length ≤ s.index.copy.reserved) :
    ∃ t, s.walk r (as ++ rest) = t.walk r rest ∧
      State.Serves { s with index := { s.index with counter := s.index.counter + as.length } } t r (passedOver s.index.counter as) := by
  induction as generalizing s with
  | nil => exact ⟨s, rfl, .nil s r⟩
  | cons w as ih =>
    rw [List.length_cons] at numbers
    obtain ⟨isOpen, full⟩ := limit w List.mem_cons_self
    have serves := s.numbered.resolveWaiter_serves r w .unindexed s.index.counter .provisionalLimit
    have step : s.walk r (w :: as ++ rest) = (s.numbered.resolveWaiter r w .unindexed s.index.counter .provisionalLimit).walk r (as ++ rest) := by
      have examined : s.numbered.examine r w (.number s.index.counter) =
          (false, s.numbered.resolveWaiter r w .unindexed s.index.counter .provisionalLimit) := by
        unfold State.examine
        dsimp only
        have opened : ¬(s.numbered.slot w.slot).state.isOpen = false := Bool.not_eq_false _ ▸ isOpen
        have no : ¬(s.numbered.slot w.slot).provCount < (s.numbered.slot w.slot).cls.provisionalLimit := Nat.not_lt.2 full
        rw [if_neg opened, if_neg no]
      rw [List.cons_append, State.walk, State.allocate_of_lt (by omega) rfl]
      dsimp only
      rw [show ({ s with index := { s.index with counter := s.index.counter + 1 } } : State) = s.numbered from rfl, examined]
    generalize s.numbered.resolveWaiter r w .unindexed s.index.counter .provisionalLimit = x at *
    have index : x.index = s.numbered.index := serves.index_eq
    have limit' (v : Waiter) (mem : v ∈ as) : (x.slot v.slot).state.isOpen = true ∧ (x.slot v.slot).cls.provisionalLimit ≤ (x.slot v.slot).provCount := by
      obtain ⟨isOpen', full'⟩ := limit v (List.mem_cons_of_mem _ mem)
      obtain ⟨-, -, cls, count, -⟩ := serves.kept v.slot
      rw [cls, count]
      exact ⟨(serves.of_open (j := v.slot) isOpen').1, full'⟩
    obtain ⟨t, walk, serves'⟩ := ih x limit' (by rw [index]; exact (show s.index.counter + 1 + as.length ≤ s.index.copy.reserved by omega))
    refine ⟨t, step.trans walk, ?_⟩
    rw [index] at serves'
    have all := (serves.withIndex { s.index with counter := s.index.counter + 1 + as.length }).append serves'
    rw [List.length_cons, show s.index.counter + (as.length + 1) = s.index.counter + 1 + as.length by omega]
    exact all

/-! ### What a chunk takes of several outcomes -/

theorem condServed_append (j : SlotNo) (o : Nat) (l m : List (Waiter × Option ChunkCond)) (k : ChunkCond) :
    condServed j o (l ++ m) k = condServed j o m (condServed j o l k) := List.foldl_append

theorem condServed_of_none {j : SlotNo} {o : Nat} {l : List (Waiter × Option ChunkCond)} (k : ChunkCond) (h : ∀ x ∈ l, x.1 ≠ { slot := j, ordinal := o }) :
    condServed j o l k = k := by
  induction l with
  | nil => rfl
  | cons x l ih =>
    obtain ⟨first, rest⟩ := List.forall_mem_cons.1 h
    rw [condServed, List.foldl_cons, if_neg first]
    exact ih rest

/-- A chunk whose waiter is passed over takes the number of its place in the list. -/
theorem condServed_passedOver (j : SlotNo) (o n : Nat) {ws : List Waiter} (k : ChunkCond) (nodup : ws.Nodup) :
    condServed j o (passedOver n ws) k =
      if ws.contains { slot := j, ordinal := o } then .resolved .unindexed (n + ws.idxOf { slot := j, ordinal := o }) .provisionalLimit else k := by
  induction ws generalizing n k with
  | nil => rfl
  | cons w ws ih =>
    obtain ⟨new, nodup⟩ := List.nodup_cons.1 nodup
    have step : condServed j o (passedOver n (w :: ws)) k =
        condServed j o (passedOver (n + 1) ws) (if w = { slot := j, ordinal := o } then .resolved .unindexed n .provisionalLimit else k) := rfl
    rw [step, ih (n + 1) _ nodup, List.contains_cons, List.idxOf_cons]
    by_cases e : w = { slot := j, ordinal := o }
    · subst e
      simp [new]
    · by_cases mem : ({ slot := j, ordinal := o } : Waiter) ∈ ws
      · rw [beq_false_of_ne e, beq_false_of_ne (Ne.symm e)]
        simp [mem]
        omega
      · simp [e, Ne.symm e, mem]

end Sys2Proof.Machine

namespace Sys2Proof.Machine

set_option Elab.async false

variable {s t u : State} {r : Nat} {p : PoolRecord}

/-! ### WITHDRAW that finds no new owner (R110) -/

/-- The waiters of ABORTING streams have left a record's list, the others standing in their order (R107). -/
theorem State.discardAborting_spec (record : s.record r = some p) (covers : s.Covers p.waiters) :
    s.Serves (s.discardAborting r) r ((p.waiters.filter s.ofAborting).map (·, none)) ∧
    (s.discardAborting r).waitersOf r = p.waiters.filter fun v => !s.ofAborting v := by
  have waiters : s.waitersOf r = p.waiters := by rw [State.waitersOf, record]
  have serves : s.Serves (s.discardAborting r) r ((p.waiters.filter s.ofAborting).map (·, none)) := by
    rw [State.discardAborting, waiters]
    exact s.discards r p.waiters covers
  refine ⟨serves, ?_⟩
  rw [State.waitersOf, serves.record p record]
  refine List.filter_congr fun v mem => ?_
  simp [mem, Function.comp_def]

/-- A WITHDRAW of a record that is not LOST walks along the waiters that are left (R107). -/
theorem State.runWithdraw_walks {e : Entry} (record : s.record r = some p) (kept : p.disp ≠ .lost) (entry : s.entry p.bucket p.way = some e)
    (covers : s.Covers p.waiters) :
    s.runWithdraw r = State.endWalk r ((s.discardAborting r).walk r (p.waiters.filter fun v => !s.ofAborting v)) := by
  unfold State.runWithdraw
  rw [record]
  dsimp only
  rw [if_neg kept, entry, if_neg (by simp), (State.discardAborting_spec record covers).2]

/-- What has left a record's list when a walk has passed over the waiters `as`: those of ABORTING streams without an outcome, then these. -/
def State.walked (s : State) (ws as : List Waiter) : List (Waiter × Option ChunkCond) :=
  (ws.filter s.ofAborting).map (·, none) ++ passedOver s.index.counter as

theorem State.walked_fst (s : State) (ws as : List Waiter) : (s.walked ws as).map Prod.fst = ws.filter s.ofAborting ++ as := by
  rw [State.walked, List.map_append, passedOver_fst, List.map_map]
  simp [Function.comp_def]

theorem State.walked_countP (s : State) (ws as : List Waiter) (j : SlotNo) :
    (s.walked ws as).countP (fun y => y.1.slot == j) = (ws.filter s.ofAborting).countP (fun v => v.slot == j) + as.countP fun v => v.slot == j := by
  rw [State.walked, List.countP_append, passedOver_countP, List.countP_map]
  rfl

/-- A chunk of a stream that is not ABORTING takes the number of its waiter's place among those passed over. -/
theorem State.condServed_walked {j : SlotNo} (o : Nat) {ws as : List Waiter} (k : ChunkCond) (h : (s.slot j).state ≠ .aborting) (nodup : as.Nodup) :
    condServed j o (s.walked ws as) k = if as.contains { slot := j, ordinal := o } then
      .resolved .unindexed (s.index.counter + as.idxOf { slot := j, ordinal := o }) .provisionalLimit else k := by
  rw [State.walked, condServed_append, condServed_of_none k, condServed_passedOver j o _ k nodup]
  intro x mem e
  obtain ⟨v, mem', rfl⟩ := List.mem_map.1 mem
  have aborting : (s.slot v.slot).state = .aborting := beq_iff_eq.1 (List.mem_filter.1 mem').2
  rw [show v = { slot := j, ordinal := o } from e] at aborting
  exact h aborting

/-- A WITHDRAW comes to the waiters `rest` behind those it passes over (R107, R109). -/
theorem State.runWithdraw_passes {e : Entry} {as rest : List Waiter} (record : s.record r = some p) (kept : p.disp ≠ .lost)
    (entry : s.entry p.bucket p.way = some e) (covers : s.Covers p.waiters) (left : p.waiters.filter (fun v => !s.ofAborting v) = as ++ rest)
    (limit : ∀ v ∈ as, (s.slot v.slot).state.isOpen = true ∧ (s.slot v.slot).cls.provisionalLimit ≤ (s.slot v.slot).provCount)
    (numbers : s.index.counter + as.length ≤ s.index.copy.reserved) :
    ∃ x, s.runWithdraw r = State.endWalk r (x.walk r rest) ∧
      State.Serves { s with index := { s.index with counter := s.index.counter + as.length } } x r (s.walked p.waiters as) := by
  have walks := State.runWithdraw_walks record kept entry covers
  obtain ⟨discarded, -⟩ := State.discardAborting_spec record covers
  rw [left] at walks
  generalize s.discardAborting r = d at *
  have index : d.index = s.index := discarded.index_eq
  have limit' (v : Waiter) (mem : v ∈ as) : (d.slot v.slot).state.isOpen = true ∧ (d.slot v.slot).cls.provisionalLimit ≤ (d.slot v.slot).provCount := by
    obtain ⟨isOpen, full⟩ := limit v mem
    obtain ⟨-, -, cls, count, -⟩ := discarded.kept v.slot
    rw [cls, count]
    exact ⟨(discarded.of_open (j := v.slot) isOpen).1, full⟩
  obtain ⟨x, walk, passed⟩ := d.walk_passes r as rest limit' (by rw [index]; exact numbers)
  rw [index] at passed
  exact ⟨x, walks.trans (congrArg (State.endWalk r) walk), (discarded.withIndex { s.index with counter := s.index.counter + as.length }).append passed⟩

theorem State.runWithdraw_lost (record : s.record r = some p) (lost : p.disp = .lost) : s.runWithdraw r = (s.freeRecord r, none) := by
  unfold State.runWithdraw
  rw [record]
  exact if_pos lost

/-- A walk that comes to the end of the list: the way is EMPTY, occupancy falls, the record is free and the withdrawal is counted (R110). -/
theorem State.endWalk_noOwner {q : PoolRecord} (record : s.record r = some q) :
    State.endWalk r (.noOwner, s) = ({ s with
        mem := { s.mem with ways := tableErase s.mem.ways (wayKey q.bucket q.way) }
        pool := tableErase s.pool r
        index := { s.index with
          occupancy := s.index.occupancy - 1
          stats := { s.index.stats with withdrawals := min (s.index.stats.withdrawals + 1) (2 ^ 48 - 1) } } }, none) := by
  rw [State.endWalk, State.endUnowned, record]
  rfl

/-- A completion that changes the index, its memory and the Pool alone hands nothing on. -/
theorem State.Settled.completesPlainly {key : OpKey} {op : Op} {m : IndexMemory} {q : Table PoolRecord} {x : IndexUnit} (settled : s.Settled)
    (handed : s.HandedOn)
    (ready : readyOp key s.index.inflight = some op) (kind : op.kind.key = key)
    (body : s.begun.runBody op = ({ s.begun with mem := m, pool := q, index := x }, none)) :
    s.settled.complete key (Vector.replicate 16 .clean) =
      .next { s.begun with mem := m, pool := q, index := { x with inflight := x.inflight.eraseP fun o => o.kind.key == key } } := by
  obtain ⟨t, run, -, ends⟩ := settled.completes ready kind body
  have quiet : State.HandedOn { s.begun with mem := m, pool := q, index := { x with inflight := x.inflight.eraseP fun o => o.kind.key == key } } := handed
  have same := s.endEvent_of_same
    (t := { s.begun with mem := m, pool := q, index := { x with inflight := x.inflight.eraseP fun o => o.kind.key == key } }) rfl rfl
  rw [run, ends]
  exact congrArg Host.Outcome.next ((congrArg s.endEvent quiet.refreshAll).trans same)

/-- Settles O41: the waiters by `State.discardAborting_spec` and `State.walk_passes`, the rest by `State.endWalk_noOwner`. -/
theorem withdrawWithoutOwner : Obligations.WithdrawWithoutOwner := by
  rintro s r op p ws settled handed ready kind record canonical rfl
  have record' : s.begun.record r = some p := record
  have kind' : op.kind.key = .withdraw r := by rw [kind]; rfl
  refine ⟨fun kept ⟨e, entry⟩ => ⟨fun waiters => ?_, fun nodup limit covers numbers => ?_⟩, fun lost => ?_⟩
  · have body : s.begun.runBody op = ({ s.begun with
        mem := { s.mem with ways := tableErase s.mem.ways (wayKey p.bucket p.way) }
        pool := tableErase s.pool r
        index := { s.index with
          occupancy := s.index.occupancy - 1
          stats := { s.index.stats with withdrawals := min (s.index.stats.withdrawals + 1) (2 ^ 48 - 1) } } }, none) := by
      rw [State.runBody, kind]
      refine (State.runWithdraw_walks (s := s.begun) record' kept (e := e) entry (by rw [waiters]; nofun)).trans ?_
      have none' : s.begun.discardAborting r = s.begun := by rw [State.discardAborting, State.waitersOf, record']; dsimp only; rw [waiters]; rfl
      rw [none', waiters]
      exact State.endWalk_noOwner record'
    exact settled.completesPlainly handed ready kind' body
  · generalize hws : p.waiters.filter (fun v => (s.slot v.slot).state != .aborting) = ws at *
    have left : p.waiters.filter (fun v => !s.begun.ofAborting v) = ws := hws
    obtain ⟨x, walk, serves⟩ := State.runWithdraw_passes (s := s.begun) (rest := []) record' kept (e := e) entry covers (left.trans (List.append_nil _).symm) limit numbers
    have fst := s.begun.walked_fst p.waiters ws
    have count (j : SlotNo) : (s.begun.walked p.waiters ws).countP (fun y => y.1.slot == j) = p.waiters.countP fun v => v.slot == j := by
      rw [State.walked_countP, List.countP_eq_countP_filter_add p.waiters _ s.begun.ofAborting, left]
    have member (v : Waiter) : v ∈ (s.begun.walked p.waiters ws).map Prod.fst ↔ v ∈ p.waiters := by
      rw [fst, List.mem_append, List.mem_filter, ← left, List.mem_filter, ← and_or_left]
      cases s.begun.ofAborting v <;> simp
    have nodup' : ws.Nodup := by rw [← left]; exact nodup.filter _
    have xrecord := serves.record p record
    obtain ⟨-, erased⟩ := serves.pool canonical.2.1 (Option.isSome_iff_exists.2 ⟨p, record⟩)
    have body : s.begun.runBody op = State.endWalk r (x.walk r []) := by
      rw [State.runBody, kind]
      exact walk
    obtain ⟨t, run, completed, -⟩ := settled.completes ready kind' (body.trans (State.endWalk_noOwner xrecord))
    have frame : x = { s.begun with
      index := { s.index with counter := s.index.counter + ws.length }, slots := x.slots, port := x.port, pool := x.pool
      removals := x.removals } := serves.frame
    have tcore (j : SlotNo) : (t.slot j).core = (x.slot j).core := completed.core j
    have tinflight (j : SlotNo) : (t.slot j).inflight = (x.slot j).inflight := (congrArg Slot.inflight (tcore j) :)
    refine ⟨t, run, ?_, ?_, ?_, ?_, fun j isOpen => ?_, fun j => ?_, fun j aborting ⟨v, mem, e⟩ => ?_, fun j none' => ?_⟩
    · exact (congrArg State.mem completed.frame).trans
        (congrArg (fun m : IndexMemory => { m with ways := tableErase m.ways (wayKey p.bucket p.way) }) serves.mem_eq)
    · rw [completed.frame]
      exact erased
    · rw [completed.frame, frame]
    · rw [completed.frame]
      refine serves.removals.trans (List.filter_congr fun m _ => ?_)
      rw [Bool.eq_iff_iff]
      simp only [Bool.not_eq_true', ← Bool.not_eq_true, List.contains_iff_mem, member]
    · rw [show (t.slot j).pending = (x.slot j).pending from (congrArg Slot.pending (tcore j) :)]
      refine ((serves.of_open (j := j) isOpen).2).trans (List.map_congr_left fun y _ => ?_)
      have ne : (s.begun.slot j).state ≠ .aborting := fun aborting => by
        rw [show (s.slot j).state = .aborting from aborting] at isOpen
        cases isOpen
      rw [State.condServed_walked y.ordinal y.cond ne nodup']
      split <;> rfl
    · rw [tinflight, serves.inflight, count]
      rfl
    · rw [show (t.slot j).state = (x.slot j).state from (congrArg Slot.state (tcore j) :), tinflight]
      obtain ⟨y, mem', rfl⟩ := List.mem_map.1 ((member v).2 mem)
      exact serves.of_aborting (j := j) aborting ⟨y, mem', e⟩
    · refine completed.slot_of_same handed (serves.others j fun y mem => none' y.1 ((member y.1).1 (List.mem_map_of_mem mem)))
  · have body : s.begun.runBody op = ({ s.begun with pool := tableErase s.pool r }, none) := by
      rw [State.runBody, kind]
      exact State.runWithdraw_lost record' lost
    exact settled.completesPlainly handed ready kind' body

end Sys2Proof.Machine

namespace Sys2Proof.Machine

set_option Elab.async false

variable {s t u : State} {r : Nat} {p : PoolRecord}

theorem State.Serves.editStats {l : List (Waiter × Option ChunkCond)} (h : s.Serves t r l) (f : EngineStats → EngineStats) :
    (s.editStats f).Serves (t.editStats f) r l := by
  have serves := h.withIndex (s.editStats f).index
  have same : t.editStats f = { t with index := (s.editStats f).index } := by rw [State.editStats, h.index_eq]; rfl
  rw [same]
  exact serves

/-! ### WITHDRAW that passes the entry on (R108, R109) -/

/-- The entry and the record pass to a waiter's stream, before the waiters of its slot are resolved (R108). -/
def State.passedOn (s : State) (r : Nat) (p : PoolRecord) (e : Entry) (w : Waiter) (n : Nat) : State :=
  let s := s.writeEntry p.bucket p.way { e with state := .provisional w.slot w.ordinal, number := n, lastHit := s.index.copy.epoch }
  let s := s.editRecord r fun q => { q with owner := w.slot, ordinal := w.ordinal, disp := .live }
  s.editSlot w.slot fun c => { c with provList := s.joinProvList r w.ordinal c.provList, provCount := c.provCount + 1 }

/-- What the passage changes, and what it leaves. -/
theorem State.passedOn_spec (record : s.record r = some p) (e : Entry) (w : Waiter) (n : Nat) :
    let t := s.passedOn r p e w n
    t = { s with slots := t.slots, pool := t.pool, mem := t.mem } ∧
    t.mem = (s.writeEntry p.bucket p.way { e with state := .provisional w.slot w.ordinal, number := n, lastHit := s.index.copy.epoch }).mem ∧
    t.record r = some { p with owner := w.slot, ordinal := w.ordinal, disp := .live } ∧ (∀ q, q ≠ r → t.record q = s.record q) ∧
    (∃ ps, t.slot w.slot = { s.slot w.slot with provList := ps, provCount := (s.slot w.slot).provCount + 1 } ∧
      ∃ xs ys, (s.slot w.slot).provList = xs ++ ys ∧ ps = xs ++ r :: ys ∧ (∀ q ∈ xs, q ≠ r → ∀ o, s.record q = some o → o.ordinal < w.ordinal) ∧
        ∀ q o, ys.head? = some q → q ≠ r → s.record q = some o → w.ordinal ≤ o.ordinal) ∧
    ∀ j, j ≠ w.slot → t.slot j = s.slot j := by
  dsimp only
  unfold State.passedOn
  dsimp only
  generalize ha : s.writeEntry p.bucket p.way { e with state := .provisional w.slot w.ordinal, number := n, lastHit := s.index.copy.epoch } = a
  have arecord (q : Nat) : a.record q = s.record q := by rw [← ha]; rfl
  have edited (q : Nat) := a.record_editRecord r q fun q => { q with owner := w.slot, ordinal := w.ordinal, disp := .live }
  obtain ⟨pool, eq⟩ := a.editRecord_eq r fun q => { q with owner := w.slot, ordinal := w.ordinal, disp := .live }
  generalize a.editRecord r _ = b at *
  have slot (j : SlotNo) : b.slot j = s.slot j := by rw [eq, ← ha]; rfl
  have others (q : Nat) (ne : q ≠ r) : b.record q = s.record q := by rw [edited, if_neg ne, arecord]
  obtain ⟨xs, ys, split, joined, before, after⟩ := b.joinProvList_spec r w.ordinal (s.slot w.slot).provList
  have own : b.record r = some { p with owner := w.slot, ordinal := w.ordinal, disp := .live } := by rw [edited, if_pos rfl, arecord, record]; rfl
  refine ⟨by rw [eq, ← ha]; rfl, by rw [eq]; rfl, own, others, ⟨_, by rw [b.slot_editSlot_self, slot], xs, ys, split, joined, fun q mem ne o record => ?_,
    fun q o head ne record => ?_⟩, fun j ne => by rw [b.slot_editSlot_of_ne _ _ _ ne, slot]⟩
  · exact before q mem o ((others q ne).trans record)
  · exact after q o head ((others q ne).trans record)

/-- The waiters that leave with the passage: the new owner, NEW, and its slot's later ones, DUP (R108). -/
def passing (w : Waiter) (ws : List Waiter) (n : Nat) : List (Waiter × Option ChunkCond) :=
  (w, some (.resolved .new n .none)) :: (ws.filter fun v => v.slot == w.slot).map fun v => (v, some (.resolved .dup n .none))

theorem passing_fst (w : Waiter) (ws : List Waiter) (n : Nat) : (passing w ws n).map Prod.fst = w :: ws.filter fun v => v.slot == w.slot := by
  simp [passing, Function.comp_def]

theorem passing_countP (w : Waiter) (ws : List Waiter) (n : Nat) (j : SlotNo) :
    (passing w ws n).countP (fun y => y.1.slot == j) = (w :: ws.filter fun v => v.slot == w.slot).countP fun v => v.slot == j := by
  rw [← passing_fst w ws n, List.countP_map]
  rfl

theorem slot_of_passing {w : Waiter} {ws : List Waiter} {n : Nat} {y : Waiter × Option ChunkCond} (mem : y ∈ passing w ws n) : y.1.slot = w.slot := by
  rcases List.mem_cons.1 mem with rfl | mem
  · rfl
  · obtain ⟨v, mem', rfl⟩ := List.mem_map.1 mem
    simpa using (List.mem_filter.1 mem').2

theorem condServed_passing (j : SlotNo) (o n : Nat) {w : Waiter} {ws : List Waiter} (k : ChunkCond) (new : w ∉ ws) :
    condServed j o (passing w ws n) k =
      if j = w.slot ∧ o = w.ordinal then .resolved .new n .none
      else if j = w.slot ∧ ws.contains { slot := w.slot, ordinal := o } then .resolved .dup n .none else k := by
  have step : condServed j o (passing w ws n) k = condServed j o ((ws.filter fun v => v.slot == w.slot).map fun v => (v, some (.resolved .dup n .none)))
      (if w = { slot := j, ordinal := o } then .resolved .new n .none else k) := rfl
  rw [step, condServed_same]
  by_cases own : j = w.slot ∧ o = w.ordinal
  · obtain ⟨rfl, rfl⟩ := own
    simp [new]
  · have ne : w ≠ { slot := j, ordinal := o } := fun e => own ⟨(congrArg Waiter.slot e).symm, (congrArg Waiter.ordinal e).symm⟩
    rw [if_neg own, if_neg ne]
    by_cases same : j = w.slot
    · subst same
      simp
    · simp [same]

/-- The takeover of an entry by the first waiter on its record's list (R108). -/
theorem State.takeover_spec (record : s.record r = some p) {w : Waiter} {ws : List Waiter} (waiters : p.waiters = w :: ws) (new : w ∉ ws) (e : Entry)
    (n : Nat) :
    ((s.passedOn r p e w n).editStats fun t => { t with takeovers := sat48 (t.takeovers + 1) }).Serves (s.takeover r p e w n) r (passing w ws n) := by
  obtain ⟨-, -, own, -⟩ := State.passedOn_spec record e w n
  have first := (s.passedOn r p e w n).resolveWaiter_serves r w .new n .none
  have eq : s.takeover r p e w n =
      (((((s.passedOn r p e w n).resolveWaiter r w .new n .none).editStats fun t => { t with takeovers := sat48 (t.takeovers + 1) }).waitersOf r).filter
        fun v => v.slot == w.slot).foldl (fun s v => s.resolveWaiter r v .dup n .none)
        (((s.passedOn r p e w n).resolveWaiter r w .new n .none).editStats fun t => { t with takeovers := sat48 (t.takeovers + 1) }) := rfl
  rw [eq]
  have left := first.record _ own
  generalize s.passedOn r p e w n = a at *
  generalize a.resolveWaiter r w .new n .none = b at *
  have left' : (b.editStats fun t => { t with takeovers := sat48 (t.takeovers + 1) }).waitersOf r = ws := by
    rw [State.waitersOf, show State.record (b.editStats _) r = b.record r from rfl, left]
    dsimp only
    rw [waiters, List.map_cons, List.map_nil, List.filter_cons_of_neg (by simp), List.filter_eq_self]
    intro v mem
    have ne : v ≠ w := fun e => new (e ▸ mem)
    simp [ne]
  rw [left']
  exact (first.editStats _).append (State.resolveWaiters_serves (b.editStats fun t => { t with takeovers := sat48 (t.takeovers + 1) }) r _ .dup n .none)

end Sys2Proof.Machine

namespace Sys2Proof.Machine

set_option Elab.async false

variable {s t u : State} {r : Nat} {p : PoolRecord}

/-- A walk whose first waiter is that of an open stream below its limit ends there (R108). -/
theorem State.walk_owner {e : Entry} {w : Waiter} {ws : List Waiter} (record : s.record r = some p) (entry : s.entry p.bucket p.way = some e)
    (isOpen : (s.slot w.slot).state.isOpen = true) (room : (s.slot w.slot).provCount < (s.slot w.slot).cls.provisionalLimit)
    (lt : s.index.counter < s.index.copy.reserved) : s.walk r (w :: ws) = (.owner, s.numbered.takeover r p e w s.index.counter) := by
  have examined : s.numbered.examine r w (.number s.index.counter) = (true, s.numbered.takeover r p e w s.index.counter) := by
    unfold State.examine
    dsimp only
    have opened : ¬(s.numbered.slot w.slot).state.isOpen = false := Bool.not_eq_false _ ▸ isOpen
    have room' : (s.numbered.slot w.slot).provCount < (s.numbered.slot w.slot).cls.provisionalLimit := room
    rw [if_neg opened, if_pos room', show s.numbered.record r = some p from record]
    dsimp only
    rw [show s.numbered.entry p.bucket p.way = some e from entry]
  rw [State.walk, State.allocate_of_lt lt rfl]
  dsimp only
  rw [show ({ s with index := { s.index with counter := s.index.counter + 1 } } : State) = s.numbered from rfl, examined]

/-- The waiters that have left a list are taken out of it, whatever else it holds in its order. -/
theorem filter_left {ws as rest : List Waiter} {f : Waiter → Bool} (nodup : ws.Nodup) (left : ws.filter (fun v => !f v) = as ++ rest) :
    ws.filter (fun v => !(ws.filter f ++ as).contains v) = rest := by
  have split : ws.filter (fun v => !(ws.filter f ++ as).contains v) = (ws.filter fun v => !f v).filter fun v => !as.contains v := by
    rw [List.filter_filter]
    refine List.filter_congr fun v mem => ?_
    rw [List.contains_append, Bool.not_or, Bool.and_comm]
    congr 1
    simp [mem]
  have nodup' : (as ++ rest).Nodup := left ▸ nodup.filter _
  obtain ⟨-, -, disjoint⟩ := List.nodup_append.1 nodup'
  rw [split, left, List.filter_append, List.filter_eq_nil_iff.2 (by simp), List.nil_append, List.filter_eq_self]
  intro v mem
  simpa using fun mem' => disjoint v mem' v mem rfl

/-- Settles O42: the waiters before the new owner by `State.runWithdraw_passes`, the takeover by `State.takeover_spec`. -/
theorem withdrawPassesTheEntryOn : Obligations.WithdrawPassesTheEntryOn := by
  rintro s r op p e w as ws left i n rfl settled handed ready kind record kept entry nodup split covers limit isOpen room rfl lt rfl
  have record' : s.begun.record r = some p := record
  have split' : p.waiters.filter (fun v => !s.begun.ofAborting v) = as ++ w :: ws := split
  obtain ⟨x, walk, passed⟩ := State.runWithdraw_passes (s := s.begun) (rest := w :: ws) record' kept (e := e) entry covers split limit
    (show s.index.counter + as.length ≤ s.index.copy.reserved by omega)
  have nodup' : (as ++ w :: ws).Nodup := split ▸ nodup.filter _
  obtain ⟨nodupAs, nodupWs, disjoint⟩ := List.nodup_append.1 nodup'
  obtain ⟨new, -⟩ := List.nodup_cons.1 nodupWs
  have xrecord := passed.record p record
  rw [State.walked_fst, filter_left nodup split'] at xrecord
  have xindex : x.index = { s.index with counter := s.index.counter + as.length } := passed.index_eq
  have xmem : x.mem = s.mem := passed.mem_eq
  have xentry : x.entry p.bucket p.way = some e := by rw [State.entry, xmem]; exact entry
  obtain ⟨-, -, cls, count, list⟩ := passed.kept w.slot
  have walk := walk.trans (congrArg (State.endWalk r) (State.walk_owner (ws := ws) xrecord xentry (passed.of_open (j := w.slot) isOpen).1
    (by rw [cls, count]; exact room) (by rw [xindex]; exact lt)))
  have takes := State.takeover_spec (s := x.numbered) xrecord rfl new e x.index.counter
  obtain ⟨rest, mem, own, records, ⟨ps, self, xs, ys, before, joined, low, high⟩, others⟩ := State.passedOn_spec (s := x.numbered) xrecord e w x.index.counter
  generalize hz : x.numbered.takeover r { p with waiters := w :: ws } e w x.index.counter = z at *
  generalize hy : x.numbered.passedOn r { p with waiters := w :: ws } e w x.index.counter = y at *
  have zmem : z.mem = y.mem := takes.mem_eq
  have zindex : z.index = (y.editStats fun t => { t with takeovers := sat48 (t.takeovers + 1) }).index := takes.index_eq
  have yindex : y.index = x.numbered.index := by rw [rest]
  obtain ⟨t, run, completed, -⟩ := settled.completes (u := z.countWithdrawal) ready (by rw [kind]; rfl) (by rw [State.runBody, kind]; exact walk)
  have tcore (j : SlotNo) : (t.slot j).core = (z.slot j).core := completed.core j
  have tinflight (j : SlotNo) : (t.slot j).inflight = (z.slot j).inflight := (congrArg Slot.inflight (tcore j) :)
  have yslot (j : SlotNo) : (y.slot j).inflight = (x.slot j).inflight ∧ (y.slot j).pending = (x.slot j).pending ∧ (y.slot j).state = (x.slot j).state := by
    by_cases same : j = w.slot
    · subst same
      rw [self]
      exact ⟨rfl, rfl, rfl⟩
    · rw [others j same]
      exact ⟨rfl, rfl, rfl⟩
  have tmem : t.mem = (x.numbered.writeEntry p.bucket p.way
      { e with state := .provisional w.slot w.ordinal, number := x.index.counter, lastHit := x.index.copy.epoch }).mem := by
    rw [completed.frame]
    exact zmem.trans mem
  have tentry (b : Nat) (v : WayNo) : t.entry b v = (x.numbered.writeEntry p.bucket p.way
      { e with state := .provisional w.slot w.ordinal, number := x.index.counter, lastHit := x.index.copy.epoch }).entry b v := by
    rw [State.entry, tmem]; rfl
  have trecord (q : Nat) : t.record q = z.record q := by rw [State.record, completed.frame]; rfl
  have xothers (q : Nat) (ne : q ≠ r) : x.record q = s.record q := passed.records q ne
  refine ⟨t, run, ?_, fun b v ne => ?_, ?_, fun q ne => ?_, fun j isOpen' => ?_, fun j => ?_, fun j aborting ⟨v, mem', own'⟩ => ?_, ?_, ?_,
    fun j ne none' => ?_, ?_⟩
  · rw [tentry, State.entry_writeEntry_self, xindex]
  · rw [tentry, State.entry_writeEntry_of_ne _ _ ne]
    exact congrArg (fun m : IndexMemory => tableGet m.ways (wayKey b v)) xmem
  · rw [trecord, takes.record _ own, passing_fst, List.filter_cons_of_neg (by simp)]
    refine congrArg (fun vs => some ({ p with owner := w.slot, ordinal := w.ordinal, disp := .live, waiters := vs } : PoolRecord))
      (List.filter_congr fun v mem => ?_)
    have ne : v ≠ w := fun e => new (e ▸ mem)
    rw [Bool.eq_iff_iff]
    simp [mem, ne]
  · rw [trecord, takes.records q ne]
    exact (records q ne).trans (xothers q ne)
  · obtain ⟨xopen, xpending⟩ := passed.of_open (j := j) isOpen'
    have yopen : (y.slot j).state.isOpen = true := by rw [(yslot j).2.2]; exact xopen
    have ne : (s.begun.slot j).state ≠ .aborting := fun aborting => by
      rw [show (s.slot j).state = .aborting from aborting] at isOpen'
      cases isOpen'
    rw [show (t.slot j).pending = (z.slot j).pending from (congrArg Slot.pending (tcore j) :)]
    refine (takes.of_open (j := j) yopen).2.trans ?_
    rw [show (State.slot (y.editStats _) j).pending = (y.slot j).pending from rfl, (yslot j).2.1, xpending, List.map_map]
    refine List.map_congr_left fun c _ => ?_
    simp only [Function.comp]
    rw [condServed_passing j c.ordinal _ _ new, State.condServed_walked c.ordinal c.cond ne nodupAs, xindex]
    by_cases over' : as.contains { slot := j, ordinal := c.ordinal } = true
    · have away := disjoint _ (List.contains_iff_mem.1 over')
      have notOwn : ¬(j = w.slot ∧ c.ordinal = w.ordinal) := fun ⟨slot, ordinal⟩ => away w List.mem_cons_self (by rw [slot, ordinal])
      have notLater : ¬(j = w.slot ∧ ws.contains { slot := w.slot, ordinal := c.ordinal } = true) := fun ⟨slot, later⟩ =>
        away _ (List.mem_cons_of_mem _ (List.contains_iff_mem.1 later)) (by rw [slot])
      rw [if_pos over', if_pos over', if_neg notOwn, if_neg notLater]
      rfl
    · rw [if_neg over', if_neg over']
      split
      · rfl
      · split <;> rfl
  · have now := takes.inflight j
    have was := passed.inflight j
    rw [passing_countP] at now
    rw [State.walked_countP] at was
    have all := List.countP_eq_countP_filter_add p.waiters (fun v => v.slot == j) s.begun.ofAborting
    have later := List.countP_eq_countP_filter_add ws (fun v => v.slot == j) fun v => v.slot == w.slot
    rw [split', List.countP_append, List.countP_cons] at all
    rw [List.countP_cons] at now
    have same : ws.countP (fun v => v.slot == j) = (ws.filter fun v => v.slot == w.slot).countP (fun v => v.slot == j) +
      (ws.filter fun v => v.slot != w.slot).countP (fun v => v.slot == j) := later
    have y : (State.slot (y.editStats fun t => { t with takeovers := sat48 (t.takeovers + 1) }) j).inflight = (x.slot j).inflight := (yslot j).1
    rw [tinflight, now, y, was]
    rw [all, same]
    dsimp only
    change (s.slot j).inflight - _ - _ = _
    omega
  · have ne : j ≠ w.slot := fun same => by
      rw [← same, aborting] at isOpen
      cases isOpen
    have left : v ∈ p.waiters.filter s.begun.ofAborting := List.mem_filter.2 ⟨mem', beq_iff_eq.2 (by rw [own']; exact aborting)⟩
    have discarded : (v, none) ∈ s.begun.walked p.waiters as := List.mem_append_left _ (List.mem_map_of_mem left)
    have same : z.slot j = y.slot j := takes.others j fun c mem e => ne (e.symm.trans (slot_of_passing mem))
    rw [tinflight, show (t.slot j).state = (z.slot j).state from (congrArg Slot.state (tcore j) :), same, others j ne]
    exact passed.of_aborting (j := j) aborting ⟨_, discarded, own'⟩
  · obtain ⟨-, -, -, -, kept⟩ := takes.kept w.slot
    have joins : (t.slot w.slot).provList = ps := (congrArg Slot.provList (tcore w.slot) :).trans (kept.trans (congrArg Slot.provList self))
    refine ⟨xs, ys, list.symm.trans before, joins.trans joined, fun q mem ne o record => ?_, fun q o head ne record => ?_⟩
    · exact low q mem ne o ((xothers q ne).trans record)
    · exact high q o head ne ((xothers q ne).trans record)
  · obtain ⟨-, -, -, kept, -⟩ := takes.kept w.slot
    refine (congrArg Slot.provCount (tcore w.slot) :).trans (kept.trans ((congrArg Slot.provCount self).trans ?_))
    exact congrArg (· + 1) count
  · refine completed.slot_of_same handed ?_
    have own (v : Waiter) (mem : v ∈ as ++ w :: ws) : v.slot ≠ j := none' v (List.mem_filter.1 (split ▸ mem)).1
    have same : z.slot j = y.slot j := takes.others j fun c mem e => ne (e.symm.trans (slot_of_passing mem))
    refine same.trans ((others j ne).trans (passed.others j fun c mem e => ?_))
    have mem' : c.1 ∈ p.waiters.filter s.begun.ofAborting ++ as := s.begun.walked_fst p.waiters as ▸ List.mem_map_of_mem mem
    rcases List.mem_append.1 mem' with discarded | over'
    · exact none' c.1 (List.mem_filter.1 discarded).1 e
    · exact own c.1 (List.mem_append_left _ over') e
  · rw [completed.frame]
    dsimp only
    rw [State.countWithdrawal, State.editStats, zindex, State.editStats, yindex, State.numbered, xindex]
    rfl

end Sys2Proof.Machine

namespace Sys2Proof.Machine

set_option Elab.async false

variable {s t : State}

/-! ### SWEEP_END: the fill watch (R82) -/

/-- The test for a message looks at the Notice Unit, the engine state and the header, and changes the Notice Unit and the port (R166). -/
theorem State.testDue_writes (s : State) (m : s.mayWrite = true) : ∃ ns : List HostWrite, ∀ (x : IndexUnit) (p : Port),
    State.testDue { s with index := x, port := p } =
      { s with index := x, notice := s.testDue.notice, port := { p with posted := p.posted ++ ns.map (Posted.mk s.ctl.area) } } := by
  unfold State.testDue
  cases levels : s.notice.levels with
  | nil => exact ⟨[], fun x p => by simp [levels]⟩
  | cons h rest =>
    by_cases due : s.ctl.engine = .running ∧ s.notice.serving < h
    · refine ⟨[.notice s.header.noticeAddress s.header.noticeWord], fun x p => ?_⟩
      have may : State.mayWrite { s with index := x, port := p } = true := m
      simp only [levels, if_pos due, State.post, if_pos may, if_pos m, State.postAlways]
    · exact ⟨[], fun x p => by simp [levels, if_neg due]⟩

/-- So does the raising of a level (R165, R166). -/
theorem State.raiseLevel_writes (s : State) (l : Nat) (m : s.mayWrite = true) : ∃ ns : List HostWrite, ∀ (x : IndexUnit) (p : Port),
    State.raiseLevel { s with index := x, port := p } l =
      { s with index := x, notice := (s.raiseLevel l).notice, port := { p with posted := p.posted ++ ns.map (Posted.mk s.ctl.area) } } := by
  have join (x : IndexUnit) (p : Port) : State.joinLevel { s with index := x, port := p } l = { s.joinLevel l with index := x, port := p } := by
    unfold State.joinLevel
    split <;> rfl
  have joined : s.joinLevel l = { s with notice := (s.joinLevel l).notice } := by
    unfold State.joinLevel
    split <;> rfl
  have m' : (s.joinLevel l).mayWrite = true := by rw [joined]; exact m
  obtain ⟨ns, sends⟩ := (s.joinLevel l).testDue_writes m'
  unfold State.raiseLevel State.notify
  by_cases same : (s.joinLevel l).notice.levels = s.notice.levels
  · refine ⟨[], fun x p => ?_⟩
    rw [join, if_pos same, if_pos (by exact same), joined]
    simp
  · refine ⟨ns, fun x p => ?_⟩
    rw [join, if_neg same, if_neg (by exact same), sends x p, joined]

/-- The fill state and its count, set (R82). -/
def State.withFill (s : State) (f : FillState) (n : Nat) : State := { s with index := { s.index with fill := f, fillCount := n } }

theorem State.setFill_of_kept {f : FillState} (n : Nat) (h : s.index.fill = .declared ∨ f = .normal) : s.setFill f n = s.withFill f n :=
  if_neg fun ⟨normal, declared⟩ => h.elim (fun k => by rw [normal] at k; cases k) fun k => by rw [declared] at k; cases k

theorem State.setFill_of_declared (n : Nat) (h : s.index.fill = .normal) : s.setFill .declared n = (s.withFill .declared n).raiseLevel s.header.fillLevel :=
  if_pos ⟨h, rfl⟩

/-- The rows of R82: the second sweep in a row at or above the threshold declares the fill, -/
theorem State.evaluateFill_declares (ready : s.index.state = .ready) (normal : s.index.fill = .normal)
    (above : s.threshold s.header.fillDeclare ≤ s.index.occupancy)
    (second : s.index.fillCount + 1 = 2) : s.evaluateFill = (s.withFill .declared 0).raiseLevel s.header.fillLevel := by
  unfold State.evaluateFill
  rw [if_neg (not_not.2 ready), normal]
  dsimp only
  rw [if_pos above, if_pos second, State.setFill_of_declared 0 normal]

/-- the first counts, -/
theorem State.evaluateFill_rises (ready : s.index.state = .ready) (normal : s.index.fill = .normal)
    (above : s.threshold s.header.fillDeclare ≤ s.index.occupancy)
    (first : s.index.fillCount + 1 ≠ 2) : s.evaluateFill = s.withFill .normal (s.index.fillCount + 1) := by
  unfold State.evaluateFill
  rw [if_neg (not_not.2 ready), normal]
  dsimp only
  rw [if_pos above, if_neg first, State.setFill_of_kept _ (.inr rfl)]

/-- and one below it ends the count; -/
theorem State.evaluateFill_stays (ready : s.index.state = .ready) (normal : s.index.fill = .normal)
    (below : s.index.occupancy < s.threshold s.header.fillDeclare) :
    s.evaluateFill = s.withFill .normal 0 := by
  unfold State.evaluateFill
  rw [if_neg (not_not.2 ready), normal]
  dsimp only
  rw [if_neg (Nat.not_le.2 below), State.setFill_of_kept _ (.inr rfl)]

/-- the second sweep in a row below the other threshold clears it, -/
theorem State.evaluateFill_clears (ready : s.index.state = .ready) (declared : s.index.fill = .declared)
    (below : s.index.occupancy < s.threshold s.header.fillClear) (second : s.index.fillCount + 1 = 2) : s.evaluateFill = s.withFill .normal 0 := by
  unfold State.evaluateFill
  rw [if_neg (not_not.2 ready), declared]
  dsimp only
  rw [if_pos below, if_pos second, State.setFill_of_kept _ (.inr rfl)]

/-- the first counts, -/
theorem State.evaluateFill_falls (ready : s.index.state = .ready) (declared : s.index.fill = .declared)
    (below : s.index.occupancy < s.threshold s.header.fillClear) (first : s.index.fillCount + 1 ≠ 2) :
    s.evaluateFill = s.withFill .declared (s.index.fillCount + 1) := by
  unfold State.evaluateFill
  rw [if_neg (not_not.2 ready), declared]
  dsimp only
  rw [if_pos below, if_neg first, State.setFill_of_kept _ (.inl declared)]

/-- and one at or above it ends the count. -/
theorem State.evaluateFill_holds (ready : s.index.state = .ready) (declared : s.index.fill = .declared)
    (above : s.threshold s.header.fillClear ≤ s.index.occupancy) : s.evaluateFill = s.withFill .declared 0 := by
  unfold State.evaluateFill
  rw [if_neg (not_not.2 ready), declared]
  dsimp only
  rw [if_neg (Nat.not_lt.2 above), State.setFill_of_kept _ (.inl declared)]

/-- What a change of the fill state, and its notice, leave, and the writes they add. -/
def State.FillSet (s t : State) (ns : List HostWrite) : Prop :=
  t = { s with
    index := { s.index with fill := t.index.fill, fillCount := t.index.fillCount }, notice := t.notice
    port := { s.port with posted := s.port.posted ++ ns.map (Posted.mk s.ctl.area) } }

theorem State.setFill_fillSet (s : State) (f : FillState) (n : Nat) (m : s.mayWrite = true) : ∃ ns, s.FillSet (s.setFill f n) ns := by
  by_cases declares : s.index.fill = .normal ∧ f = .declared
  · obtain ⟨ns, raised⟩ := s.raiseLevel_writes s.header.fillLevel m
    rw [declares.2, State.setFill_of_declared n declares.1]
    refine ⟨ns, ?_⟩
    have eq := raised { s.index with fill := .declared, fillCount := n } s.port
    rw [State.FillSet, State.withFill, eq]
  · exact ⟨[], by rw [State.setFill, if_neg declares]; simp [State.FillSet]⟩

theorem State.evaluateFill_fillSet (s : State) (m : s.mayWrite = true) : ∃ ns, s.FillSet s.evaluateFill ns := by
  unfold State.evaluateFill
  split
  · exact ⟨[], by simp [State.FillSet]⟩
  · split
    · split
      · split <;> exact s.setFill_fillSet _ _ m
      · exact s.setFill_fillSet _ _ m
    · split
      · split <;> exact s.setFill_fillSet _ _ m
      · exact s.setFill_fillSet _ _ m

/-- A fill state that is set without a level raised is set without a write. -/
theorem State.FillSet.no_writes {ns : List HostWrite} (h : s.FillSet t ns) (port : t.port = s.port) : ns = [] := by
  have posted : t.port.posted = s.port.posted ++ ns.map (Posted.mk s.ctl.area) := congrArg (fun t => t.port.posted) h
  rw [port] at posted
  simpa using posted

end Sys2Proof.Machine

namespace Sys2Proof.Machine

set_option Elab.async false

variable {s t v : State}

/-! ### SWEEP_END: the writes, the countdown and the next sweep (R46, R153, R154, R159) -/

theorem State.closeSweep_eq (s : State) (map : List Byte) : s.closeSweep map = { s with
    time := { s.time with countdown := s.interval }
    sweep := { flight := if s.sweep.remembered then some (.slots (flaggedSlots map)) else none, remembered := false } } := by
  unfold State.closeSweep
  dsimp only
  split <;> rfl

/-- The interval until the next sweep, by whether a stream lives or is being aborted (R153). -/
theorem State.interval_active (h : ∃ i, (s.slot i).state.isLive = true ∨ (s.slot i).state = .aborting) : s.interval = s.header.activeInterval := by
  obtain ⟨i, alive⟩ := h
  exact if_pos (List.any_eq_true.2 ⟨s.slot i, s.slot_mem i, by simpa using alive⟩)

theorem State.interval_quiet (h : ∀ i, (s.slot i).state.isLive = false ∧ (s.slot i).state ≠ .aborting) : s.interval = s.header.quietInterval := by
  refine if_neg fun k => ?_
  obtain ⟨c, mem, alive⟩ := List.any_eq_true.1 k
  obtain ⟨i, rfl⟩ := s.mem_slots mem
  simp [h i] at alive

theorem State.sweepOver_of (h : s.sweep.flight = some (.requests []) ∨ s.ctl.engine = .quiescing ∧ s.sweep.flight = some (.slots [])) : s.sweepOver = true := by
  unfold State.sweepOver
  rcases h with flight | ⟨quiescing, flight⟩ <;> rw [flight]
  · rfl
  · rw [quiescing]; rfl

/-- What a sweep that ends does once the fill watch has been evaluated (steps 2 to 4 of R159). -/
theorem State.Settled.sweepEnds {map : List Byte} {ns : List HostWrite} (settled : s.Settled) (m : s.mayWrite = true)
    (done : s.sweep.flight = some (.requests []) ∨ s.ctl.engine = .quiescing ∧ s.sweep.flight = some (.slots [])) (length : map.length = 128)
    (eval : s.begun.evaluateFill = v) (set : s.begun.FillSet v ns) :
    ∃ t, exec (.sweepEnd map) s = .next t ∧ t.index = v.index ∧ t.notice = v.notice ∧
      t = { s with
        time := { s.time with countdown := t.time.countdown }, sweep := t.sweep, slots := t.slots, index := v.index, notice := v.notice, port := t.port } ∧
      s.Writes t (ns ++ (List.finRange 1024).filterMap s.consumedWrite ++
        [HostWrite.recordLive
          { engine := s.ctl.engine, fill := t.index.fill, last := t.notice.last, error := s.index.error, ticks := s.time.ticks
            counter := s.index.counter, occupancy := s.index.occupancy }]) ∧
      (∀ i, t.slot i = { s.slot i with shown := (s.slot i).consumed }) ∧ (∀ i, (t.slot i).state = (s.slot i).state) ∧ t.time.countdown = t.interval ∧
      t.sweep = { flight := if s.sweep.remembered then some (.slots (flaggedSlots map)) else none, remembered := false } := by
  have run : exec (.sweepEnd map) s =
      .next (s.issued ((v.writeConsumedAll.post [.recordLive v.writeConsumedAll.liveFields]).closeSweep map)) := by
    have over' : s.begun.sweepOver = true := State.sweepOver_of done
    simp only [exec, execSweepEnd, settled.eq]
    rw [if_neg (by rw [over']; nofun), if_neg (fun k => k.2 length), eval]
    rfl
  have frame : v = { s.begun with
    index := { s.index with fill := v.index.fill, fillCount := v.index.fillCount }, notice := v.notice
    port := { s.begun.port with posted := s.port.posted ++ ns.map (Posted.mk s.ctl.area) } } := set
  have vslot (i : SlotNo) : v.slot i = s.slot i := by rw [frame]; rfl
  have may : v.mayWrite = true := by rw [frame]; exact m
  have consumed : v.consumedWrite = s.consumedWrite := funext fun i => by rw [State.consumedWrite, State.consumedWrite, vslot]
  have self := v.writeConsumedAll_slot
  have eq := v.writeConsumedAll_eq
  rw [State.post, if_pos may, State.postAlways, consumed] at eq
  generalize v.writeConsumedAll = c at *
  have may' : c.mayWrite = true := by rw [eq]; exact may
  generalize hd : c.post [.recordLive c.liveFields] = d at run
  rw [State.post, if_pos may', State.postAlways] at hd
  have dslot (i : SlotNo) : d.slot i = c.slot i := by rw [← hd]; rfl
  have dwrites : d.port.posted = s.port.posted ++ (ns ++ (List.finRange 1024).filterMap s.consumedWrite ++ [HostWrite.recordLive c.liveFields]).map (Posted.mk s.ctl.area) := by
    rw [← hd, eq, frame]
    simp [List.append_assoc]
  have dlost : d.port.lostReads = s.port.lostReads := by rw [← hd, eq, frame]; rfl
  have live : c.liveFields = { engine := s.ctl.engine, fill := v.index.fill, last := v.notice.last, error := s.index.error, ticks := s.time.ticks
                               counter := s.index.counter, occupancy := s.index.occupancy } := by
    rw [eq, State.liveFields, frame]; rfl
  have deq : d = { s with slots := d.slots, index := v.index, notice := v.notice, port := d.port } := by rw [← hd, eq, frame]; rfl
  have closed := d.closeSweep_eq map
  have slot (i : SlotNo) : (d.closeSweep map).slot i = { s.slot i with shown := (s.slot i).consumed } := by
    rw [closed, ← vslot, ← self, ← dslot]; rfl
  have interval : (d.closeSweep map).interval = d.interval := by rw [closed]; rfl
  refine ⟨_, run, ?_, ?_, ?_, ⟨?_, ?_⟩, slot, fun i => (congrArg Slot.state (slot i) :), ?_, ?_⟩
  · rw [closed, deq]; rfl
  · rw [closed, deq]; rfl
  · rw [closed, deq]; rfl
  · rw [closed]
    refine dwrites.trans ?_
    rw [live, deq]
    rfl
  · rw [closed]; exact dlost
  · refine Eq.trans ?_ interval.symm
    rw [closed]; rfl
  · rw [closed, deq]; rfl

/-- Settles O19: the rows of R82 by the lemmas on `State.evaluateFill`, the rest by `State.Settled.sweepEnds`. -/
theorem sweepEnds : Obligations.SweepEnds := by
  intro s map settled m done length
  have mb : s.begun.mayWrite = true := m
  obtain ⟨ns, set⟩ := s.begun.evaluateFill_fillSet mb
  obtain ⟨t, run, index, notice, frame, writes, slots, states, countdown, sweep⟩ := settled.sweepEnds m done length rfl set
  have plain (f : FillState) (n : Nat) (h : s.begun.evaluateFill = s.begun.withFill f n) :
      t.index.fill = f ∧ t.index.fillCount = n ∧ t.notice = s.notice ∧ ns = [] :=
    ⟨by rw [index, h]; rfl, by rw [index, h]; rfl, by rw [notice, h]; rfl, set.no_writes (by rw [h]; rfl)⟩
  refine ⟨t, ns, run, ?_, fun unready => ?_, ?_, writes, slots, fun alive => ?_, fun quiet => ?_, fun off => ?_, fun on => ?_⟩
  · have same : s.begun.evaluateFill.index =
        { s.index with fill := s.begun.evaluateFill.index.fill, fillCount := s.begun.evaluateFill.index.fillCount } := congrArg State.index set
    rw [index, ← same, notice]
    exact frame
  · have same : s.begun.evaluateFill = s.begun := if_pos unready
    exact ⟨by rw [index, same]; rfl, by rw [notice, same]; rfl, set.no_writes (by rw [same])⟩
  · rintro declare clear rfl rfl ready
    refine ⟨fun normal above second => ?_, fun normal above first => plain _ _ (State.evaluateFill_rises ready normal above first),
      fun normal below => plain _ _ (State.evaluateFill_stays ready normal below),
      fun declared below second => plain _ _ (State.evaluateFill_clears ready declared below second),
      fun declared below first => plain _ _ (State.evaluateFill_falls ready declared below first),
      fun declared above => plain _ _ (State.evaluateFill_holds ready declared above)⟩
    obtain ⟨ms, raised⟩ := s.raiseLevel_writes s.header.fillLevel m
    have eq := (State.evaluateFill_declares (s := s.begun) ready normal above second).trans
      (raised { s.index with fill := .declared, fillCount := 0 } s.begun.port)
    have raises : s.raiseLevel s.header.fillLevel = _ := raised s.index s.port
    have posted : s.begun.evaluateFill.port.posted = s.port.posted ++ ns.map (Posted.mk s.ctl.area) := congrArg (fun v => v.port.posted) set
    refine ⟨by rw [index, eq], by rw [index, eq], by rw [notice, eq], ?_⟩
    rw [← posted, eq]
    exact congrArg (fun v => v.port.posted) raises
  · rw [countdown, State.interval_active (by obtain ⟨i, h⟩ := alive; exact ⟨i, by rw [states]; exact h⟩), frame]
  · rw [countdown, State.interval_quiet fun i => by rw [states]; exact quiet i, frame]
  · rw [sweep, off]; rfl
  · rw [sweep, on]; rfl

end Sys2Proof.Machine

namespace Sys2Proof.Machine

set_option Elab.async false

variable {s t : State}

/-! ### The control words of a host half, one by one (R102, R125, R126, R129, R131) -/

/-- A control word that counts up is held at Recipe Written, and never falls (R125, R126). -/
theorem holdValue_held (read held written : Nat) : (if holdValue read held written ≤ held then held else holdValue read held written) =
    if written < read then max held written else max held read := by
  unfold holdValue
  split <;> split <;> (try split) <;> omega

/-- A FIRM that is issued for a record of a slot's list (R102). -/
theorem State.issueFirm_spec (s : State) (i : SlotNo) (r : Nat) :
    let t := s.issueFirm i r
    t = { s with slots := t.slots, pool := t.pool, index := { s.index with firming := s.index.firming ++ [r] } } ∧
    t.slot i = { (s.slot i).dropProv r with inflight := (s.slot i).inflight + 1 } ∧ (∀ j, j ≠ i → t.slot j = s.slot j) ∧
    ∀ q, t.record q = if q = r then (s.record r).map (fun p => { p with disp := .firming }) else s.record q := by
  dsimp only
  unfold State.issueFirm
  dsimp only
  have self := s.slot_editSlot_self i fun c => { c.dropProv r with inflight := c.inflight + 1 }
  have others (j : SlotNo) (ne : j ≠ i) := s.slot_editSlot_of_ne i j (fun c => { c.dropProv r with inflight := c.inflight + 1 }) ne
  have rest : s.editSlot i (fun c => { c.dropProv r with inflight := c.inflight + 1 }) =
    { s with slots := (s.editSlot i fun c => { c.dropProv r with inflight := c.inflight + 1 }).slots } := rfl
  have record (q : Nat) : (s.editSlot i fun c => { c.dropProv r with inflight := c.inflight + 1 }).record q = s.record q := rfl
  generalize s.editSlot i _ = u at *
  obtain ⟨pool, eq⟩ := u.editRecord_eq r fun p => { p with disp := .firming }
  have edited (q : Nat) := u.record_editRecord r q fun p => { p with disp := .firming }
  have slot (j : SlotNo) : (u.editRecord r fun p => { p with disp := .firming }).slot j = u.slot j := by rw [eq]; rfl
  refine ⟨by rw [eq, rest], (slot i).trans self, fun j ne => (slot j).trans (others j ne), fun q => (edited q).trans ?_⟩
  rw [record, record]

/-- FIRMs that are issued for records in turn (R102). -/
theorem State.issueFirms_spec (i : SlotNo) (rs : List Nat) (s : State) :
    let t := rs.foldl (State.issueFirm i) s
    t = { s with slots := t.slots, pool := t.pool, index := { s.index with firming := s.index.firming ++ rs } } ∧
    t.slot i = { s.slot i with
      provList := (s.slot i).provList.filter fun q => !rs.contains q, provCount := (s.slot i).provCount - (s.slot i).provList.countP fun q => rs.contains q
      inflight := (s.slot i).inflight + rs.length } ∧
    (∀ j, j ≠ i → t.slot j = s.slot j) ∧
    ∀ q, t.record q = if q ∈ rs then (s.record q).map (fun p => { p with disp := .firming }) else s.record q := by
  induction rs generalizing s with
  | nil => simp
  | cons r rs ih =>
    obtain ⟨rest, self, others, records⟩ := s.issueFirm_spec i r
    obtain ⟨rest', self', others', records'⟩ := ih (s.issueFirm i r)
    dsimp only at *
    rw [List.foldl_cons]
    generalize s.issueFirm i r = u at *
    generalize rs.foldl (State.issueFirm i) u = t at *
    refine ⟨?_, ?_, fun j ne => (others' j ne).trans (others j ne), fun q => ?_⟩
    · rw [rest', rest]
      simp
    · rw [self', self]
      have list : ((s.slot i).provList.filter fun q => q != r).filter (fun q => !rs.contains q) = (s.slot i).provList.filter fun q => !(r :: rs).contains q := by
        rw [List.filter_filter]
        refine List.filter_congr fun q _ => ?_
        rw [List.contains_cons, Bool.not_or, Bool.and_comm]
        rfl
      have count : (s.slot i).provList.count r + ((s.slot i).provList.filter fun q => q != r).countP (fun q => rs.contains q) =
          (s.slot i).provList.countP fun q => (r :: rs).contains q := by
        rw [List.countP_eq_countP_filter_add (s.slot i).provList (fun q => (r :: rs).contains q) fun q => q == r]
        refine congrArg₂ _ ?_ (List.countP_congr fun q mem => ?_)
        · rw [List.countP_eq_length.2 fun q mem => by simp [beq_iff_eq.1 (List.mem_filter.1 mem).2], List.count, List.countP_eq_length_filter]
        · have ne : q ≠ r := by simpa using (List.mem_filter.1 mem).2
          simp [ne]
      simp only [Slot.dropProv, list, Nat.sub_sub, count, List.length_cons, Nat.add_assoc, Nat.add_comm 1]
    · rw [records', records]
      by_cases e : q = r
      · subst e
        rw [if_pos rfl, if_pos List.mem_cons_self, Option.map_map]
        split <;> rfl
      · simp [e]

end Sys2Proof.Machine

namespace Sys2Proof.Machine

set_option Elab.async false

variable {s t : State}

/-- The passage to CLOSED, with its writes (R28, R45, R46). -/
theorem State.tryClose_full (s : State) (i : SlotNo) :
    let closes := (s.slot i).state = .settling ∧ (s.slot i).stored = (s.slot i).written ∧ (s.slot i).inflight = 0
    let t := s.tryClose i
    s.SlotsAndPort t ∧ (∀ j, j ≠ i → t.slot j = s.slot j) ∧
    t.slot i = { s.slot i with state := if closes then .closed else (s.slot i).state, shown := (t.slot i).shown } ∧
    (s.mayWrite = true → s.Writes t (if closes then [.slotStats i (s.slot i).stats, .slotConsumed i (s.slot i).consumed, .slotState i .closed] else [])) := by
  dsimp only
  unfold State.tryClose
  dsimp only
  by_cases h : (s.slot i).state = .settling ∧ (s.slot i).stored = (s.slot i).written ∧ (s.slot i).inflight = 0
  · rw [if_pos h, if_pos h, if_pos h]
    obtain ⟨rest, self, others⟩ := (s.post [.slotStats i (s.slot i).stats]).setSlotState_spec i .closed
    refine ⟨(s.post_slotsAndPort _).trans rest, fun j e => (others j e).trans (s.slot_post _ _), by rw [self, s.slot_post], fun m => ?_⟩
    have closed := (s.post [.slotStats i (s.slot i).stats]).setSlotState_writes i .closed ((s.post_slotsAndPort _).mayWrite.trans m)
    rw [s.slot_post] at closed
    exact (s.post_writes [.slotStats i (s.slot i).stats] m).trans closed (s.post_ctl _ ▸ rfl)
  · rw [if_neg h, if_neg h, if_neg h]
    exact ⟨rfl, fun _ _ => rfl, rfl, fun _ => .refl s⟩

/-- Recipe Taken of a host half: what a raise of it moves (R125). -/
theorem State.holdTaken_spec (s : State) (i : SlotNo) (read : Nat) :
    let t := s.holdTaken i read
    let moves := (s.slot i).taken < (t.slot i).taken ∧ (s.slot i).state.isOpen = true ∧ (t.slot i).decided ≠ (s.slot i).state
    s.SlotsAndPort t ∧ (∀ j, j ≠ i → t.slot j = s.slot j) ∧
    t.slot i = { s.slot i with taken := (t.slot i).taken, state := (t.slot i).state, shown := (t.slot i).shown } ∧
    (t.slot i).taken = (if (s.slot i).written < read then max (s.slot i).taken (s.slot i).written else max (s.slot i).taken read) ∧
    (moves → (t.slot i).state = (t.slot i).decided) ∧ (¬moves → (t.slot i).state = (s.slot i).state) ∧
    (s.mayWrite = true → (moves → s.Writes t [.slotConsumed i (s.slot i).consumed, .slotState i (t.slot i).decided]) ∧ (¬moves → s.Writes t [])) := by
  dsimp only
  rw [← holdValue_held]
  unfold State.holdTaken
  dsimp only
  by_cases le : holdValue read (s.slot i).taken (s.slot i).written ≤ (s.slot i).taken
  · rw [if_pos le, if_pos le]
    exact ⟨rfl, fun _ _ => rfl, rfl, rfl, fun ⟨lt, _⟩ => absurd lt (Nat.lt_irrefl _), fun _ => rfl,
      fun _ => ⟨fun ⟨lt, _⟩ => absurd lt (Nat.lt_irrefl _), fun _ => .refl s⟩⟩
  · rw [if_neg le, if_neg le]
    generalize holdValue read (s.slot i).taken (s.slot i).written = v at *
    have self := s.slot_editSlot_self i fun c => { c with taken := v }
    have others (j : SlotNo) (ne : j ≠ i) := s.slot_editSlot_of_ne i j (fun c => { c with taken := v }) ne
    have rest := s.editSlot_slotsAndPort i fun c => { c with taken := v }
    have port : (s.editSlot i fun c => { c with taken := v }).port = s.port := rfl
    generalize s.editSlot i _ = u at *
    have writes (m : s.mayWrite = true) := u.setSlotState_writes i (u.slot i).decided (rest.mayWrite.trans m)
    obtain ⟨drest, dself, dothers⟩ := u.setSlotState_spec i (u.slot i).decided
    have lt : (s.slot i).taken < v := by omega
    have state : (u.slot i).state = (s.slot i).state := (congrArg Slot.state self :)
    have consumed : (u.slot i).consumed = (s.slot i).consumed := (congrArg Slot.consumed self :)
    have taken : (u.slot i).taken = v := (congrArg Slot.taken self :)
    by_cases changes : (s.slot i).state.isOpen = true ∧ (u.slot i).decided ≠ (s.slot i).state
    · have decides : u.decideState i = u.setSlotState i (u.slot i).decided := if_pos (by rw [state]; exact changes)
      rw [decides]
      generalize u.setSlotState i (u.slot i).decided = t at *
      have decided : (t.slot i).decided = (u.slot i).decided := by rw [dself]; rfl
      have moves : (s.slot i).taken < (t.slot i).taken ∧ (s.slot i).state.isOpen = true ∧ (t.slot i).decided ≠ (s.slot i).state := by
        rw [decided, dself]
        exact ⟨by rw [taken]; exact lt, changes⟩
      refine ⟨rest.trans drest, fun j ne => (dothers j ne).trans (others j ne), ?_, ?_, fun _ => ?_, fun k => absurd moves k, fun m =>
        ⟨fun _ => ?_, fun k => absurd moves k⟩⟩
      · rw [dself, self]
      · rw [dself]; exact taken
      · rw [decided, dself]
      · rw [decided, ← consumed]
        have := writes m
        rw [State.Writes, port, show u.ctl = s.ctl by rw [rest]] at this
        exact this
    · have same : u.decideState i = u := if_neg (by rw [state]; exact changes)
      rw [same]
      have moves : ¬((s.slot i).taken < (u.slot i).taken ∧ (s.slot i).state.isOpen = true ∧ (u.slot i).decided ≠ (s.slot i).state) := fun k => changes k.2
      exact ⟨rest, others, by rw [self], taken, fun k => absurd k moves, fun _ => state,
        fun _ => ⟨fun k => absurd k moves, fun _ => ⟨by rw [port]; simp, by rw [port]⟩⟩⟩

end Sys2Proof.Machine

namespace Sys2Proof.Machine

set_option Elab.async false

variable {s t : State}

/-- A record in use whose owner's ordinal is below a number (R102). -/
def State.ownsBelow (s : State) (n : Nat) (r : Nat) : Bool :=
  match s.record r with
  | some p => decide (p.ordinal < n)
  | none => false

theorem State.ownsBelow_iff (s : State) (n r : Nat) : s.ownsBelow n r = true ↔ ∃ p, s.record r = some p ∧ p.ordinal < n := by
  unfold State.ownsBelow
  cases s.record r <;> simp

/-- The context of a stream whose Stored Through rises to `n`, the records `due` leaving its list (R102, R126, R129). -/
def Slot.storedTo (c : Slot) (n : Nat) (due : Nat → Bool) : Slot :=
  { c with
    stored := n, safe := c.safeAt n, extents := c.extents.dropWhile fun e => decide (e.ordinal < n)
    provList := c.provList.filter fun r => !due r, provCount := c.provCount - (c.provList.filter due).length
    inflight := c.inflight + (c.provList.filter due).length }

/-- The FIRMs of a raise of Stored Through take the records due off their list, each counted once (R96, R102). -/
theorem State.firmsIssued_spec (s : State) (i : SlotNo) (n : Nat) :
    let t := ((s.slot i).provList.filter (s.ownsBelow n)).foldl (State.issueFirm i) s
    t = { s with slots := t.slots, pool := t.pool, index := { s.index with firming := s.index.firming ++ (s.slot i).provList.filter (s.ownsBelow n) } } ∧
    t.slot i = { s.slot i with
      provList := (s.slot i).provList.filter fun r => !s.ownsBelow n r
      provCount := (s.slot i).provCount - ((s.slot i).provList.filter (s.ownsBelow n)).length
      inflight := (s.slot i).inflight + ((s.slot i).provList.filter (s.ownsBelow n)).length } ∧
    (∀ j, j ≠ i → t.slot j = s.slot j) ∧
    ∀ q, t.record q = if q ∈ (s.slot i).provList.filter (s.ownsBelow n) then (s.record q).map (fun p => { p with disp := .firming }) else s.record q := by
  obtain ⟨rest, self, others, records⟩ := State.issueFirms_spec i ((s.slot i).provList.filter (s.ownsBelow n)) s
  have due (q : Nat) (mem : q ∈ (s.slot i).provList) : ((s.slot i).provList.filter (s.ownsBelow n)).contains q = s.ownsBelow n q := by
    rw [Bool.eq_iff_iff, List.contains_iff_mem, List.mem_filter]
    exact ⟨And.right, fun h => ⟨mem, h⟩⟩
  refine ⟨rest, self.trans ?_, others, records⟩
  rw [List.filter_congr fun q mem => by rw [due q mem], List.countP_congr fun q mem => by rw [due q mem], List.countP_eq_length_filter]

/-- Stored Through of a host half that raises none changes nothing (R126). -/
theorem State.holdStored_of_kept {i : SlotNo} {read : Nat} (h : holdValue read (s.slot i).stored (s.slot i).written ≤ (s.slot i).stored) :
    s.holdStored i read = s := if_pos h

/-- What a raise of Stored Through does (R28, R102, R126, R129). -/
theorem State.holdStored_of_raised {i : SlotNo} {read n : Nat} (h : holdValue read (s.slot i).stored (s.slot i).written = n) (lt : (s.slot i).stored < n) :
    let t := s.holdStored i read
    let c := (s.slot i).storedTo n (s.ownsBelow n)
    let closes := c.state = .settling ∧ c.stored = c.written ∧ c.inflight = 0
    t = { s with
      slots := t.slots, pool := t.pool, port := t.port
      index := { s.index with firming := s.index.firming ++ (s.slot i).provList.filter (s.ownsBelow n) } } ∧
    (∀ j, j ≠ i → t.slot j = s.slot j) ∧
    t.slot i = { c with state := if closes then .closed else c.state, shown := (t.slot i).shown } ∧
    (∀ q, t.record q = if q ∈ (s.slot i).provList.filter (s.ownsBelow n) then (s.record q).map (fun p => { p with disp := .firming }) else s.record q) ∧
    (s.mayWrite = true → s.Writes t ([.slotSafe i c.safe] ++
      if closes then [.slotStats i c.stats, .slotConsumed i c.consumed, .slotState i .closed] else [])) := by
  dsimp only
  unfold State.holdStored
  dsimp only
  rw [h, if_neg (by omega)]
  have uself := s.slot_editSlot_self i fun c => { c with stored := n }
  have uothers (j : SlotNo) (ne : j ≠ i) := s.slot_editSlot_of_ne i j (fun c => { c with stored := n }) ne
  have ufirm : (s.editSlot i fun c => { c with stored := n }).firmDue i n =
      ((s.editSlot i fun c => { c with stored := n }).slot i).provList.filter ((s.editSlot i fun c => { c with stored := n }).ownsBelow n) := rfl
  have urest : s.editSlot i (fun c => { c with stored := n }) = { s with slots := (s.editSlot i fun c => { c with stored := n }).slots } := rfl
  have below : (s.editSlot i fun c => { c with stored := n }).ownsBelow n = s.ownsBelow n := rfl
  have urecord (q : Nat) : (s.editSlot i fun c => { c with stored := n }).record q = s.record q := rfl
  generalize s.editSlot i (fun c => { c with stored := n }) = u at *
  obtain ⟨vrest, vself, vothers, vrecords⟩ := u.firmsIssued_spec i n
  rw [ufirm]
  have ulist : (u.slot i).provList = (s.slot i).provList := by rw [uself]
  rw [below, ulist] at vrest vself vothers vrecords ⊢
  generalize ((s.slot i).provList.filter (s.ownsBelow n)).foldl (State.issueFirm i) u = v at *
  have wself := v.slot_editSlot_self i fun c => { c with safe := c.safeAt n, extents := c.extents.dropWhile fun e => decide (e.ordinal < n) }
  have wothers (j : SlotNo) (ne : j ≠ i) :=
    v.slot_editSlot_of_ne i j (fun c => { c with safe := c.safeAt n, extents := c.extents.dropWhile fun e => decide (e.ordinal < n) }) ne
  have wrest := v.editSlot_slotsAndPort i fun c => { c with safe := c.safeAt n, extents := c.extents.dropWhile fun e => decide (e.ordinal < n) }
  have wport : (v.editSlot i fun c => { c with safe := c.safeAt n, extents := c.extents.dropWhile fun e => decide (e.ordinal < n) }).port = v.port := rfl
  generalize v.editSlot i _ = w at *
  have self : w.slot i = (s.slot i).storedTo n (s.ownsBelow n) := by rw [wself, vself, uself]; rfl
  have wframe : w = { s with
      slots := w.slots, pool := v.pool, index := { s.index with firming := s.index.firming ++ (s.slot i).provList.filter (s.ownsBelow n) } } := by
    rw [wrest, wport, vrest, urest]
  have may : w.mayWrite = s.mayWrite := by rw [wframe]; rfl
  have xwrites := w.post_writes [.slotSafe i (w.slot i).safe]
  have xrest := w.post_slotsAndPort [.slotSafe i (w.slot i).safe]
  have xslot (j : SlotNo) := w.slot_post [.slotSafe i (w.slot i).safe] j
  generalize w.post [.slotSafe i (w.slot i).safe] = x at *
  obtain ⟨yrest, yothers, yself, ywrites⟩ := x.tryClose_full i
  rw [xslot, self] at yself ywrites
  rw [self] at xwrites
  generalize x.tryClose i = t at *
  have trest := xrest.trans yrest
  refine ⟨?_, fun j ne => ?_, yself, fun q => ?_, fun m => ?_⟩
  · rw [trest, wframe]
  · rw [yothers j ne, xslot, wothers j ne, vothers j ne, uothers j ne]
  · have pool : t.pool = v.pool := by rw [trest, wframe]
    rw [State.record, pool, ← urecord]
    exact vrecords q
  · have first := xwrites (may.trans m)
    have all := first.trans (ywrites (xrest.mayWrite.trans (may.trans m))) (by rw [xrest])
    rw [wframe] at all
    exact all

end Sys2Proof.Machine

namespace Sys2Proof.Machine

set_option Elab.async false

variable {s t u : State}

/-- The Seen Sequence and the idle countdown of a host half that differs (R40, R41). -/
theorem State.seenHalf_spec (s : State) (i : SlotNo) (h : HostHalf) :
    let t := s.seenHalf i h
    let left := s.ctl.engine = .quiescing ∧ (s.slot i).state.isLive = true
    s.SlotsAndPort t ∧ (∀ j, j ≠ i → t.slot j = s.slot j) ∧
    t.slot i = { s.slot i with
      seen := if left then (s.slot i).seen else h.post, idle := if (s.slot i).state.isLive then (s.slot i).cls.idleLimit else (s.slot i).idle } ∧
    (s.mayWrite = true → s.Writes t (if left then [] else [.slotSeen i h.post])) := by
  dsimp only
  unfold State.seenHalf
  dsimp only
  generalize hu : (if s.ctl.engine = .quiescing ∧ (s.slot i).state.isLive = true then s
    else (s.editSlot i fun c => { c with seen := h.post }).post [.slotSeen i h.post]) = u
  obtain ⟨rest, others, self, writes⟩ : s.SlotsAndPort u ∧ (∀ j, j ≠ i → u.slot j = s.slot j) ∧
      u.slot i = { s.slot i with seen := if s.ctl.engine = .quiescing ∧ (s.slot i).state.isLive = true then (s.slot i).seen else h.post } ∧
      (s.mayWrite = true → s.Writes u (if s.ctl.engine = .quiescing ∧ (s.slot i).state.isLive = true then [] else [.slotSeen i h.post])) := by
    rw [← hu]
    by_cases left : s.ctl.engine = .quiescing ∧ (s.slot i).state.isLive = true
    · rw [if_pos left, if_pos left, if_pos left]
      exact ⟨rfl, fun _ _ => rfl, rfl, fun _ => .refl s⟩
    · rw [if_neg left, if_neg left, if_neg left]
      refine ⟨(s.editSlot_slotsAndPort i _).trans (State.post_slotsAndPort _ _), fun j ne => (State.slot_post _ _ j).trans (s.slot_editSlot_of_ne i j _ ne),
        (State.slot_post _ _ i).trans (s.slot_editSlot_self i _), fun m => ?_⟩
      exact State.post_writes (s.editSlot i fun c => { c with seen := h.post }) _ m
  by_cases live : (s.slot i).state.isLive = true
  · rw [if_pos live, if_pos live]
    refine ⟨rest.trans (u.editSlot_slotsAndPort i _), fun j ne => (u.slot_editSlot_of_ne i j _ ne).trans (others j ne), ?_, fun m => writes m⟩
    rw [u.slot_editSlot_self, self]
  · rw [if_neg live, if_neg live]
    exact ⟨rest, others, self, writes⟩

/-! ### What the cells of a host half leave (R48 to R53) -/

/-- What a cell taken leaves of its slot's context, and of the rest: an abort of the stream is the most it does. -/
structure State.CellsKept (s t : State) (i : SlotNo) : Prop where
  slot : t.slot i = { s.slot i with
    state := (t.slot i).state, reason := (t.slot i).reason, feed := (t.slot i).feed, pending := (t.slot i).pending, provList := (t.slot i).provList
    provCount := (t.slot i).provCount, cells := (t.slot i).cells, stats := (t.slot i).stats, shown := (t.slot i).shown }
  provList : (t.slot i).provList = (s.slot i).provList ∨ (t.slot i).provList = []
  others : ∀ j, j ≠ i → t.slot j = s.slot j
  firming : t.index.firming = s.index.firming
  sweep : t.sweep = s.sweep
  mem : t.mem = s.mem
  ctl : t.ctl = s.ctl
  header : t.header = s.header
  time : t.time = s.time
  classes : t.classes = s.classes
  requests : t.requests = s.requests

theorem State.CellsKept.refl (s : State) (i : SlotNo) : s.CellsKept s i := ⟨rfl, .inl rfl, fun _ _ => rfl, rfl, rfl, rfl, rfl, rfl, rfl, rfl, rfl⟩

theorem State.CellsKept.trans {i : SlotNo} (h : s.CellsKept t i) (k : t.CellsKept u i) : s.CellsKept u i where
  slot := by rw [k.slot, h.slot]
  provList := by
    rcases k.provList with same | none'
    · rw [same]; exact h.provList
    · exact .inr none'
  others := fun j ne => (k.others j ne).trans (h.others j ne)
  firming := k.firming.trans h.firming
  sweep := k.sweep.trans h.sweep
  mem := k.mem.trans h.mem
  ctl := k.ctl.trans h.ctl
  header := k.header.trans h.header
  time := k.time.trans h.time
  classes := k.classes.trans h.classes
  requests := k.requests.trans h.requests

theorem State.CellAnswered.kept {i : SlotNo} {g : Segment} {status : CellStatus} {stats : SlotStats} (h : s.CellAnswered t i g status stats) :
    s.CellsKept t i := by
  obtain ⟨rest, others, self, -⟩ := h
  refine ⟨by rw [self], .inl (by rw [self]), others, ?_, ?_, ?_, ?_, ?_, ?_, ?_, ?_⟩ <;> rw [rest]

theorem State.enterAborting_kept (s : State) (i : SlotNo) (r : AbortReason) : s.CellsKept (s.enterAborting i r) i := by
  by_cases live : (s.slot i).state.isLive = true
  · have aborts := s.enterAborting_aborts i r live
    obtain ⟨-, -, self, -, sweep, requests⟩ := s.enterAborting_shows i r live
    obtain ⟨-, ctl, header, time, classes, mem⟩ := aborts.same
    exact ⟨by rw [self]; rfl, .inr aborts.emptied.2.2, aborts.others, by rw [aborts.issued.1], sweep, mem, ctl, header, time, classes, requests⟩
  · have same : s.enterAborting i r = s := if_neg live
    rw [same]
    exact .refl s i

theorem State.joinSegment_kept (s : State) (i : SlotNo) (g : Segment) : s.CellsKept (s.joinSegment i g) i := by
  obtain ⟨rest, self, others, -⟩ := s.feedJoined_spec i g
  have joined : s.CellsKept (s.feedJoined i g) i := by
    refine ⟨by rw [self]; rfl, .inl (by rw [self]; rfl), others, ?_, ?_, ?_, ?_, ?_, ?_, ?_, ?_⟩ <;> rw [rest]
  rw [State.joinSegment_eq]
  split
  · exact joined.trans (State.enterAborting_kept _ i _)
  · exact joined

theorem State.takeSegment_kept (s : State) (i : SlotNo) (g : Segment) : s.CellsKept (s.takeSegment i g) i := by
  by_cases refused : g.refused
  · rw [State.takeSegment_of_refused refused]
    exact (s.answerCell_answered i g .refused).kept
  · by_cases empty : g.length = 0
    · rw [State.takeSegment_of_empty refused empty]
      exact (s.answerCell_answered i g .done).kept
    · rcases Nat.lt_or_ge (s.slot i).consumed g.stop with ahead | behind
      · obtain ⟨overruns, joins⟩ := State.takeSegment_of_ahead (s := s) (i := i) refused empty ahead
        by_cases beyond : ∃ f, (s.slot i).final = some f ∧ f < g.stop
        · obtain ⟨f, final, lt⟩ := beyond
          rw [overruns f final lt]
          exact s.enterAborting_kept i .overrun
        · rw [joins fun f final => Nat.not_lt.1 fun lt => beyond ⟨f, final, lt⟩]
          exact s.joinSegment_kept i g
      · rw [State.takeSegment_of_behind refused empty behind]
        exact (s.answerResent_answered i g).kept

theorem State.takeCells_kept (s : State) (i : SlotNo) (half : List Byte) (ns : List CellNo) :
    s.CellsKept (ns.foldl (fun s n => s.takeCell i half n) s) i := by
  induction ns generalizing s with
  | nil => exact .refl s i
  | cons n ns ih =>
    refine State.CellsKept.trans ?_ (ih _)
    dsimp only
    rw [State.takeCell_eq]
    split
    · exact .refl s i
    · exact s.takeSegment_kept i _

end Sys2Proof.Machine

namespace Sys2Proof.Machine

set_option Elab.async false

variable {s t u : State}

/-- Stored Through of a host half: held, and raised or not (R126). -/
theorem State.holdStored_value (s : State) (i : SlotNo) (read : Nat) :
    ((s.holdStored i read).slot i).stored =
      if (s.slot i).written < read then max (s.slot i).stored (s.slot i).written else max (s.slot i).stored read := by
  rw [← holdValue_held]
  by_cases le : holdValue read (s.slot i).stored (s.slot i).written ≤ (s.slot i).stored
  · rw [State.holdStored_of_kept le, if_pos le]
  · obtain ⟨-, -, self, -⟩ := State.holdStored_of_raised rfl (Nat.not_le.1 le)
    rw [self, if_neg le]
    rfl

/-- What the Stored Through of a host half does to the slot, by the value it comes to (R28, R102, R126, R129). -/
theorem State.holdStored_cases (s : State) (i : SlotNo) (read : Nat) :
    ((s.holdStored i read).slot i).stored = (s.slot i).stored ∧ s.holdStored i read = s ∨
    (s.slot i).stored < ((s.holdStored i read).slot i).stored ∧
      holdValue read (s.slot i).stored (s.slot i).written = ((s.holdStored i read).slot i).stored := by
  by_cases le : holdValue read (s.slot i).stored (s.slot i).written ≤ (s.slot i).stored
  · rw [State.holdStored_of_kept le]
    exact .inl ⟨rfl, rfl⟩
  · obtain ⟨-, -, self, -⟩ := State.holdStored_of_raised rfl (Nat.not_le.1 le)
    have stored : ((s.holdStored i read).slot i).stored = holdValue read (s.slot i).stored (s.slot i).written := by rw [self]; rfl
    rw [stored]
    exact .inr ⟨Nat.not_le.1 le, rfl⟩

/-- A SETTLING slot that a raise of Stored Through closes (R28). -/
def State.Closes (s u : State) (i : SlotNo) : Prop :=
  (s.slot i).stored < (u.slot i).stored ∧ (s.slot i).state = .settling ∧ (u.slot i).stored = (s.slot i).written ∧ (u.slot i).inflight = 0

/-- An open slot that a raise of Recipe Taken takes to another open state (R26). -/
def State.Moves (s u : State) (i : SlotNo) : Prop :=
  (s.slot i).taken < (u.slot i).taken ∧ (s.slot i).state.isOpen = true ∧ (u.slot i).decided ≠ (s.slot i).state

/-- What a raise of Stored Through does, by name (R28, R102, R126, R129). -/
structure State.StoredRaised (s t : State) (i : SlotNo) : Prop where
  index : t.index = { s.index with firming := s.index.firming ++ (s.slot i).provList.filter (s.ownsBelow (t.slot i).stored) }
  context : t.slot i = { (s.slot i).storedTo (t.slot i).stored (s.ownsBelow (t.slot i).stored) with state := (t.slot i).state, shown := (t.slot i).shown }
  records : ∀ q, t.record q =
    if q ∈ (s.slot i).provList.filter (s.ownsBelow (t.slot i).stored) then (s.record q).map (fun p => { p with disp := .firming }) else s.record q

/-- The control word Stored Through of a host half, raised or not (R28, R102, R126, R129). -/
theorem State.holdStored_spec (s : State) (i : SlotNo) (read : Nat) :
    let t := s.holdStored i read
    t = { s with slots := t.slots, pool := t.pool, port := t.port, index := t.index } ∧ (∀ j, j ≠ i → t.slot j = s.slot j) ∧
    ((t.slot i).stored = (s.slot i).stored ∧ t = s ∨ (s.slot i).stored < (t.slot i).stored ∧ s.StoredRaised t i) ∧
    t.slot i = { s.slot i with
      stored := (t.slot i).stored, safe := (t.slot i).safe, extents := (t.slot i).extents, inflight := (t.slot i).inflight, provList := (t.slot i).provList
      provCount := (t.slot i).provCount, state := (t.slot i).state, shown := (t.slot i).shown } ∧
    (s.Closes t i → (t.slot i).state = .closed) ∧ (¬s.Closes t i → (t.slot i).state = (s.slot i).state) ∧
    (s.mayWrite = true → ∃ close,
      (s.Closes t i ∧ close = [.slotStats i (s.slot i).stats, .slotConsumed i (s.slot i).consumed, .slotState i .closed] ∨ ¬s.Closes t i ∧ close = []) ∧
      s.Writes t ((if (s.slot i).stored < (t.slot i).stored then [.slotSafe i (t.slot i).safe] else []) ++ close)) := by
  dsimp only
  rcases s.holdStored_cases i read with ⟨stored, same⟩ | ⟨lt, value⟩
  · have no : ¬s.Closes s i := fun h => absurd h.1 (Nat.lt_irrefl _)
    rw [same]
    exact ⟨rfl, fun _ _ => rfl, .inl ⟨rfl, rfl⟩, rfl, fun h => absurd h no, fun _ => rfl,
      fun _ => ⟨[], .inr ⟨no, rfl⟩, by rw [if_neg (Nat.lt_irrefl _)]; exact .refl s⟩⟩
  · obtain ⟨rest, others, self, records, writes⟩ := State.holdStored_of_raised value lt
    generalize s.holdStored i read = t at *
    generalize hn : (t.slot i).stored = n at *
    generalize hc : (s.slot i).storedTo n (s.ownsBelow n) = c at *
    have state : c.state = (s.slot i).state := by rw [← hc]; rfl
    have stored : c.stored = n := by rw [← hc]; rfl
    have written : c.written = (s.slot i).written := by rw [← hc]; rfl
    have inflight : (t.slot i).inflight = c.inflight := (congrArg Slot.inflight self :)
    have context : t.slot i = { c with state := (t.slot i).state, shown := (t.slot i).shown } := by rw [self]
    have ends : (t.slot i).state = if c.state = .settling ∧ c.stored = c.written ∧ c.inflight = 0 then .closed else c.state := (congrArg Slot.state self :)
    have closes : s.Closes t i ↔ c.state = .settling ∧ c.stored = c.written ∧ c.inflight = 0 := by
      rw [State.Closes, hn, inflight, state, stored, written]
      exact and_iff_right lt
    refine ⟨?_, others, .inr ⟨lt, ⟨?_, ?_, ?_⟩⟩, ?_, fun k => ?_, fun k => ?_, fun m => ?_⟩
    · rw [rest]
    · rw [hn]; exact (congrArg State.index rest :)
    · rw [hn, hc]; exact context
    · rw [hn]; exact records
    · rw [context, ← hc]
      rfl
    · rw [ends, if_pos (closes.1 k)]
    · rw [ends, if_neg (mt closes.2 k), state]
    · have all := writes m
      have safe : c.safe = (t.slot i).safe := (congrArg Slot.safe context.symm :)
      have stats : c.stats = (s.slot i).stats := by rw [← hc]; rfl
      have consumed : c.consumed = (s.slot i).consumed := by rw [← hc]; rfl
      rw [safe, stats, consumed] at all
      rw [if_pos lt]
      by_cases k : s.Closes t i
      · rw [if_pos (closes.1 k)] at all
        exact ⟨_, .inl ⟨k, rfl⟩, all⟩
      · rw [if_neg (mt closes.2 k)] at all
        exact ⟨_, .inr ⟨k, rfl⟩, all⟩

end Sys2Proof.Machine

namespace Sys2Proof.Machine

set_option Elab.async false

variable {s t u : State}

/-- The control words of a host half, together: what they make of the slot, and their writes in their order (R28, R102, R125, R126, R129, R131). -/
theorem State.heldWords_spec (s : State) (i : SlotNo) (h : HostHalf) :
    let u := s.heldWords i h
    u = { s with slots := u.slots, pool := u.pool, index := u.index, port := u.port } ∧ (∀ j, j ≠ i → u.slot j = s.slot j) ∧
    (u.slot i).stored = (if (s.slot i).written < h.stored then max (s.slot i).stored (s.slot i).written else max (s.slot i).stored h.stored) ∧
    (u.slot i).taken = (if (s.slot i).written < h.taken then max (s.slot i).taken (s.slot i).written else max (s.slot i).taken h.taken) ∧
    (u.slot i).watch = h.watch ∧
    ((u.slot i).stored = (s.slot i).stored ∧ u.index = s.index ∧ u.pool = s.pool ∧
        u.slot i = { s.slot i with taken := (u.slot i).taken, watch := (u.slot i).watch, state := (u.slot i).state, shown := (u.slot i).shown } ∨
      (s.slot i).stored < (u.slot i).stored ∧
        u.index = { s.index with firming := s.index.firming ++ (s.slot i).provList.filter (s.ownsBelow (u.slot i).stored) } ∧
        (∀ q, u.record q =
          if q ∈ (s.slot i).provList.filter (s.ownsBelow (u.slot i).stored) then (s.record q).map (fun p => { p with disp := .firming }) else s.record q) ∧
        u.slot i = { (s.slot i).storedTo (u.slot i).stored (s.ownsBelow (u.slot i).stored) with
          taken := (u.slot i).taken, watch := (u.slot i).watch, state := (u.slot i).state, shown := (u.slot i).shown }) ∧
    (s.Closes u i → (u.slot i).state = .closed) ∧ (s.Moves u i → (u.slot i).state = (u.slot i).decided) ∧
    (¬s.Closes u i → ¬s.Moves u i → (u.slot i).state = (s.slot i).state) ∧
    (s.mayWrite = true → ∃ close move,
      (s.Closes u i ∧ close = [.slotStats i (s.slot i).stats, .slotConsumed i (s.slot i).consumed, .slotState i .closed] ∨ ¬s.Closes u i ∧ close = []) ∧
      (s.Moves u i ∧ move = [.slotConsumed i (s.slot i).consumed, .slotState i (u.slot i).decided] ∨ ¬s.Moves u i ∧ move = []) ∧
      s.Writes u ((if (s.slot i).stored < (u.slot i).stored then [.slotSafe i (u.slot i).safe] else []) ++ close ++ move)) := by
  dsimp only
  unfold State.heldWords
  have value := s.holdStored_value i h.stored
  obtain ⟨brest, bothers, bcases, bself, bcloses, bstays, bwrites⟩ := s.holdStored_spec i h.stored
  generalize s.holdStored i h.stored = b at *
  obtain ⟨crest, cothers, cself, ctaken, cmoves, cstays, cwrites⟩ := b.holdTaken_spec i h.taken
  generalize b.holdTaken i h.taken = c at *
  have uself : (c.holdWatch i h.watch).slot i = { c.slot i with watch := h.watch } := c.slot_editSlot_self i _
  have uothers (j : SlotNo) (ne : j ≠ i) : (c.holdWatch i h.watch).slot j = c.slot j := c.slot_editSlot_of_ne i j _ ne
  have urest : c.holdWatch i h.watch = { c with slots := (c.holdWatch i h.watch).slots } := rfl
  generalize c.holdWatch i h.watch = u at *
  have stored : (u.slot i).stored = (b.slot i).stored := by rw [uself, cself]
  have safe : (u.slot i).safe = (b.slot i).safe := by rw [uself, cself]
  have inflight : (u.slot i).inflight = (b.slot i).inflight := by rw [uself, cself]
  have taken : (u.slot i).taken = (c.slot i).taken := by rw [uself]
  have state : (u.slot i).state = (c.slot i).state := by rw [uself]
  have decided : (u.slot i).decided = (c.slot i).decided := by rw [uself]; rfl
  have btaken : (b.slot i).taken = (s.slot i).taken := by rw [bself]
  have bwritten : (b.slot i).written = (s.slot i).written := by rw [bself]
  have bconsumed : (b.slot i).consumed = (s.slot i).consumed := by rw [bself]
  have frame : u = { s with slots := u.slots, pool := b.pool, index := b.index, port := c.port } := by rw [urest, crest, brest]
  have closes : s.Closes u i ↔ s.Closes b i := by rw [State.Closes, State.Closes, stored, inflight]
  have moves : s.Moves u i ↔ (b.slot i).taken < (c.slot i).taken ∧ (b.slot i).state.isOpen = true ∧ (c.slot i).decided ≠ (b.slot i).state := by
    rw [State.Moves, taken, decided, btaken]
    by_cases k : s.Closes b i
    · rw [bcloses k, k.2.1]
      simp [SlotState.isOpen]
    · rw [bstays k]
  rw [stored, safe, taken, decided, state, closes, moves]
  have uslot : u.slot i = { b.slot i with taken := (c.slot i).taken, watch := (u.slot i).watch, state := (c.slot i).state, shown := (u.slot i).shown } := by
    rw [uself, cself]
  refine ⟨by rw [frame], fun j ne => by rw [uothers j ne, cothers j ne, bothers j ne], value, by rw [ctaken, btaken, bwritten], by rw [uself], ?_,
    fun k => ?_, cmoves, fun k l => (cstays l).trans (bstays k), fun m => ?_⟩
  · have index : u.index = b.index := by rw [frame]
    have pool : u.pool = b.pool := by rw [frame]
    have record (q : Nat) : u.record q = b.record q := by rw [State.record, State.record, pool]
    rw [index, pool]
    refine bcases.imp (fun ⟨same, eq⟩ => ⟨same, by rw [eq], by rw [eq], ?_⟩) fun ⟨lt, raised⟩ => ⟨lt, raised.index,
      fun q => (record q).trans (raised.records q), ?_⟩
    · rw [eq] at uslot
      exact uslot
    · rw [raised.context] at uslot
      exact uslot
  · have closed := bcloses k
    refine (cstays fun l => ?_).trans closed
    rw [closed] at l
    exact absurd l.2.1 (by decide)
  · obtain ⟨close, which, writes⟩ := bwrites m
    have ctl : b.ctl = s.ctl := by rw [brest]
    have may : b.mayWrite = true := by rw [State.mayWrite, ctl]; exact m
    obtain ⟨moved, still⟩ := cwrites may
    rw [bconsumed] at moved
    have ported {ws : List HostWrite} (k : s.Writes c ws) : s.Writes u ws := by
      rw [State.Writes, show u.port = c.port by rw [frame]]
      exact k
    by_cases k : (b.slot i).taken < (c.slot i).taken ∧ (b.slot i).state.isOpen = true ∧ (c.slot i).decided ≠ (b.slot i).state
    · exact ⟨close, _, which, .inl ⟨k, rfl⟩, ported (writes.trans (moved k) (by rw [ctl]))⟩
    · exact ⟨close, _, which, .inr ⟨k, rfl⟩, ported (writes.trans (still k) (by rw [ctl]))⟩

end Sys2Proof.Machine

namespace Sys2Proof.Machine

set_option Elab.async false

variable {s t u : State}

/-! ### SLOT_HOST_HALF_TAKEN (R40, R151, R155) -/

/-- The Extent List gives up the items below a number, and the Safe Offset is the end of the last of them (R129). -/
theorem Slot.safeAt_of_split {c : Slot} {n : Nat} {es fs : List Extent} {e : Extent} (split : c.extents = es ++ e :: fs)
    (below : ∀ x ∈ es ++ [e], x.ordinal < n) (rest : ∀ x, fs.head? = some x → n ≤ x.ordinal) :
    c.safeAt n = e.stop ∧ c.extents.dropWhile (fun e => decide (e.ordinal < n)) = fs := by
  have split' : c.extents = (es ++ [e]) ++ fs := by rw [split]; simp
  have none' : fs.takeWhile (fun e => decide (e.ordinal < n)) = [] ∧ fs.dropWhile (fun e => decide (e.ordinal < n)) = fs := by
    cases fs with
    | nil => exact ⟨rfl, rfl⟩
    | cons x xs =>
      have no : ¬decide (x.ordinal < n) = true := by simpa using rest x rfl
      exact ⟨List.takeWhile_cons_of_neg no, List.dropWhile_cons_of_neg no⟩
  have all (x : Extent) (mem : x ∈ es ++ [e]) : decide (x.ordinal < n) = true := decide_eq_true (below x mem)
  rw [Slot.safeAt, split', List.takeWhile_append_of_pos all, List.dropWhile_append_of_pos all, none'.1, none'.2, List.append_nil, List.getLast?_concat]
  exact ⟨rfl, rfl⟩

/-- With no item below the number the Safe Offset and the Extent List stand (R129). -/
theorem Slot.safeAt_of_none {c : Slot} {n : Nat} (rest : ∀ x, c.extents.head? = some x → n ≤ x.ordinal) :
    c.safeAt n = c.safe ∧ c.extents.dropWhile (fun e => decide (e.ordinal < n)) = c.extents := by
  unfold Slot.safeAt
  cases extents : c.extents with
  | nil => exact ⟨rfl, rfl⟩
  | cons x xs =>
    have no : ¬decide (x.ordinal < n) = true := by simpa using rest x (by rw [extents]; rfl)
    rw [List.takeWhile_cons_of_neg (p := fun e : Extent => decide (e.ordinal < n)) no,
      List.dropWhile_cons_of_neg (p := fun e : Extent => decide (e.ordinal < n)) no]
    exact ⟨rfl, rfl⟩

/-- What is written where a condition holds, and not where it does not, is one list. -/
theorem eq_of_written {p : Prop} {ws xs ys : List HostWrite} (hx : p ∧ xs = ws ∨ ¬p ∧ xs = []) (hy : p ∧ ys = ws ∨ ¬p ∧ ys = []) : xs = ys := by
  rcases hx with ⟨h, rfl⟩ | ⟨h, rfl⟩ <;> rcases hy with ⟨k, rfl⟩ | ⟨k, rfl⟩
  · rfl
  · exact absurd h k
  · exact absurd k h
  · rfl

theorem State.Settled.passesOver {i : SlotNo} {post : BitVec 32} {half : List Byte} {left : List SlotNo} (settled : s.Settled)
    (flight : s.sweep.flight = some (.slots (i :: left))) (same : post = (s.slot i).seen ∨ (s.slot i).state = .free) :
    exec (.slotHostHalfTaken i post half) s = .next { s.begun with sweep := { s.sweep with flight := some (.slots left) } } := by
  simp only [exec, execSlotHostHalfTaken, settled.eq]
  rw [show s.begun.sweep.flight = some (.slots (i :: left)) from flight]
  dsimp only
  rw [if_pos rfl, if_pos (by exact same)]
  rfl

theorem State.Settled.takesHalf {i : SlotNo} {post : BitVec 32} {half : List Byte} {left : List SlotNo} (settled : s.Settled)
    (flight : s.sweep.flight = some (.slots (i :: left))) (differs : post ≠ (s.slot i).seen) (used : (s.slot i).state ≠ .free) (length : half.length = 640) :
    exec (.slotHostHalfTaken i post half) s =
      .next (s.endEvent (State.takeHostHalf { s.begun with sweep := { s.sweep with flight := some (.slots left) } } i half)) := by
  simp only [exec, execSlotHostHalfTaken, settled.eq]
  rw [show s.begun.sweep.flight = some (.slots (i :: left)) from flight]
  dsimp only
  rw [if_pos rfl, if_neg (by exact not_or.2 ⟨differs, used⟩), if_neg (not_not.2 length)]
  rfl

/-- Settles O16: the control words by `State.heldWords_spec`, the cells by `State.takeCells_kept`. -/
theorem slotIsSwept : Obligations.SlotIsSwept := by
  intro s i post half left settled flight
  refine ⟨settled.passesOver flight, fun differs used length => ?_⟩
  have run := settled.takesHalf flight differs used length
  generalize hz : ({ s.begun with sweep := { s.sweep with flight := some (.slots left) } } : State) = z at run
  have zslot (j : SlotNo) : z.slot j = s.slot j := by rw [← hz]; rfl
  have zctl : z.ctl = s.ctl := by rw [← hz]; rfl
  rw [State.takeHostHalf_eq] at run
  obtain ⟨arest, aothers, aself, awrites⟩ := z.seenHalf_spec i (readHostHalf half)
  rw [zslot, zctl] at aself awrites
  generalize z.seenHalf i (readHostHalf half) = a at *
  have context : a.slot i = { s.slot i with seen := (a.slot i).seen, idle := (a.slot i).idle } := by rw [aself]
  obtain ⟨urest, uothers, stored, taken, watch, raise, closed, moved, stays, writes⟩ := a.heldWords_spec i (readHostHalf half)
  generalize a.heldWords i (readHostHalf half) = u at *
  have afields : (a.slot i).stored = (s.slot i).stored ∧ (a.slot i).taken = (s.slot i).taken ∧ (a.slot i).written = (s.slot i).written ∧
      (a.slot i).state = (s.slot i).state ∧ (a.slot i).provList = (s.slot i).provList ∧ (a.slot i).stats = (s.slot i).stats ∧
      (a.slot i).consumed = (s.slot i).consumed := by
    rw [context]
    exact ⟨rfl, rfl, rfl, rfl, rfl, rfl, rfl⟩
  obtain ⟨astored, ataken, awritten, astate, alist, astats, aconsumed⟩ := afields
  have afframe : a = { s with sweep := { s.sweep with flight := some (.slots left) }, slots := a.slots, port := a.port } := by rw [arest, ← hz]; rfl
  have aindex : a.index = s.index := by rw [afframe]
  have apool : a.pool = s.pool := by rw [afframe]
  have arecord (q : Nat) : a.record q = s.record q := by rw [State.record, State.record, apool]
  have abelow (n : Nat) : a.ownsBelow n = s.ownsBelow n := funext fun q => by rw [State.ownsBelow, State.ownsBelow, arecord]
  have closes : a.Closes u i ↔ s.Closes u i := by rw [State.Closes, State.Closes, astored, astate, awritten]
  have moves : a.Moves u i ↔ s.Moves u i := by rw [State.Moves, State.Moves, ataken, astate]
  rw [closes] at closed
  rw [moves] at moved
  rw [closes, moves, astate] at stays
  rw [closes, moves, astored, astats, aconsumed] at writes
  rw [astored, aindex, apool, alist, abelow] at raise
  rw [astored, awritten] at stored
  rw [ataken, awritten] at taken
  have uframe : u = { s with sweep := { s.sweep with flight := some (.slots left) }, slots := u.slots, index := u.index, pool := u.pool, port := u.port } := by
    rw [urest, afframe]
  have uctl : u.ctl = s.ctl := by rw [uframe]
  have ucontext : u.slot i = { a.slot i with
      stored := (u.slot i).stored, taken := (u.slot i).taken, watch := (u.slot i).watch, safe := (u.slot i).safe, extents := (u.slot i).extents
      inflight := (u.slot i).inflight, provList := (u.slot i).provList, provCount := (u.slot i).provCount, state := (u.slot i).state
      shown := (u.slot i).shown } := by
    rcases raise with ⟨same, -, -, eq⟩ | ⟨-, -, -, eq⟩
    · rw [eq]
    · rw [eq]; rfl
  have uidle : (u.slot i).idle = (a.slot i).idle := by rw [ucontext]
  have useen : (u.slot i).seen = (a.slot i).seen := by rw [ucontext]
  dsimp only at run
  rw [uctl] at run
  refine ⟨_, u, run, rfl, stored, taken, watch, by rw [uidle, aself], by rw [useen, aself]; rfl, fun same => ?_, fun lt => ?_,
    ⟨fun k => closed k, fun k => moved k, fun k l => stays k l, fun seen safe close move m hseen hsafe hclose hmove => ?_⟩, ?_, uframe, ?_⟩
  · rcases raise with ⟨-, index, pool, eq⟩ | ⟨lt, -⟩
    · rw [eq, context]
      exact ⟨rfl, rfl, index, pool, rfl, rfl, rfl⟩
    · omega
  · rcases raise with ⟨same, -⟩ | ⟨-, index, records, eq⟩
    · omega
    have safe : (u.slot i).safe = (s.slot i).safeAt (u.slot i).stored := (congrArg Slot.safe eq :).trans (by rw [context]; rfl)
    have extents : (u.slot i).extents = (s.slot i).extents.dropWhile fun e => decide (e.ordinal < (u.slot i).stored) :=
      (congrArg Slot.extents eq :).trans (by rw [context]; rfl)
    refine ⟨fun e es fs split below rest => ?_, fun rest => ?_, fun below due => ?_⟩
    · rw [safe, extents]
      exact Slot.safeAt_of_split split below rest
    · rw [safe, extents]
      exact Slot.safeAt_of_none rest
    · have same : below = s.ownsBelow (u.slot i).stored := funext fun r => by rw [Bool.eq_iff_iff, due, State.ownsBelow_iff]
      rw [← same] at index records eq
      refine ⟨index, (congrArg Slot.inflight eq :).trans (by rw [context]; rfl), (congrArg Slot.provList eq :).trans (by rw [context]; rfl),
        (congrArg Slot.provCount eq :).trans (by rw [context]; rfl), fun r p record listed under => ?_, fun r out => ?_⟩
      · rw [records, if_pos (List.mem_filter.2 ⟨listed, under⟩), arecord, record]
        rfl
      · rw [records, if_neg, arecord]
        intro mem
        obtain ⟨listed, under⟩ := List.mem_filter.1 mem
        exact out.elim (fun no => no listed) fun no => Bool.false_ne_true (no.symm.trans under)
  · obtain ⟨close', move', which, which', all⟩ := writes (show a.mayWrite = true by rw [State.mayWrite, show a.ctl = s.ctl by rw [afframe]]; exact m)
    rw [hseen, hsafe, eq_of_written hclose which, eq_of_written hmove which']
    have first := awrites (show z.mayWrite = true by rw [State.mayWrite, zctl]; exact m)
    have both := first.trans all (by rw [afframe, zctl])
    rw [← hz] at both
    simp only [← List.append_assoc] at both
    exact both
  · rw [ucontext, context]
  · have cells : u.CellsKept (if s.ctl.engine = .running then u.takeCells i half else u) i := by
      split
      · exact u.takeCells_kept i half _
      · exact .refl u i
    have quiet (quiescing : s.ctl.engine = .quiescing) : (if s.ctl.engine = .running then u.takeCells i half else u) = u := if_neg (by rw [quiescing]; nofun)
    generalize (if s.ctl.engine = .running then u.takeCells i half else u) = v at *
    obtain ⟨wrest, wself, wothers⟩ := v.refresh_spec i
    generalize v.refresh i = w at *
    have ends := s.endEvent_eq w
    generalize s.endEvent w = t at *
    have tslot (j : SlotNo) : t.slot j = w.slot j := by rw [ends]; rfl
    have tself : t.slot i = { v.slot i with marks := (v.slot i).marksDue } := (tslot i).trans wself
    have tframe : t = { v with slots := t.slots, notice := t.notice, port := t.port } := by rw [ends, wrest]
    have uslot (j : SlotNo) (ne : j ≠ i) : u.slot j = s.slot j := (uothers j ne).trans ((aothers j ne).trans (zslot j))
    have vself := cells.slot
    refine ⟨?_, ?_, ?_, ?_, ?_, ?_, ?_, ?_, ?_, ?_, ?_, fun quiescing => ?_, ?_, ?_, fun j ne => ⟨?_, uslot j ne⟩, ?_, ?_, ?_, ?_, ?_, ?_⟩
    · rw [tself, vself]
    · rw [tself, vself]
    · rw [tself, vself]
    · rw [tself, vself, ucontext, context]
    · rw [tself, vself]
    · rw [tself, vself]
    · rw [tself, vself]
    · rw [tself, vself]
    · rw [tframe]; exact cells.firming
    · rw [tself, vself]
    · rw [tself]; exact cells.provList
    · rw [tself, quiet quiescing, ucontext, context]
      exact ⟨rfl, rfl⟩
    · rw [tself]; rfl
    · exact (congrArg State.sweep tframe :).trans (cells.sweep.trans (congrArg State.sweep uframe))
    · rw [tslot, wothers j ne, cells.others j ne, uslot j ne]
    · exact (congrArg State.mem tframe :).trans (cells.mem.trans (congrArg State.mem uframe :))
    · exact (congrArg State.ctl tframe :).trans (cells.ctl.trans (congrArg State.ctl uframe :))
    · exact (congrArg State.header tframe :).trans (cells.header.trans (congrArg State.header uframe :))
    · exact (congrArg State.time tframe :).trans (cells.time.trans (congrArg State.time uframe :))
    · exact (congrArg State.classes tframe :).trans (cells.classes.trans (congrArg State.classes uframe :))
    · exact (congrArg State.requests tframe :).trans (cells.requests.trans (congrArg State.requests uframe :))

end Sys2Proof.Machine

namespace Sys2Proof.Machine

set_option Elab.async false

/-! ### What leaves the chunk numbers and the Pool alone (R70, R77, R78, R93, R96, R98) -/

/-- A change of a slot's context that lists no new record, and after which an open slot was open before and holds no chunk that it did not hold. -/
structure Slot.Rests (c d : Slot) : Prop where
  listed : d.provList.Sublist c.provList
  held : d.state.isOpen = true → ∀ x ∈ d.pending, ∀ r, x.cond = .held r →
    c.state.isOpen = true ∧ ∃ y ∈ c.pending, y.ordinal = x.ordinal ∧ y.cond = .held r

theorem Slot.Rests.refl (c : Slot) : c.Rests c := ⟨.refl _, fun o x m _ h => ⟨o, x, m, rfl, h⟩⟩

theorem Slot.Rests.trans {c d e : Slot} (h : c.Rests d) (k : d.Rests e) : c.Rests e := by
  refine ⟨k.listed.trans h.listed, fun o x m r held => ?_⟩
  obtain ⟨o, y, m, e, held⟩ := k.held o x m r held
  obtain ⟨o, z, m, f, held⟩ := h.held o y m r held
  exact ⟨o, z, m, f.trans e, held⟩

/-- A change that keeps the provisional list and the pending chunks, and opens no slot. -/
theorem Slot.Rests.of_same {c d : Slot} (provList : d.provList = c.provList := by rfl) (pending : d.pending = c.pending := by rfl)
    (opens : d.state.isOpen = true → c.state.isOpen = true := by exact id) : c.Rests d :=
  ⟨provList ▸ .refl _, fun o x m _ h => ⟨opens o, x, pending ▸ m, rfl, h⟩⟩

/-- A slot that is not open holds nothing. -/
theorem Slot.Rests.of_closed {c d : Slot} (closed : d.state.isOpen = false) (listed : d.provList.Sublist c.provList := by exact List.Sublist.refl _) :
    c.Rests d := ⟨listed, fun o => by rw [closed] at o; cases o⟩

/-- What the laws of the chunk numbers read of the Index Unit, and its operations in flight. -/
structure IndexUnit.Counted (x y : IndexUnit) : Prop where
  state : y.state = x.state
  copy : y.copy = x.copy
  counter : y.counter = x.counter
  writes : y.writes = x.writes
  format : y.format = x.format
  inflight : y.inflight = x.inflight

theorem IndexUnit.Counted.trans {x y z : IndexUnit} (h : x.Counted y) (k : y.Counted z) : x.Counted z :=
  ⟨k.state.trans h.state, k.copy.trans h.copy, k.counter.trans h.counter, k.writes.trans h.writes, k.format.trans h.format, k.inflight.trans h.inflight⟩

/-- The laws of the chunk numbers are kept, and the operations in flight stand. -/
structure State.NumbersKept (s t : State) : Prop where
  numbers : s.NumbersOk → t.NumbersOk
  inflight : t.index.inflight = s.index.inflight

theorem State.NumbersKept.refl (s : State) : s.NumbersKept s := ⟨id, rfl⟩

theorem State.NumbersKept.trans {s t u : State} (h : s.NumbersKept t) (k : t.NumbersKept u) : s.NumbersKept u :=
  ⟨k.numbers ∘ h.numbers, k.inflight.trans h.inflight⟩

theorem State.NumbersKept.ite {s t u : State} {p : Prop} [Decidable p] (h : p → s.NumbersKept t) (k : ¬p → s.NumbersKept u) :
    s.NumbersKept (if p then t else u) := by
  split
  · exact h ‹_›
  · exact k ‹_›

theorem State.NumbersKept.foldl {α : Type} {f : State → α → State} (h : ∀ (s : State) (a : α), s.NumbersKept (f s a)) (l : List α) (s : State) :
    s.NumbersKept (l.foldl f s) := by
  induction l generalizing s with
  | nil => exact .refl s
  | cons a l ih => exact (h s a).trans (ih _)

theorem IndexUnit.Counted.kept {s t : State} (h : s.index.Counted t.index) : s.NumbersKept t := by
  obtain ⟨state, copy, counter, writes, format, inflight⟩ := h
  refine ⟨fun k => ⟨?_, ?_, ?_, ?_, ?_, ?_, ?_, ?_⟩, inflight⟩
  · rw [state, counter, copy]; exact k.counter_le
  · rw [copy]; exact k.reserved_le
  · rw [writes]; exact k.one_reserve
  · rw [writes, copy]; exact k.reserve_raises
  · rw [format, state]; exact k.format_state
  · rw [format, copy]; exact k.format_reserved
  · rw [writes, format]; exact k.format_done
  · rw [writes]; exact k.one_done

/-- A change of blocks of which the laws of the numbers do not speak. -/
theorem State.NumbersKept.of_same {s t : State} (index : s.index.Counted t.index := by exact ⟨rfl, rfl, rfl, rfl, rfl, rfl⟩) : s.NumbersKept t := index.kept

/-- A change that leaves the chunk numbers, the Pool and its operations, and the operations in flight alone, and holds and lists nothing new. -/
structure State.Rests (s t : State) : Prop where
  form : s.Canonical → t.Canonical
  pool : t.pool = s.pool
  index : s.index.Counted t.index
  firming : t.index.firming = s.index.firming
  withdrawal : t.index.withdrawal = s.index.withdrawal
  slots : ∀ i, (s.slot i).Rests (t.slot i)

theorem State.Rests.trans {s t u : State} (h : s.Rests t) (k : t.Rests u) : s.Rests u :=
  ⟨k.form ∘ h.form, k.pool.trans h.pool, h.index.trans k.index, k.firming.trans h.firming, k.withdrawal.trans h.withdrawal,
    fun i => (h.slots i).trans (k.slots i)⟩

theorem State.canonical_of_same {s t : State} (pool : t.pool = s.pool) (ways : t.mem.ways = s.mem.ways) : s.Canonical → t.Canonical := by
  unfold State.Canonical; rw [pool, ways]; exact id

/-- A change of the contexts alone. -/
theorem State.Rests.of_slots {s t : State} (slots : ∀ i, (s.slot i).Rests (t.slot i)) (index : t.index = s.index := by rfl) (pool : t.pool = s.pool := by rfl)
    (ways : t.mem.ways = s.mem.ways := by rfl) : s.Rests t :=
  ⟨State.canonical_of_same pool ways, pool, by rw [index]; exact ⟨rfl, rfl, rfl, rfl, rfl, rfl⟩, by rw [index], by rw [index], slots⟩

/-- A change of blocks of which neither the numbers nor the Pool nor the contexts are. -/
theorem State.Rests.of_same {s t : State} (form : s.Canonical → t.Canonical := by exact State.canonical_of_same rfl rfl) (pool : t.pool = s.pool := by rfl)
    (index : s.index.Counted t.index := by exact ⟨rfl, rfl, rfl, rfl, rfl, rfl⟩) (firming : t.index.firming = s.index.firming := by rfl)
    (withdrawal : t.index.withdrawal = s.index.withdrawal := by rfl) (slots : t.slots = s.slots := by rfl) : s.Rests t :=
  ⟨form, pool, index, firming, withdrawal, fun i => by rw [State.slot, State.slot, slots]; exact .refl _⟩

theorem State.Rests.refl (s : State) : s.Rests s := .of_same

theorem State.Rests.ite {s t u : State} {p : Prop} [Decidable p] (h : p → s.Rests t) (k : ¬p → s.Rests u) : s.Rests (if p then t else u) := by
  split
  · exact h ‹_›
  · exact k ‹_›

theorem State.Rests.foldl {α : Type} {f : State → α → State} (h : ∀ (s : State) (a : α), s.Rests (f s a)) (l : List α) (s : State) :
    s.Rests (l.foldl f s) := by
  induction l generalizing s with
  | nil => exact .refl s
  | cons a l ih => exact (h s a).trans (ih _)

theorem State.Rests.numbers {s t : State} (h : s.Rests t) : s.NumbersKept t := h.index.kept

/-- A change of one slot. -/
theorem State.Rests.of_slot {s t : State} (i : SlotNo) (self : (s.slot i).Rests (t.slot i)) (others : ∀ j, j ≠ i → t.slot j = s.slot j)
    (index : t.index = s.index := by rfl) (pool : t.pool = s.pool := by rfl) (ways : t.mem.ways = s.mem.ways := by rfl) : s.Rests t :=
  .of_slots (fun j => by
    by_cases e : j = i
    · exact e ▸ self
    · rw [others j e]; exact .refl _) index pool ways

variable (s : State)

theorem State.editSlot_rests {i : SlotNo} {f : Slot → Slot} (h : (s.slot i).Rests (f (s.slot i))) : s.Rests (s.editSlot i f) :=
  .of_slot i (by simpa using h) fun j e => by simp [e]

theorem State.editStats_rests (f : EngineStats → EngineStats) : s.Rests (s.editStats f) := .of_same

theorem State.postAlways_rests (ws : List HostWrite) : s.Rests (s.postAlways ws) := .of_same

theorem State.post_rests (ws : List HostWrite) : s.Rests (s.post ws) := .ite (fun _ => s.postAlways_rests ws) fun _ => .refl s

theorem State.setLane_rests (n : LaneNo) (l : Lane) : s.Rests (s.setLane n l) := .of_same

theorem State.writeEntry_rests (b : Nat) (w : WayNo) (e : Entry) : s.Rests (s.writeEntry b w e) := .of_same (s.writeEntry_keeps b w e).form

theorem State.emptyWay_rests (b : Nat) (w : WayNo) : s.Rests (s.emptyWay b w) := .of_same (s.emptyWay_keeps b w).form

/-! ### Notices (chapter 9) -/

theorem State.joinLevel_rests (l : Nat) : s.Rests (s.joinLevel l) := .ite (fun _ => .refl s) fun _ => .of_same

theorem State.testDue_rests : s.Rests s.testDue := by
  unfold State.testDue
  split
  · exact .refl s
  · exact .ite (fun _ => (s.post_rests _).trans .of_same) fun _ => .refl s

theorem State.notify_rests (t : State) : t.Rests (s.notify t) := .ite (fun _ => .refl t) fun _ => t.testDue_rests

theorem State.issued_rests (t : State) : t.Rests (s.issued t) := .of_same

theorem State.begun_rests : s.Rests s.begun := .of_same

/-- The end of an event rests. -/
theorem State.endEvent_rests (t : State) : t.Rests (s.endEvent t) := (s.notify_rests t).trans .of_same

theorem State.raiseLevel_rests (l : Nat) : s.Rests (s.raiseLevel l) := (s.joinLevel_rests l).trans (s.notify_rests _)

theorem State.setReady_rests (i : SlotNo) (b : Bool) : s.Rests (s.setReady i b) :=
  .ite (fun _ => .refl s) fun _ => .trans .of_same (State.post_rests _ _)

theorem State.writeMarks_rests (i : SlotNo) (m : Marks) : s.Rests (s.writeMarks i m) :=
  ((s.editSlot_rests .of_same).trans (State.post_rests _ _)).trans (State.setReady_rests _ _ _)

theorem State.refresh_rests (i : SlotNo) : s.Rests (s.refresh i) :=
  .ite (fun _ => .refl s) fun _ => (s.writeMarks_rests i _).trans (.foldl (fun s l => s.joinLevel_rests l) _ _)

theorem State.refreshAll_rests : s.Rests s.refreshAll := .foldl (fun s i => s.refresh_rests i) _ s

theorem State.setError_rests : s.Rests s.setError := .ite (fun _ => .refl s) fun _ => .trans .of_same (State.joinLevel_rests _ _)

theorem State.setFill_rests (f : FillState) (n : Nat) : s.Rests (s.setFill f n) :=
  .ite (fun _ => .trans .of_same (State.raiseLevel_rests _ _)) fun _ => .of_same

/-! ### Slots (chapter 2) -/

theorem State.writeConsumed_rests (i : SlotNo) : s.Rests (s.writeConsumed i) :=
  .ite (fun _ => (s.editSlot_rests .of_same).trans (State.post_rests _ _)) fun _ => .refl s

/-- A slot passes to a state that is not open, or from one that is. -/
theorem State.setSlotState_rests (i : SlotNo) (st : SlotState) (opens : st.isOpen = true → (s.slot i).state.isOpen = true) : s.Rests (s.setSlotState i st) :=
  ((s.editSlot_rests (.of_same (opens := opens))).trans (State.writeConsumed_rests _ i)).trans (State.post_rests _ _)

theorem State.decideState_rests (i : SlotNo) : s.Rests (s.decideState i) :=
  .ite (fun h => s.setSlotState_rests i _ fun _ => h.1) fun _ => .refl s

theorem State.tryClose_rests (i : SlotNo) : s.Rests (s.tryClose i) :=
  .ite (fun _ => (s.post_rests _).trans (State.setSlotState_rests _ i _ fun h => by cases h)) fun _ => .refl s

theorem State.trySettle_rests (i : SlotNo) : s.Rests (s.trySettle i) :=
  .ite (fun _ => (s.setSlotState_rests i _ fun h => by cases h).trans (State.tryClose_rests _ i)) fun _ => .refl s

theorem State.tryAborted_rests (i : SlotNo) : s.Rests (s.tryAborted i) :=
  .ite (fun _ => (s.post_rests _).trans (State.setSlotState_rests _ i _ fun h => by cases h)) fun _ => .refl s

theorem State.dropInflight_rests (i : SlotNo) : s.Rests (s.dropInflight i) :=
  (s.editSlot_rests .of_same).trans (State.tryAborted_rests _ i)

theorem State.joinRun_rests (i : SlotNo) : s.Rests (s.joinRun i) := .ite (fun _ => .of_same) fun _ => .refl s

/-- A chunk of an open slot that takes an outcome is held no more. -/
theorem Slot.setCond_rests (c : Slot) (o : Nat) (v : Verdict) (n : Nat) (k : Cause) : c.Rests { c with pending := setCond o (.resolved v n k) c.pending } := by
  refine ⟨.refl _, fun isOpen x m r held => ⟨isOpen, ?_⟩⟩
  obtain ⟨y, mem, rfl⟩ := List.mem_map.1 m
  split at held
  · cases held
  · rename_i e; exact ⟨y, mem, by rw [if_neg e], held⟩

theorem State.resolveChunk_rests (i : SlotNo) (o : Nat) (v : Verdict) (n : Nat) (k : Cause) : s.Rests (s.resolveChunk i o v n k) :=
  (s.editSlot_rests (Slot.setCond_rests _ o v n k)).trans (State.decideState_rests _ i)

theorem State.takeResolved_rests (l : Lookup) (v : Verdict) (n : Nat) (k : Cause) : s.Rests (s.takeResolved l v n k) :=
  .trans (.ite (fun _ => s.resolveChunk_rests _ _ _ _ _) fun _ => .refl s) (State.dropInflight_rests _ _)

theorem State.endFirm_rests (i : SlotNo) : s.Rests (s.endFirm i) := (s.dropInflight_rests i).trans (State.tryClose_rests _ i)

/-! ### Answers and turns -/

theorem State.answerCell_rests (i : SlotNo) (n : CellNo) (t : Tag) (st : CellStatus) : s.Rests (s.answerCell i n t st) :=
  (s.editSlot_rests .of_same).trans (State.post_rests _ _)

theorem State.answer_rests (c : ReqNo) (st : Status) (r : Option ReqResult) : s.Rests (s.answer c st r) := by
  unfold State.answer
  refine .ite (fun _ => ?_) fun _ => .refl s
  split
  · exact .trans (.trans .of_same (State.post_rests _ _)) (State.joinLevel_rests _ _)
  · exact .refl s

theorem State.endTurn_rests (n : LaneNo) : s.Rests (s.endTurn n) := by
  unfold State.endTurn
  split
  · exact .refl s
  · exact .trans .of_same (State.joinRun_rests _ _)

theorem State.enterFaulted_rests (c : FaultCause) : s.Rests (s.enterFaulted c) :=
  .ite (fun _ => .refl s) fun _ => .trans .of_same (.foldl (fun s n => s.endTurn_rests n) _ _)

/-! ### The chunker, the Intake Unit and the Recipe Writer (chapters 1, 3 and 6) -/

/-- A new pending chunk looks for its entry. -/
theorem Slot.cut_rests (c : Slot) : c.Rests { c with pending := c.pending ++ [c.openChunk], chunker := c.chunker.nextChunk } := by
  refine ⟨.refl _, fun isOpen x m r held => ⟨isOpen, ?_⟩⟩
  rcases List.mem_append.1 m with m | m
  · exact ⟨x, m, rfl, held⟩
  · rw [List.mem_singleton.1 m] at held; cases held

theorem State.cutChunk_rests (i : SlotNo) : s.Rests (s.cutChunk i) := by
  unfold State.cutChunk
  exact .trans (.trans (t := { s with lookups := s.lookups ++ [lookupOf i (s.slot i).openChunk] }) .of_same
    (State.editSlot_rests _ (f := fun c => { c with pending := c.pending ++ [(s.slot i).openChunk], chunker := c.chunker.nextChunk })
      (Slot.cut_rests (s.slot i)))) (State.decideState_rests _ i)

theorem State.markFinished_rests (i : SlotNo) : s.Rests (s.markFinished i) := .ite (fun _ => s.editSlot_rests .of_same) fun _ => .refl s

theorem State.endStream_rests (i : SlotNo) : s.Rests (s.endStream i) :=
  .trans (.ite (fun _ => s.cutChunk_rests i) fun _ => .refl s) (State.markFinished_rests _ i)

theorem State.chunkByte_rests (i : SlotNo) (b : Byte) : s.Rests (s.chunkByte i b) :=
  (s.editSlot_rests .of_same).trans (.trans (.ite (fun _ => State.cutChunk_rests _ i) fun _ => .refl _) (State.endStream_rests _ i))

theorem State.answerLeaving_rests (i : SlotNo) (gs : List Segment) : s.Rests (s.answerLeaving i gs) := by
  induction gs generalizing s with
  | nil => exact .refl s
  | cons g gs ih => exact ((s.editSlot_rests .of_same).trans (State.answerCell_rests _ i _ _ _)).trans (ih _)

theorem State.leaveSegments_rests (i : SlotNo) : s.Rests (s.leaveSegments i) :=
  (s.editSlot_rests .of_same).trans (State.answerLeaving_rests _ i _)

theorem State.takeByte_rests (n : LaneNo) (t : Turn) (cell : CellNo) (b : Byte) : s.Rests (s.takeByte n t cell b) :=
  (((s.chunkByte_rests t.slot b).trans (State.editSlot_rests (i := t.slot)
    (f := fun c => { c with feed := c.feed.map fun g => if g.cell = cell then { g with count := g.count + 1 } else g }) _ .of_same)).trans
      (State.leaveSegments_rests _ _)).trans (State.setLane_rests _ _ _)

theorem State.takeBytes_rests (n : LaneNo) (cell : CellNo) (bs : List Byte) : s.Rests (s.takeBytes n cell bs) := by
  induction bs generalizing s with
  | nil => exact .refl s
  | cons b bs ih =>
    unfold State.takeBytes
    split
    · exact .refl s
    · exact .ite (fun _ => (s.takeByte_rests n _ cell b).trans (ih _)) fun _ => .refl s

theorem State.continueTurn_rests (n : LaneNo) : s.Rests (s.continueTurn n) := by
  unfold State.continueTurn
  split
  · exact .refl s
  · refine .ite (fun _ => s.endTurn_rests n) fun _ => (s.endStream_rests _).trans (.ite (fun _ => State.endTurn_rests _ n) fun _ => ?_)
    split
    · exact .of_same
    · exact State.endTurn_rests _ n

/-- The head that an emission takes off leaves the chunks behind it. -/
theorem State.emit_rests (i : SlotNo) (p : PendingChunk) (v : Verdict) (n : Nat) (k : Cause) : s.Rests (s.emit i p v n k) := by
  unfold State.emit
  refine (s.post_rests [.recipe ((s.slot i).entryAddr p.ordinal) (recipeOf p v n k)]).trans (.trans (State.editSlot_rests _ (i := i) (f := fun c => { c with
    pending := c.pending.tail, written := c.written + 1, extents := c.extents ++ [{ ordinal := p.ordinal, stop := p.offset + p.length }]
    stats := c.stats.emitted v p.length }) ⟨.refl _, fun isOpen x m r held => ⟨isOpen, x, List.mem_of_mem_tail m, rfl, held⟩⟩) ?_)
  exact ((((State.post_rests _ _).trans (State.decideState_rests _ i)).trans (State.joinRun_rests _ i)).trans (State.trySettle_rests _ i)).trans
    (State.refresh_rests _ i)

theorem State.holdTaken_rests (i : SlotNo) (read : Nat) : s.Rests (s.holdTaken i read) :=
  .ite (fun _ => .refl s) fun _ => (s.editSlot_rests .of_same).trans (State.decideState_rests _ i)

/-! ### The sweep and the requests (chapters 2 and 8) -/

theorem State.evaluateFill_rests : s.Rests s.evaluateFill := by
  unfold State.evaluateFill
  refine .ite (fun _ => .refl s) fun _ => ?_
  split <;> exact .ite (fun _ => .ite (fun _ => s.setFill_rests _ _) fun _ => s.setFill_rests _ _) fun _ => s.setFill_rests _ _

theorem State.mapSlots_rests (f : Slot → Slot) (h : ∀ c : Slot, c.Rests (f c)) (t : State) (slots : t.slots = mapVector f s.slots) (index : t.index = s.index := by rfl)
    (pool : t.pool = s.pool := by rfl) (ways : t.mem.ways = s.mem.ways := by rfl) : s.Rests t :=
  .of_slots (fun i => by rw [State.slot, State.slot, slots, get_mapVector]; exact h _) index pool ways

theorem State.writeConsumedAll_rests : s.Rests s.writeConsumedAll := by
  unfold State.writeConsumedAll
  dsimp only
  generalize List.filterMap _ _ = ws
  exact s.mapSlots_rests (fun c => { c with shown := c.consumed }) (fun _ => .of_same) _ rfl (by simp) (by simp) (by simp)

theorem State.closeSweep_rests (map : List Byte) : s.Rests (s.closeSweep map) := .ite (fun _ => .of_same) fun _ => .of_same

theorem State.closeStream_rests (i : SlotNo) (f : Nat) : s.Rests (s.closeStream i f) :=
  ((((s.editSlot_rests .of_same).trans (State.post_rests _ _)).trans (State.markFinished_rests _ i)).trans (State.trySettle_rests _ i)).trans
    ((State.refresh_rests _ i).trans (State.joinRun_rests _ i))

theorem State.releaseSlot_rests (i : SlotNo) : s.Rests (s.releaseSlot i) :=
  ((((s.editSlot_rests (.of_closed rfl)).trans (State.post_rests _ _)).trans (State.writeConsumed_rests _ i)).trans (State.post_rests _ _)).trans
    (State.writeMarks_rests _ i _)

/-- An opened slot lists and holds nothing. -/
theorem State.openSlot_rests (i : SlotNo) (cls : ChunkClass) (start addr size : Nat) (half : List Byte) :
    s.Rests (s.openSlot i (.opened cls start addr size half)) :=
  .trans (.of_slot i (by rw [State.slot_setSlot_self]; exact ⟨List.nil_sublist _, fun _ x m => absurd m List.not_mem_nil⟩) fun j e => by simp [e])
    (State.post_rests _ _)

theorem State.completeStart_rests (h : Header) (table : List (List Byte)) : s.Rests (s.completeStart h table) := by
  unfold State.completeStart
  have h0 := s.mapSlots_rests (fun c => { c with shown := c.consumed }) (fun _ => .of_same) { s with
    header := h, ctl := { s.ctl with starting := false, startError := .none, area := s.ctl.base.toNat }, requests := s.completeRecords table
    slots := mapVector (fun c : Slot => { c with shown := c.consumed }) s.slots } rfl
  dsimp only at h0 ⊢
  generalize ({ s with
    header := h, ctl := { s.ctl with starting := false, startError := .none, area := s.ctl.base.toNat }, requests := s.completeRecords table
    slots := mapVector (fun c : Slot => { c with shown := c.consumed }) s.slots } : State) = a at h0 ⊢
  generalize s.suppliedTags table ++ _ ++ _ = ws
  have h1 := h0.trans (a.postAlways_rests ws)
  generalize a.postAlways ws = b at h1 ⊢
  have h2 : b.Rests (if b.index.fill = .declared then b.joinLevel h.fillLevel else b) := .ite (fun _ => b.joinLevel_rests _) fun _ => .refl b
  generalize (if b.index.fill = .declared then b.joinLevel h.fillLevel else b) = c at h2 ⊢
  have h3 : c.Rests (if c.index.error = true then c.joinLevel h.errorLevel else c) := .ite (fun _ => c.joinLevel_rests _) fun _ => .refl c
  generalize (if c.index.error = true then c.joinLevel h.errorLevel else c) = d at h3 ⊢
  exact ((h1.trans h2).trans h3).trans (.trans .of_same (State.testDue_rests _))

theorem Slot.tick_rests (c : Slot) : c.Rests c.tick := by
  obtain ⟨n, e⟩ := c.tick_eq
  rw [e]
  exact .of_same

theorem State.tick_rests : s.Rests s.tick := by
  unfold State.tick
  by_cases h : s.ctl.engine = .running
  · exact s.mapSlots_rests Slot.tick Slot.tick_rests _ (if_pos h)
  · exact .of_slots fun i => by rw [State.slot, if_neg h]; exact .refl _

end Sys2Proof.Machine

namespace Sys2Proof.Machine

set_option Elab.async false

/-! ### What keeps the laws of the chunk numbers (R77, R78) -/

variable (s : State)

/-- A number allocated is below Reserved Through, and a reservation that is issued is the only one and raises it (R77, R78). -/
theorem State.allocate_numbersKept : s.NumbersKept s.allocate.2 := by
  unfold State.allocate
  dsimp only
  split
  · rename_i lt
    exact ⟨fun k => { k with counter_le := fun _ => lt }, rfl⟩
  split
  · split
    · exact .refl s
    · rename_i none
      have absent : s.index.writes.countP (fun w => w.use == .reserve) = 0 := by
        simpa [State.reservation, List.countP_eq_zero] using none
      refine ⟨fun k => { k with
        one_reserve := ?_, reserve_raises := fun w m e => ?_, format_done := fun w m e => ?_, one_done := ?_ }, rfl⟩
      · simp [State.issueWrite, absent]
      · rcases List.mem_append.1 m with m | m
        · exact k.reserve_raises w m e
        · have cap := k.reserved_le
          rw [List.mem_singleton.1 m]
          simp only [raisedReserve, State.issueWrite]
          omega
      · rcases List.mem_append.1 m with m | m
        · exact k.format_done w m e
        · rw [List.mem_singleton.1 m] at e; cases e
      · simpa [State.issueWrite] using k.one_done
  · exact .refl s

theorem State.enterAborting_numbersKept (i : SlotNo) (r : AbortReason) : s.NumbersKept (s.enterAborting i r) := by
  by_cases live : (s.slot i).state.isLive = true
  · exact .of_same (by rw [(s.enterAborting_aborts i r live).issued.1]; exact ⟨rfl, rfl, rfl, rfl, rfl, rfl⟩)
  · rw [State.enterAborting]; dsimp only; rw [if_neg live]; exact .refl s

theorem State.Serves.numbersKept {s t : State} {r : Nat} {l : List (Waiter × Option ChunkCond)} (h : s.Serves t r l) : s.NumbersKept t :=
  .of_same (by rw [h.index_eq]; exact ⟨rfl, rfl, rfl, rfl, rfl, rfl⟩)

theorem State.discardWaiter_numbersKept (r : Nat) (w : Waiter) : s.NumbersKept (s.discardWaiter r w) := (s.discardWaiter_serves r w).numbersKept

theorem State.resolveWaiter_numbersKept (r : Nat) (w : Waiter) (v : Verdict) (n : Nat) (k : Cause) : s.NumbersKept (s.resolveWaiter r w v n k) :=
  (s.resolveWaiter_serves r w v n k).numbersKept

theorem State.waiterExhausted_numbersKept (r : Nat) (w : Waiter) : s.NumbersKept (s.waiterExhausted r w) :=
  (s.enterAborting_numbersKept _ _).trans (State.discardWaiter_numbersKept _ _ _)

theorem State.lossGive_numbersKept (r : Nat) (w : Waiter) (a : Alloc) : s.NumbersKept (s.lossGive r w a) := by
  cases a with
  | number n => exact .ite (fun _ => s.resolveWaiter_numbersKept _ _ _ _ _) fun _ => s.discardWaiter_numbersKept _ _
  | exhausted => exact s.waiterExhausted_numbersKept r w
  | wait => exact .refl s

theorem State.lossWaiters_numbersKept (r : Nat) (ws : List Waiter) : s.NumbersKept (s.lossWaiters r ws).1 := by
  induction ws generalizing s with
  | nil => exact .refl s
  | cons w ws ih =>
    have k := s.allocate_numbersKept
    unfold State.lossWaiters
    split
    · rename_i e; rw [e] at k; exact k
    · rename_i e; rw [e] at k; exact (k.trans (State.lossGive_numbersKept _ _ _ _)).trans (ih _)

theorem State.discardAborting_numbersKept (r : Nat) : s.NumbersKept (s.discardAborting r) :=
  .foldl (fun s w => .ite (fun _ => s.discardWaiter_numbersKept r w) fun _ => .refl s) _ s

theorem State.editRecord_numbersKept (r : Nat) (f : PoolRecord → PoolRecord) : s.NumbersKept (s.editRecord r f) := by
  unfold State.editRecord; split <;> exact .of_same

theorem State.issueWithdraw_numbersKept (r : Nat) : s.NumbersKept (s.issueWithdraw r) := (s.editRecord_numbersKept r _).trans .of_same

theorem State.loseRecord_numbersKept (r : Nat) (p : PoolRecord) : s.NumbersKept (s.loseRecord r p) := by
  unfold State.loseRecord; dsimp only; split <;> exact .of_same

theorem State.endLoss_numbersKept (r : Nat) (live : Bool) : s.NumbersKept (s.endLoss r live) := .ite (fun _ => .of_same) fun _ => .refl s

theorem State.destroyWay_rests (b : Nat) (w : WayNo) : s.Rests (s.destroyWay b w) := by
  unfold State.destroyWay
  have h := ((s.emptyWay_rests b w).trans (State.editStats_rests _ fun t => { t with uncorrected := sat32 (t.uncorrected + 1) })).trans
    (State.setError_rests _)
  exact h.trans (.ite (fun _ => .of_same) fun _ => .refl _)

theorem State.checkWays_numbersKept (b : Nat) (ws : List (WayNo × Ecc)) : s.NumbersKept (s.checkWays b ws).1 := by
  induction ws generalizing s with
  | nil => exact .refl s
  | cons a ws ih =>
    obtain ⟨w, e⟩ := a
    unfold State.checkWays
    cases e with
    | clean => exact ih s
    | correctable => exact (s.editStats_rests _).numbers.trans (ih _)
    | uncorrectable =>
      have h := (s.destroyWay_rests b w).numbers
      dsimp only
      split
      · rename_i r p _ _
        have k := h.trans ((State.loseRecord_numbersKept _ r p).trans (State.discardAborting_numbersKept _ r))
        have l := k.trans (State.lossWaiters_numbersKept _ r ((((s.destroyWay b w).loseRecord r p).discardAborting r).waitersOf r))
        split
        · rename_i e; rw [e] at l; exact (l.trans (State.endLoss_numbersKept _ _ _)).trans (ih _)
        · rename_i e; rw [e] at l; exact l
      · exact h.trans (ih _)

/-! ### LOOKUP_INSERT (R72 to R75, R94, R95, R99) -/

theorem State.takeOutcome_numbersKept (l : Lookup) (o : LookupOutcome) : s.NumbersKept (s.takeOutcome l o) := by
  cases o with
  | dup n => exact (s.takeResolved_rests _ _ _ _).numbers
  | conflict n => exact (s.takeResolved_rests _ _ _ _).numbers
  | unindexed n c => exact (s.takeResolved_rests _ _ _ _).numbers
  | new n r =>
    exact .trans (.ite (fun _ => .of_same) fun _ => .trans .of_same (State.issueWithdraw_numbersKept _ r)) (State.takeResolved_rests _ _ _ _ _).numbers
  | held r =>
    exact .ite (fun _ => (s.editRecord_numbersKept r _).trans (.trans .of_same (State.decideState_rests _ _).numbers)) fun _ =>
      (s.dropInflight_rests _).numbers
  | numbers => exact (s.enterAborting_numbersKept _ _).trans (State.dropInflight_rests _ _).numbers

theorem State.endLookup_numbersKept (l : Lookup) (o : LookupOutcome) : s.NumbersKept (s.endLookup l o) := by
  have h := (s.editStats_rests o.count).numbers
  unfold State.endLookup
  generalize s.editStats o.count = t at h
  refine h.trans ?_
  cases o with
  | conflict n => exact t.setError_rests.numbers.trans (State.takeOutcome_numbersKept _ _ _)
  | dup n => exact t.takeOutcome_numbersKept _ _
  | unindexed n c => exact t.takeOutcome_numbersKept _ _
  | new n r => exact t.takeOutcome_numbersKept _ _
  | held r => exact t.takeOutcome_numbersKept _ _
  | numbers => exact t.takeOutcome_numbersKept _ _

theorem State.grant_numbersKept {l : Lookup} {b : Nat} {w : WayNo} {r : Nat} {t : State} (h : s.grant l b w = some (r, t)) : s.NumbersKept t := by
  unfold State.grant at h
  dsimp only at h
  split at h <;> cases h
  exact .of_same

theorem State.lookupNumber_numbersKept (l : Lookup) (b : Nat) (u : NumberUse) (a : Alloc) : s.NumbersKept (s.lookupNumber l b u a) := by
  unfold State.lookupNumber
  split
  · exact .refl s
  · exact s.endLookup_numbersKept _ _
  · split
    · exact s.endLookup_numbersKept _ _
    · exact s.endLookup_numbersKept _ _
    · exact s.endLookup_numbersKept _ _
    · split
      · exact s.endLookup_numbersKept _ _
      · split
        · exact s.endLookup_numbersKept _ _
        · rename_i granted
          exact ((s.grant_numbersKept granted).trans .of_same).trans (State.endLookup_numbersKept _ _ _)

theorem State.runLookup_numbersKept (l : Lookup) (b : Nat) : s.NumbersKept (s.runLookup l b).1 := by
  unfold State.runLookup
  split
  · exact (s.writeEntry_rests _ _ _).numbers.trans (State.endLookup_numbersKept _ _ _)
  · have h := s.allocate_numbersKept
    split
    · rename_i e; rw [e] at h; exact h
    · rename_i e; rw [e] at h; exact h.trans (State.lookupNumber_numbersKept _ _ _ _ _)

/-! ### FIRM, WITHDRAW, SEED, RETIRE and SCAN -/

theorem State.resolveAll_numbersKept (r n : Nat) (v : Verdict) (c : Cause) (ws : List Waiter) :
    s.NumbersKept (ws.foldl (fun s w => s.resolveWaiter r w v n c) s) := (s.resolveWaiters_serves r ws v n c).numbersKept

theorem State.freeRecord_numbersKept (r : Nat) : s.NumbersKept (s.freeRecord r) := .of_same

theorem State.runFirm_numbersKept (r : Nat) : s.NumbersKept (s.runFirm r) := by
  unfold State.runFirm
  split
  · exact .refl s
  · split
    · exact (s.freeRecord_numbersKept r).trans (State.endFirm_rests _ _).numbers
    · exact .refl s
    · rename_i p _ _ _ e _ _
      dsimp only
      have h := ((s.writeEntry_rests p.bucket p.way { e with state := .firm }).trans
        (State.editStats_rests _ fun t => { t with firms := sat48 (t.firms + 1) })).numbers
      exact (h.trans (State.resolveAll_numbersKept _ r e.number .dup .none p.waiters)).trans
        ((State.freeRecord_numbersKept _ r).trans (State.endFirm_rests _ _).numbers)

theorem State.takeover_numbersKept (r : Nat) (p : PoolRecord) (e : Entry) (w : Waiter) (n : Nat) : s.NumbersKept (s.takeover r p e w n) := by
  unfold State.takeover
  have h1 : s.NumbersKept (s.passedOn r p e w n) :=
    (s.writeEntry_rests _ _ _).numbers.trans ((State.editRecord_numbersKept _ r _).trans .of_same)
  have h2 := (h1.trans (State.resolveWaiter_numbersKept _ r w .new n .none)).trans
    (State.editStats_rests _ fun t => { t with takeovers := sat48 (t.takeovers + 1) }).numbers
  exact h2.trans (State.resolveAll_numbersKept _ r n .dup .none _)

theorem State.examine_numbersKept (r : Nat) (w : Waiter) (a : Alloc) : s.NumbersKept (s.examine r w a).2 := by
  unfold State.examine
  split
  · exact .refl s
  · exact s.waiterExhausted_numbersKept r w
  · dsimp only
    split
    · exact s.discardWaiter_numbersKept r w
    · split
      · split
        · exact .refl s
        · split
          · exact s.resolveWaiter_numbersKept _ _ _ _ _
          · exact s.takeover_numbersKept _ _ _ _ _
      · exact s.resolveWaiter_numbersKept _ _ _ _ _

theorem State.walk_numbersKept (r : Nat) (ws : List Waiter) : s.NumbersKept (s.walk r ws).2 := by
  induction ws generalizing s with
  | nil => exact .refl s
  | cons w ws ih =>
    have h := s.allocate_numbersKept
    unfold State.walk
    split
    · rename_i e; rw [e] at h; exact h
    · rename_i a t _ e
      rw [e] at h
      have k := h.trans (t.examine_numbersKept r w a)
      split
      · rename_i f; rw [f] at k; exact k
      · rename_i f; rw [f] at k; exact k.trans (ih _)

theorem State.endUnowned_numbersKept (r : Nat) : s.NumbersKept (s.endUnowned r) := by
  unfold State.endUnowned; split <;> exact .of_same

theorem State.endWalk_numbersKept (r : Nat) (x : WalkEnd × State) (h : s.NumbersKept x.2) : s.NumbersKept (State.endWalk r x).1 := by
  obtain ⟨e, t⟩ := x
  cases e with
  | owner => exact h.trans .of_same
  | noOwner => exact (h.trans (t.endUnowned_numbersKept r)).trans .of_same
  | halted w => exact h

theorem State.runWithdraw_numbersKept (r : Nat) : s.NumbersKept (s.runWithdraw r).1 := by
  unfold State.runWithdraw
  split
  · exact .refl s
  · dsimp only
    split
    · exact s.freeRecord_numbersKept r
    split
    · exact .refl s
    · exact s.endWalk_numbersKept r _ ((s.discardAborting_numbersKept r).trans (State.walk_numbersKept _ r _))

theorem State.runSeed_rests (o : SeedOp) (b : Nat) : s.Rests (s.runSeed o b) := by
  unfold State.runSeed
  refine s.refreshAll_rests.trans ?_
  generalize s.refreshAll = s
  dsimp only
  split
  · split
    · exact s.answer_rests _ _ _
    · split
      · exact (s.writeEntry_rests _ _ _).trans (State.answer_rests _ _ _ _)
      · exact s.answer_rests _ _ _
  · split
    · exact s.answer_rests _ _ _
    · exact ((s.writeEntry_rests _ _ _).trans .of_same).trans (State.answer_rests _ _ _ _)

theorem State.runRetire_rests (o : RetireOp) (b : Nat) : s.Rests (s.runRetire o b) := by
  unfold State.runRetire
  refine s.refreshAll_rests.trans ?_
  generalize s.refreshAll = s
  dsimp only
  split
  · exact s.answer_rests _ _ _
  · split
    · exact s.answer_rests _ _ _
    · split
      · exact s.answer_rests _ _ _
      · split
        · exact s.answer_rests _ _ _
        · exact ((s.emptyWay_rests _ _).trans .of_same).trans (State.answer_rests _ _ _ _)

theorem State.scanWay_rests (b : Nat) (w : WayNo) : s.Rests (s.scanWay b w) := by
  unfold State.scanWay
  split
  · exact .refl s
  · split
    · exact s.emptyWay_rests _ _
    · exact .of_same

/-- An index that a SCAN makes READY is being formatted by none. -/
theorem State.runScan_numbersKept (b : Nat) : s.NumbersKept (s.runScan b) := by
  unfold State.runScan
  have h := (State.Rests.foldl (fun s w => s.scanWay_rests b w) (List.finRange 16) s).numbers
  dsimp only
  generalize List.foldl (fun s w => s.scanWay b w) s (List.finRange 16) = t at h
  refine h.trans ?_
  split
  · rename_i scanning
    have not : t.index.state ≠ .formatting := by rw [show t.index.state = .scanning from scanning.1]; nofun
    exact ⟨fun k => { k with counter_le := fun _ => k.counter_le not, format_state := fun j e => absurd (k.format_state j e).1 not }, rfl⟩
  · exact .of_same

theorem State.runBody_numbersKept (op : Op) : s.NumbersKept (s.runBody op).1 := by
  unfold State.runBody
  split
  · exact s.runLookup_numbersKept _ _
  · exact s.runFirm_numbersKept _
  · exact s.runWithdraw_numbersKept _
  · exact (s.runSeed_rests _ _).numbers
  · exact (s.runRetire_rests _ _).numbers
  · exact s.runScan_numbersKept _

theorem State.runFrom_numbersKept (op : Op) (ws : List (WayNo × Ecc)) : s.NumbersKept (s.runFrom op ws).1 := by
  unfold State.runFrom
  have h := s.checkWays_numbersKept op.bucket ws
  split
  · rename_i e; rw [e] at h; exact h.trans (State.runBody_numbersKept _ op)
  · rename_i e; rw [e] at h; exact h

theorem State.goOn_numbersKept (op : Op) (a : Alloc) : s.NumbersKept (s.goOn op a).1 := by
  unfold State.goOn
  split
  · exact .refl s
  split
  · exact .refl s
  split
  · split
    · exact s.lookupNumber_numbersKept _ _ _ _
    all_goals exact .refl s
  · rename_i r w _
    split
    · have k := s.examine_numbersKept r w a
      split
      · rename_i f; rw [f] at k; exact s.endWalk_numbersKept r _ k
      · rename_i f; rw [f] at k; exact s.endWalk_numbersKept r _ (k.trans (State.walk_numbersKept _ r _))
    · exact s.endWalk_numbersKept r _ (s.walk_numbersKept r _)
  · rename_i r live w rest _
    have h : s.NumbersKept (if s.stillWaits r w then s.lossGive r w a else s) := .ite (fun _ => s.lossGive_numbersKept r w a) fun _ => .refl s
    dsimp only
    generalize (if s.stillWaits r w then s.lossGive r w a else s) = t at h
    have k := h.trans (t.lossWaiters_numbersKept r (t.waitersOf r))
    split
    · rename_i f; rw [f] at k; exact (k.trans (State.endLoss_numbersKept _ _ _)).trans (State.runFrom_numbersKept _ _ _)
    · rename_i f; rw [f] at k; exact k

theorem State.allocateAll_numbersKept (ks : List OpKey) : s.NumbersKept (s.allocateAll ks).2 := by
  induction ks generalizing s with
  | nil => exact .refl s
  | cons k ks ih => exact s.allocate_numbersKept.trans (ih _)

end Sys2Proof.Machine

namespace Sys2Proof.Machine

set_option Elab.async false

/-! ### The laws of the Pool over given operations in flight

An operation that is carried out is in flight until it completes, and breaks laws of the Pool that speak of it in between.
So the laws are stated of the operations `ops` that stand, and of a record `x` whose waiters are being dealt with (R70, R113). -/

/-- The record a FIRM names. -/
def OpKind.firms : OpKind → Option Nat
  | .firm r => some r
  | .lookup _ | .withdraw _ | .seed _ | .retire _ | .scan _ => none

/-- The record a WITHDRAW names. -/
def OpKind.withdraws : OpKind → Option Nat
  | .withdraw r => some r
  | .lookup _ | .firm _ | .seed _ | .retire _ | .scan _ => none

/-- The records of which a FIRM waits or is among these operations. -/
def State.firmsOver (s : State) (ops : List Op) : List Nat := s.index.firming ++ ops.filterMap fun o => o.kind.firms

/-- The records of which a WITHDRAW waits or is among these operations. -/
def State.withdrawsOver (s : State) (ops : List Op) : List Nat := s.index.withdrawal ++ ops.filterMap fun o => o.kind.withdraws

theorem State.firms_eq (s : State) : s.firms = s.firmsOver s.index.inflight := rfl

theorem State.withdraws_eq (s : State) : s.withdraws = s.withdrawsOver s.index.inflight := rfl

/-- The laws of the Pool, with these operations in flight and the waiters of the record `x` being dealt with (`State.PoolOk`). -/
structure State.PoolLaws (s : State) (ops : List Op) (x : Option Nat) : Prop where
  canonical : s.Canonical
  once : (s.firmsOver ops ++ s.withdrawsOver ops).Nodup
  firming : ∀ r ∈ s.firmsOver ops, ∃ p, s.record r = some p ∧ (p.disp = .firming ∨ p.disp = .lost)
  withdrawing : ∀ r ∈ s.withdrawsOver ops, ∃ p, s.record r = some p ∧ (p.disp = .withdrawing ∨ p.disp = .lost)
  listed : ∀ i, ∀ r ∈ (s.slot i).provList, ∃ p, s.record r = some p ∧ p.owner = i ∧ p.disp = .live
  listed_once : ∀ i, (s.slot i).provList.Nodup
  ascending : ∀ i, (s.slot i).provList.Pairwise fun r q => ∀ p o, s.record r = some p → s.record q = some o → p.ordinal ≤ o.ordinal
  held : ∀ i, (s.slot i).state.isOpen = true → ∀ c ∈ (s.slot i).pending, ∀ r, c.cond = .held r →
    ∃ p, s.record r = some p ∧ { slot := i, ordinal := c.ordinal } ∈ p.waiters
  lost_waiters : ∀ r p, s.record r = some p → p.disp = .lost → p.waiters ≠ [] →
    x = some r ∨ ∃ o ∈ ops, ∃ live w rest, o.halt = some (.loss r live w rest)
  begun_first : ops.Pairwise fun a o => o.halt ≠ none → a.bucket ≠ o.bucket
  at_bucket : ∀ o ∈ ops, ∀ r p, (o.kind = .firm r ∨ o.kind = .withdraw r) → s.record r = some p → o.bucket = p.bucket
  halted_loss : ∀ o ∈ ops, ∀ r live w rest, o.halt = some (.loss r live w rest) →
    (∃ p, s.record r = some p ∧ p.disp = .lost ∧ p.bucket = o.bucket) ∧ (live = true → r ∉ s.firmsOver ops ++ s.withdrawsOver ops)
  halted_walk : ∀ o ∈ ops, ∀ r w, o.halt = some (.walk r w) → o.kind = .withdraw r ∧ ∃ p, s.record r = some p ∧ p.disp = .withdrawing

/-- A relation holds between every item and each one before it where it holds pairwise. -/
theorem pairwise_iff_splits {α : Type} {R : α → α → Prop} {l : List α} : l.Pairwise R ↔ ∀ as b bs, l = as ++ b :: bs → ∀ a ∈ as, R a b := by
  refine ⟨fun h as b bs e a m => ?_, fun h => ?_⟩
  · rw [e] at h
    exact (List.pairwise_append.1 h).2.2 a m b List.mem_cons_self
  · induction l with
    | nil => exact .nil
    | cons c l ih =>
      refine List.pairwise_cons.2 ⟨fun b m => ?_, ih fun as b bs e a m => ?_⟩
      · obtain ⟨as, bs, rfl⟩ := List.append_of_mem m
        exact h (c :: as) b bs rfl c List.mem_cons_self
      · exact h (c :: as) b bs (by rw [e]; rfl) a (List.mem_cons_of_mem _ m)

/-- The laws of the Pool are those over the operations in flight with no record being dealt with. -/
theorem State.poolOk_iff {s : State} (canonical : s.Canonical) : s.PoolOk ↔ s.PoolLaws s.index.inflight none := by
  constructor
  · intro h
    obtain ⟨once, firming, withdrawing, listed, listed_once, ascending, held, lost, first, bucket, loss, walk⟩ := h
    rw [s.firms_eq, s.withdraws_eq] at once loss
    rw [s.firms_eq] at firming
    rw [s.withdraws_eq] at withdrawing
    exact ⟨canonical, once, firming, withdrawing, listed, listed_once, ascending, held, fun r p e d w => .inr (lost r p e d w),
      pairwise_iff_splits.2 fun as b bs e a m begun => first as b bs e begun a m, bucket, loss, walk⟩
  · intro h
    obtain ⟨_, once, firming, withdrawing, listed, listed_once, ascending, held, lost, first, bucket, loss, walk⟩ := h
    refine ⟨by rw [s.firms_eq, s.withdraws_eq]; exact once, by rw [s.firms_eq]; exact firming, by rw [s.withdraws_eq]; exact withdrawing,
      listed, listed_once, ascending, held, fun r p e d w => ?_, fun as b bs e begun a m => pairwise_iff_splits.1 first as b bs e a m begun, bucket,
      by rw [s.firms_eq, s.withdraws_eq]; exact loss, walk⟩
    exact (lost r p e d w).resolve_left nofun

variable {s t : State} {ops : List Op} {x : Option Nat}

theorem State.firmsOver_congr (h : t.index.firming = s.index.firming) : t.firmsOver ops = s.firmsOver ops := by rw [State.firmsOver, h, State.firmsOver]

theorem State.withdrawsOver_congr (h : t.index.withdrawal = s.index.withdrawal) : t.withdrawsOver ops = s.withdrawsOver ops := by
  rw [State.withdrawsOver, h, State.withdrawsOver]

/-- Where no record and no source changes and no slot lists or holds anything new, the laws stand. -/
theorem State.PoolLaws.of_rests (l : s.PoolLaws ops x) (canonical : t.Canonical) (pool : t.pool = s.pool := by rfl)
    (firming : t.index.firming = s.index.firming := by rfl) (withdrawal : t.index.withdrawal = s.index.withdrawal := by rfl)
    (slots : ∀ i, (s.slot i).Rests (t.slot i) := by exact fun _ => .refl _) : t.PoolLaws ops x := by
  have record (r : Nat) : t.record r = s.record r := by rw [State.record, pool, State.record]
  have firms := State.firmsOver_congr (ops := ops) firming
  have withdraws := State.withdrawsOver_congr (ops := ops) withdrawal
  refine ⟨canonical, by rw [firms, withdraws]; exact l.once, fun r m => ?_, fun r m => ?_, fun i r m => ?_, fun i => (l.listed_once i).sublist (slots i).listed,
    fun i => ?_, fun i isOpen c m r held => ?_, fun r p e => ?_, l.begun_first, fun o m r p k e => ?_, fun o m r live w rest e => ?_, fun o m r w e => ?_⟩
  · rw [record]; exact l.firming r (firms ▸ m)
  · rw [record]; exact l.withdrawing r (withdraws ▸ m)
  · rw [record]; exact l.listed i r ((slots i).listed.subset m)
  · simp only [record]; exact (l.ascending i).sublist (slots i).listed
  · obtain ⟨o, d, m, e, h⟩ := (slots i).held isOpen c m r held
    rw [record, ← e]; exact l.held i o d m r h
  · exact l.lost_waiters r p (record r ▸ e)
  · exact l.at_bucket o m r p k (record r ▸ e)
  · rw [record, firms, withdraws]; exact l.halted_loss o m r live w rest e
  · rw [record]; exact l.halted_walk o m r w e

theorem State.Rests.poolLaws (h : s.Rests t) (l : s.PoolLaws ops x) : t.PoolLaws ops x :=
  l.of_rests (h.form l.canonical) h.pool h.firming h.withdrawal h.slots

/-- A record for which a FIRM or a WITHDRAW is asked for is not LIVE. -/
theorem State.PoolLaws.not_live (l : s.PoolLaws ops x) {r : Nat} (m : r ∈ s.firmsOver ops ++ s.withdrawsOver ops) :
    ∃ p, s.record r = some p ∧ p.disp ≠ .live := by
  rcases List.mem_append.1 m with m | m
  · obtain ⟨p, e, d⟩ := l.firming r m
    exact ⟨p, e, by rcases d with d | d <;> simp [d]⟩
  · obtain ⟨p, e, d⟩ := l.withdrawing r m
    exact ⟨p, e, by rcases d with d | d <;> simp [d]⟩

/-- A record that is not LIVE, or is free, is on no provisional list. -/
theorem State.PoolLaws.unlisted (l : s.PoolLaws ops x) {r : Nat} (h : ∀ p, s.record r = some p → p.disp ≠ .live) (i : SlotNo) : r ∉ (s.slot i).provList := by
  intro m
  obtain ⟨p, e, -, live⟩ := l.listed i r m
  exact h p e live

/-- One record changes, and with it perhaps a source: what must be said of the record alone. -/
theorem State.PoolLaws.of_record {y : Option Nat} (l : s.PoolLaws ops x) (r : Nat) (canonical : t.Canonical) (records : ∀ q, q ≠ r → t.record q = s.record q)
    (slots : t.slots = s.slots) (x_eq : ∀ q, x = some q → q = r ∨ y = some q) (once : (t.firmsOver ops ++ t.withdrawsOver ops).Nodup)
    (firms : ∀ q ∈ t.firmsOver ops, q = r ∨ q ∈ s.firmsOver ops) (withdraws : ∀ q ∈ t.withdrawsOver ops, q = r ∨ q ∈ s.withdrawsOver ops)
    (firming : r ∈ t.firmsOver ops → ∃ p, t.record r = some p ∧ (p.disp = .firming ∨ p.disp = .lost))
    (withdrawing : r ∈ t.withdrawsOver ops → ∃ p, t.record r = some p ∧ (p.disp = .withdrawing ∨ p.disp = .lost))
    (listed : ∀ p, s.record r = some p → ∀ i, r ∈ (s.slot i).provList →
      ∃ q, t.record r = some q ∧ q.owner = p.owner ∧ q.disp = p.disp ∧ q.ordinal = p.ordinal)
    (held : ∀ p, s.record r = some p → ∀ w ∈ p.waiters, ∃ q, t.record r = some q ∧ w ∈ q.waiters)
    (lost : ∀ p, t.record r = some p → p.disp = .lost → p.waiters ≠ [] →
      y = some r ∨ ∃ o ∈ ops, ∃ live w rest, o.halt = some (.loss r live w rest))
    (bucket : ∀ o ∈ ops, (o.kind = .firm r ∨ o.kind = .withdraw r) → ∀ p, t.record r = some p → o.bucket = p.bucket)
    (loss : ∀ o ∈ ops, ∀ live w rest, o.halt = some (.loss r live w rest) →
      (∃ p, t.record r = some p ∧ p.disp = .lost ∧ p.bucket = o.bucket) ∧ (live = true → r ∉ t.firmsOver ops ++ t.withdrawsOver ops))
    (walk : ∀ o ∈ ops, ∀ w, o.halt = some (.walk r w) → o.kind = .withdraw r ∧ ∃ p, t.record r = some p ∧ p.disp = .withdrawing) :
    t.PoolLaws ops y := by
  have slot (i : SlotNo) : t.slot i = s.slot i := by rw [State.slot, slots, State.slot]
  have kept (q p o : _) (h : ∃ i, q ∈ (s.slot i).provList) (e : t.record q = some p) (f : s.record q = some o) : p.ordinal = o.ordinal := by
    obtain ⟨i, m⟩ := h
    by_cases k : q = r
    · subst k
      obtain ⟨p', e', -, -, o'⟩ := listed o f i m
      rw [e] at e'; cases e'; exact o'
    · rw [records q k, f] at e; cases e; rfl
  refine ⟨canonical, once, fun q m => ?_, fun q m => ?_, fun i q m => ?_, fun i => by rw [slot]; exact l.listed_once i, fun i => ?_,
    fun i isOpen c m q h => ?_, fun q p e d w => ?_, l.begun_first, fun o m q p k e => ?_, fun o m q live w rest e => ?_, fun o m q w e => ?_⟩
  · by_cases k : q = r
    · exact k ▸ firming (k ▸ m)
    · rw [records q k]; exact l.firming q ((firms q m).resolve_left k)
  · by_cases k : q = r
    · exact k ▸ withdrawing (k ▸ m)
    · rw [records q k]; exact l.withdrawing q ((withdraws q m).resolve_left k)
  · rw [slot] at m
    obtain ⟨p, e, owner, live⟩ := l.listed i q m
    by_cases k : q = r
    · subst k
      obtain ⟨p', e', owner', disp', -⟩ := listed p e i m
      exact ⟨p', e', owner'.trans owner, disp'.trans live⟩
    · rw [records q k]; exact ⟨p, e, owner, live⟩
  · rw [slot]
    refine (l.ascending i).imp_of_mem fun {a b} ma mb h p o e f => ?_
    obtain ⟨p', e', -⟩ := l.listed i a ma
    obtain ⟨o', f', -⟩ := l.listed i b mb
    rw [kept a p p' ⟨i, ma⟩ e e', kept b o o' ⟨i, mb⟩ f f']
    exact h p' o' e' f'
  · rw [slot] at isOpen m
    obtain ⟨p, e, w⟩ := l.held i isOpen c m q h
    by_cases k : q = r
    · subst k; exact held p e _ w
    · rw [records q k]; exact ⟨p, e, w⟩
  · by_cases k : q = r
    · subst k; exact lost p e d w
    · rw [records q k] at e
      exact (l.lost_waiters q p e d w).imp_left fun h => (x_eq q h).resolve_left k
  · by_cases b : q = r
    · subst b; exact bucket o m k p e
    · exact l.at_bucket o m q p k (records q b ▸ e)
  · by_cases b : q = r
    · subst b; exact loss o m live w rest e
    · rw [records q b]
      refine ⟨(l.halted_loss o m q live w rest e).1, fun a n => (l.halted_loss o m q live w rest e).2 a ?_⟩
      rcases List.mem_append.1 n with n | n
      · exact List.mem_append_left _ ((firms q n).resolve_left b)
      · exact List.mem_append_right _ ((withdraws q n).resolve_left b)
  · by_cases b : q = r
    · subst b; exact walk o m w e
    · rw [records q b]; exact l.halted_walk o m q w e

end Sys2Proof.Machine

namespace Sys2Proof.Machine

set_option Elab.async false

variable {s t : State} {ops : List Op} {x y : Option Nat} {r : Nat}

/-! ### What the operations on one record keep (R93, R96, R98, R106) -/

theorem State.mem_firmsOver_of_kind {o : Op} (m : o ∈ ops) (k : o.kind = .firm r) : r ∈ s.firmsOver ops :=
  List.mem_append_right _ (List.mem_filterMap.2 ⟨o, m, by rw [k]; rfl⟩)

theorem State.mem_withdrawsOver_of_kind {o : Op} (m : o ∈ ops) (k : o.kind = .withdraw r) : r ∈ s.withdrawsOver ops :=
  List.mem_append_right _ (List.mem_filterMap.2 ⟨o, m, by rw [k]; rfl⟩)

/-- A record that no FIRM or WITHDRAW names is named by no operation that stands. -/
theorem State.not_of_kind (free : r ∉ s.firmsOver ops ++ s.withdrawsOver ops) {o : Op} (m : o ∈ ops) : ¬(o.kind = .firm r ∨ o.kind = .withdraw r) := by
  rintro (k | k)
  · exact free (List.mem_append_left _ (State.mem_firmsOver_of_kind m k))
  · exact free (List.mem_append_right _ (State.mem_withdrawsOver_of_kind m k))

theorem State.setRecord_record (s : State) (r : Nat) (p : PoolRecord) : (s.setRecord r p).record r = some p := tableGet_tablePut_self _ _

theorem State.setRecord_record_of_ne (s : State) {r q : Nat} (p : PoolRecord) (h : q ≠ r) : (s.setRecord r p).record q = s.record q :=
  tableGet_tablePut_of_ne _ h

/-- A free record is named by no FIRM or WITHDRAW. -/
theorem State.PoolLaws.not_free (l : s.PoolLaws ops x) (free : s.record r = none) : r ∉ s.firmsOver ops ++ s.withdrawsOver ops := fun m => by
  obtain ⟨p, e, -⟩ := l.not_live m
  rw [free] at e; cases e

theorem State.PoolLaws.not_of_live (l : s.PoolLaws ops x) {p : PoolRecord} (record : s.record r = some p) (live : p.disp = .live) :
    r ∉ s.firmsOver ops ++ s.withdrawsOver ops := fun m => by
  obtain ⟨q, e, d⟩ := l.not_live m
  rw [record] at e; cases e; exact d live

/-- A record is granted (R94). -/
theorem State.PoolLaws.setRecord_new (l : s.PoolLaws ops x) (free : s.record r = none) (lt : r < 16384) {p : PoolRecord} (live : p.disp = .live) :
    (s.setRecord r p).PoolLaws ops x := by
  have no := l.not_free free
  have e : ∀ {q : PoolRecord}, (s.setRecord r p).record r = some q → q = p := fun h => by rw [State.setRecord_record] at h; exact (Option.some.inj h).symm
  refine l.of_record r ((s.setRecord_keeps fun _ => lt).form l.canonical) (fun q => s.setRecord_record_of_ne p) rfl (fun _ => .inr) l.once (fun q => .inr)
    (fun q => .inr) (fun m => absurd (List.mem_append_left _ m) no) (fun m => absurd (List.mem_append_right _ m) no)
    (fun p h => by rw [free] at h; cases h) (fun p h => by rw [free] at h; cases h) (fun q h d => ?_) (fun o m k => absurd k (State.not_of_kind no m))
    (fun o m live w rest h => ?_) (fun o m w h => ?_)
  · rw [e h, live] at d; cases d
  · obtain ⟨⟨q, h, -⟩, -⟩ := l.halted_loss o m r live w rest h
    rw [free] at h; cases h
  · obtain ⟨-, q, h, -⟩ := l.halted_walk o m r w h
    rw [free] at h; cases h

/-- A LIVE record of a stream's own joins its provisional list in its place (R95, R96, R108). -/
theorem State.PoolLaws.list (l : s.PoolLaws ops x) (i : SlotNo) {p : PoolRecord} (record : s.record r = some p) (owner : p.owner = i) (live : p.disp = .live)
    (unlisted : r ∉ (s.slot i).provList) {f : Slot → Slot} (joined : (f (s.slot i)).provList = s.joinProvList r p.ordinal (s.slot i).provList)
    (state : (f (s.slot i)).state = (s.slot i).state) (pending : (f (s.slot i)).pending = (s.slot i).pending) : (s.editSlot i f).PoolLaws ops x := by
  obtain ⟨as, bs, split, eq, before, after⟩ := s.joinProvList_spec r p.ordinal (s.slot i).provList
  have self : (s.editSlot i f).slot i = f (s.slot i) := s.slot_editSlot_self i f
  have other (j : SlotNo) (e : j ≠ i) : (s.editSlot i f).slot j = s.slot j := s.slot_editSlot_of_ne i j f e
  have list (j : SlotNo) : ((s.editSlot i f).slot j).provList = if j = i then as ++ r :: bs else (s.slot j).provList := by
    split
    · rename_i e; rw [e, self, joined, eq]
    · rename_i e; rw [other j e]
  have rests (j : SlotNo) : ((s.editSlot i f).slot j).state = (s.slot j).state ∧ ((s.editSlot i f).slot j).pending = (s.slot j).pending := by
    by_cases e : j = i
    · rw [e, self]; exact ⟨state, pending⟩
    · rw [other j e]; exact ⟨rfl, rfl⟩
  have perm : (as ++ r :: bs).Perm (r :: (s.slot i).provList) := by rw [split]; exact List.perm_middle
  have same (q : Nat) : (s.editSlot i f).record q = s.record q := rfl
  refine ⟨l.canonical, l.once, l.firming, l.withdrawing, fun j q m => ?_, fun j => ?_, fun j => ?_, fun j isOpen c m q h => ?_, l.lost_waiters,
    l.begun_first, l.at_bucket, l.halted_loss, l.halted_walk⟩
  · rw [list] at m
    split at m
    · rename_i e
      rcases List.mem_cons.1 (perm.mem_iff.1 m) with rfl | m
      · exact ⟨p, record, owner.trans e.symm, live⟩
      · exact l.listed j q (e ▸ m)
    · exact l.listed j q m
  · rw [list]
    split
    · exact perm.nodup_iff.2 (List.nodup_cons.2 ⟨unlisted, l.listed_once i⟩)
    · exact l.listed_once j
  · rw [list]
    split
    · have asc := l.ascending i
      have all := l.listed i
      rw [split] at asc all
      obtain ⟨asc1, asc2, cross⟩ := List.pairwise_append.1 asc
      refine List.pairwise_append.2 ⟨asc1, List.pairwise_cons.2 ⟨fun b m p' o e f => ?_, asc2⟩, fun a ma b mb p' o e f => ?_⟩
      · cases record.symm.trans e
        obtain ⟨c, bs, rfl⟩ := List.exists_cons_of_ne_nil (List.ne_nil_of_mem m)
        rcases List.mem_cons.1 m with rfl | m'
        · exact after _ o rfl f
        · obtain ⟨q, e, -⟩ := all c (List.mem_append_right _ List.mem_cons_self)
          exact (after c q rfl e).trans ((List.pairwise_cons.1 asc2).1 b m' q o e f)
      · rcases List.mem_cons.1 mb with rfl | mb
        · cases record.symm.trans f
          exact (before a ma p' e).le
        · exact cross a ma b mb p' o e f
    · exact l.ascending j
  · rw [(rests j).1] at isOpen
    rw [(rests j).2] at m
    exact l.held j isOpen c m q h

/-- A LIVE record that is on no list is given up: its one WITHDRAW waits (R106). -/
theorem State.PoolLaws.issueWithdraw (l : s.PoolLaws ops x) {p : PoolRecord} (record : s.record r = some p) (live : p.disp = .live)
    (unlisted : ∀ i, r ∉ (s.slot i).provList) : (s.issueWithdraw r).PoolLaws ops x := by
  obtain ⟨frame, records⟩ := s.issueWithdraw_spec r
  have no := l.not_of_live record live
  have self : (s.issueWithdraw r).record r = some { p with disp := .withdrawing } := by rw [records, if_pos rfl, record]; rfl
  have firms : (s.issueWithdraw r).firmsOver ops = s.firmsOver ops := State.firmsOver_congr (by rw [frame])
  have perm : ((s.issueWithdraw r).withdrawsOver ops).Perm (r :: s.withdrawsOver ops) := by
    rw [State.withdrawsOver, frame]
    simp only [List.append_assoc, List.singleton_append]
    exact List.perm_middle
  refine l.of_record r ((s.issueWithdraw_keeps r).form l.canonical) (fun q h => by rw [records, if_neg h]) (by rw [frame]) (fun _ => .inr) ?_
    (fun q m => .inr (firms ▸ m)) (fun q m => List.mem_cons.1 (perm.mem_iff.1 m)) (fun m => ?_) (fun _ => ⟨_, self, .inl rfl⟩)
    (fun _ _ i m => absurd m (unlisted i)) (fun q e w m => ⟨_, self, ?_⟩) (fun q e d => ?_) (fun o m k => absurd k (State.not_of_kind no m))
    (fun o m a w rest h => ?_) (fun o m w h => ?_)
  · rw [firms]
    exact ((List.Perm.append_left _ perm).trans List.perm_middle).nodup_iff.2 (List.nodup_cons.2 ⟨no, l.once⟩)
  · exact absurd (List.mem_append_left _ (firms ▸ m)) no
  · rw [record] at e; cases e; exact m
  · rw [self] at e; cases e; cases d
  · obtain ⟨⟨q, e, d, -⟩, -⟩ := l.halted_loss o m r a w rest h
    rw [record] at e; cases e; rw [live] at d; cases d
  · obtain ⟨-, q, e, d⟩ := l.halted_walk o m r w h
    rw [record] at e; cases e; rw [live] at d; cases d

/-- Each of a list of such records is given up in turn. -/
theorem State.PoolLaws.issueWithdraws (rs : List Nat) : ∀ {s : State}, s.PoolLaws ops x → rs.Nodup →
    (∀ r ∈ rs, ∃ p, s.record r = some p ∧ p.disp = .live) → (∀ r ∈ rs, ∀ i, r ∉ (s.slot i).provList) → (rs.foldl State.issueWithdraw s).PoolLaws ops x := by
  induction rs with
  | nil => exact fun l _ _ _ => l
  | cons r rs ih =>
    intro s l nodup live unlisted
    obtain ⟨new, nodup⟩ := List.nodup_cons.1 nodup
    obtain ⟨p, record, d⟩ := live r List.mem_cons_self
    obtain ⟨frame, records⟩ := s.issueWithdraw_spec r
    refine ih (l.issueWithdraw record d (unlisted r List.mem_cons_self)) nodup (fun q m => ?_) fun q m i => ?_
    · have ne : q ≠ r := fun e => new (e ▸ m)
      rw [records, if_neg ne]
      exact live q (List.mem_cons_of_mem _ m)
    · rw [frame]; exact unlisted q (List.mem_cons_of_mem _ m) i

/-- A slot that enters ABORTING gives its listed records up, and holds nothing more (R30, R106). -/
theorem State.PoolLaws.enterAborting (l : s.PoolLaws ops x) (i : SlotNo) (reason : AbortReason) : (s.enterAborting i reason).PoolLaws ops x := by
  unfold State.enterAborting
  dsimp only
  split
  · generalize ha : ({ s.abandonLanes i with removals := (s.abandonLanes i).removals ++ (s.slot i).removals i } : State).setSlot i ((s.slot i).aborted reason) = a
    have self : a.slot i = (s.slot i).aborted reason := by rw [← ha]; exact State.slot_setSlot_self _ _ _
    have others : ∀ j, j ≠ i → a.slot j = s.slot j := fun j e => by rw [← ha]; exact State.slot_setSlot_of_ne _ _ _ _ e
    have h : s.Rests a := .of_slot i (by rw [self]; exact .of_closed rfl (List.nil_sublist _)) others (by rw [← ha]; rfl) (by rw [← ha]; rfl) (by rw [← ha]; rfl)
    have given : ((s.slot i).provList.foldl State.issueWithdraw a).PoolLaws ops x := by
      refine (h.poolLaws l).issueWithdraws _ (l.listed_once i) (fun r m => ?_) fun r m j => ?_
      · obtain ⟨p, e, -, live⟩ := l.listed i r m
        exact ⟨p, by rw [State.record, h.pool]; exact e, live⟩
      · by_cases e : j = i
        · subst e; rw [self]; exact List.not_mem_nil
        · rw [others j e]
          intro n
          obtain ⟨p, e1, owner1, -⟩ := l.listed i r m
          obtain ⟨q, e2, owner2, -⟩ := l.listed j r n
          rw [e1] at e2; cases e2
          exact e (owner2.symm.trans owner1)
    exact (((State.post_rests _ _).trans (State.writeConsumed_rests _ i)).trans ((State.post_rests _ _).trans (State.tryAborted_rests _ i))).poolLaws given
  · exact l

/-- A record that leaves its owner's list is asked to be firmed (R102). -/
theorem State.PoolLaws.issueFirm (l : s.PoolLaws ops x) (i : SlotNo) (m : r ∈ (s.slot i).provList) : (s.issueFirm i r).PoolLaws ops x := by
  obtain ⟨p, record, owner, live⟩ := l.listed i r m
  have h : s.Rests (s.editSlot i fun c => { c.dropProv r with inflight := c.inflight + 1 }) :=
    s.editSlot_rests ⟨List.filter_sublist, fun isOpen c m r h => ⟨isOpen, c, m, rfl, h⟩⟩
  unfold State.issueFirm
  dsimp only
  generalize ha : (s.editSlot i fun c => { c.dropProv r with inflight := c.inflight + 1 }) = a at h ⊢
  have l1 := h.poolLaws l
  have record : a.record r = some p := by rw [← ha]; exact record
  have unlisted (j : SlotNo) : r ∉ (a.slot j).provList := by
    intro n
    obtain ⟨q, e, own, -⟩ := l1.listed j r n
    rw [record] at e; cases e
    have : j = i := own.symm.trans owner
    subst this
    rw [← ha, State.slot_editSlot_self] at n
    simp [Slot.dropProv] at n
  have no := l1.not_of_live record live
  have records (q : Nat) := a.record_editRecord r q fun p => { p with disp := .firming }
  have frame : a.editRecord r (fun p => { p with disp := .firming }) = { a with pool := (a.editRecord r fun p => { p with disp := .firming }).pool } := by
    unfold State.editRecord; split <;> rfl
  generalize hb : a.editRecord r (fun p => { p with disp := .firming }) = b at records frame ⊢
  generalize hu : ({ b with index := { b.index with firming := b.index.firming ++ [r] } } : State) = u
  have recordsU (q : Nat) : u.record q = if q = r then (a.record r).map (fun p => { p with disp := .firming }) else a.record q := by
    rw [← hu]; exact records q
  have self : u.record r = some { p with disp := .firming } := by rw [recordsU, if_pos rfl, record]; rfl
  have withdraws : u.withdrawsOver ops = a.withdrawsOver ops := State.withdrawsOver_congr (by rw [← hu, frame])
  have perm : (u.firmsOver ops).Perm (r :: a.firmsOver ops) := by
    rw [State.firmsOver, ← hu, frame]
    simp only [List.append_assoc, List.singleton_append]
    exact List.perm_middle
  have canonical : u.Canonical := State.canonical_of_same (s := b) (by rw [← hu]) (by rw [← hu]) (hb ▸ (a.editRecord_keeps r _).form l1.canonical)
  refine l1.of_record r canonical (fun q h => by rw [recordsU, if_neg h]) (by rw [← hu, frame]) (fun _ => .inr) ?_ (fun q m => List.mem_cons.1 (perm.mem_iff.1 m))
    (fun q m => .inr (withdraws ▸ m)) (fun _ => ⟨_, self, .inl rfl⟩) (fun m => absurd (List.mem_append_right _ (withdraws ▸ m)) no)
    (fun _ _ i m => absurd m (unlisted i)) (fun q e w m => ⟨_, self, ?_⟩) (fun q e d => ?_) (fun o m k => absurd k (State.not_of_kind no m))
    (fun o m a w rest h => ?_) (fun o m w h => ?_)
  · rw [withdraws]
    exact (perm.append_right _).nodup_iff.2 (List.nodup_cons.2 ⟨no, l1.once⟩)
  · rw [record] at e; cases e; exact m
  · rw [self] at e; cases e; cases d
  · obtain ⟨⟨q, e, d, -⟩, -⟩ := l1.halted_loss o m r a w rest h
    rw [record] at e; cases e; rw [live] at d; cases d
  · obtain ⟨-, q, e, d⟩ := l1.halted_walk o m r w h
    rw [record] at e; cases e; rw [live] at d; cases d

/-- A withdrawn record is taken over: no WITHDRAW names it any more, and it is LIVE under its new owner (R108). -/
theorem State.PoolLaws.revive (l : s.PoolLaws ops x) {p : PoolRecord} (record : s.record r = some p) (withdrawing : p.disp = .withdrawing)
    (free : r ∉ s.firmsOver ops ++ s.withdrawsOver ops) (i : SlotNo) (o : Nat) :
    (s.editRecord r fun q => { q with owner := i, ordinal := o, disp := .live }).PoolLaws ops x := by
  have records (q : Nat) := s.record_editRecord r q fun q => { q with owner := i, ordinal := o, disp := .live }
  have canonical := (s.editRecord_keeps r fun q => { q with owner := i, ordinal := o, disp := .live }).form l.canonical
  have frame : s.editRecord r (fun q => { q with owner := i, ordinal := o, disp := .live }) =
      { s with pool := (s.editRecord r fun q => { q with owner := i, ordinal := o, disp := .live }).pool } := by
    unfold State.editRecord; split <;> rfl
  generalize s.editRecord r _ = u at records canonical frame ⊢
  have self : u.record r = some { p with owner := i, ordinal := o, disp := .live } := by rw [records, if_pos rfl, record]; rfl
  have firms : u.firmsOver ops = s.firmsOver ops := State.firmsOver_congr (by rw [frame])
  have withdraws : u.withdrawsOver ops = s.withdrawsOver ops := State.withdrawsOver_congr (by rw [frame])
  have other (d : Disposition) (ne : d ≠ .withdrawing) (q : PoolRecord) (e : s.record r = some q) : q.disp ≠ d := by
    rw [record] at e; cases e; rw [withdrawing]; exact ne.symm
  refine l.of_record r canonical (fun q h => by rw [records, if_neg h]) (by rw [frame]) (fun _ => .inr) (by rw [firms, withdraws]; exact l.once)
    (fun q m => .inr (firms ▸ m)) (fun q m => .inr (withdraws ▸ m)) (fun m => absurd (List.mem_append_left _ (firms ▸ m)) free)
    (fun m => absurd (List.mem_append_right _ (withdraws ▸ m)) free) (fun q e j m => absurd m (l.unlisted (other .live nofun) j))
    (fun q e w m => ⟨_, self, ?_⟩) (fun q e d => ?_) (fun o m k => absurd k (State.not_of_kind free m)) (fun o m a w rest h => ?_) (fun o m w h => ?_)
  · rw [record] at e; cases e; exact m
  · rw [self] at e; cases e; cases d
  · obtain ⟨⟨q, e, d, -⟩, -⟩ := l.halted_loss o m r a w rest h
    exact absurd d (other .lost nofun q e)
  · exact absurd (.inr (l.halted_walk o m r w h).1) (State.not_of_kind free m)

/-- The record of a destroyed entry is LOST, and its waiters are to be dealt with: no operation has begun on its bucket (R70, R113). -/
theorem State.PoolLaws.lose (l : s.PoolLaws ops none) {p : PoolRecord} (record : s.record r = some p) (kept : p.disp ≠ .lost)
    (unlisted : ∀ i, r ∉ (s.slot i).provList) (idle : ∀ o ∈ ops, o.halt ≠ none → o.bucket ≠ p.bucket) :
    (s.setRecord r { p with disp := .lost }).PoolLaws ops (some r) := by
  have self := s.setRecord_record r { p with disp := .lost }
  refine l.of_record r ((s.setRecord_keeps fun k => s.record_lt record k).form l.canonical) (fun q => s.setRecord_record_of_ne _) rfl (fun q e => by cases e) l.once
    (fun q => .inr) (fun q => .inr) (fun _ => ⟨_, self, .inr rfl⟩) (fun _ => ⟨_, self, .inr rfl⟩) (fun _ _ i m => absurd m (unlisted i))
    (fun q e w m => ⟨_, self, ?_⟩) (fun _ _ _ _ => .inl rfl) (fun o m k q e => ?_) (fun o m a w rest h => ?_) (fun o m w h => ?_)
  · rw [record] at e; cases e; exact m
  · cases self.symm.trans e; exact l.at_bucket o m r p k record
  · obtain ⟨⟨q, e, d, -⟩, -⟩ := l.halted_loss o m r a w rest h
    rw [record] at e; cases e; exact absurd d kept
  · exact absurd (l.at_bucket o m r p (.inr (l.halted_walk o m r w h).1) record) (idle o m (by rw [h]; nofun))

/-- A record with no waiter left, that no operation names, becomes free. -/
theorem State.PoolLaws.freeRecord (l : s.PoolLaws ops x) (y_eq : ∀ q, x = some q → q = r ∨ y = some q) (unlisted : ∀ i, r ∉ (s.slot i).provList)
    (free : r ∉ s.firmsOver ops ++ s.withdrawsOver ops) (served : ∀ p, s.record r = some p → p.waiters = [])
    (idle : ∀ o ∈ ops, ∀ live w rest, o.halt ≠ some (.loss r live w rest)) : (s.freeRecord r).PoolLaws ops y := by
  have gone : (s.freeRecord r).record r = none := tableGet_tableErase_self l.canonical.2.1
  refine l.of_record r ((s.freeRecord_keeps r).form l.canonical) (fun q h => tableGet_tableErase_of_ne h) rfl y_eq l.once (fun q => .inr) (fun q => .inr)
    (fun m => absurd (List.mem_append_left _ m) free) (fun m => absurd (List.mem_append_right _ m) free) (fun _ _ i m => absurd m (unlisted i))
    (fun p e w m => ?_) (fun p e => ?_) (fun o m k => absurd k (State.not_of_kind free m)) (fun o m a w rest h => absurd h (idle o m a w rest))
    (fun o m w h => absurd (.inr (l.halted_walk o m r w h).1) (State.not_of_kind free m))
  · rw [served p e] at m; cases m
  · rw [gone] at e; cases e

end Sys2Proof.Machine

namespace Sys2Proof.Machine

set_option Elab.async false

variable {s t : State} {ops : List Op} {x : Option Nat} {r : Nat} {p : PoolRecord}

/-! ### Waiters that leave a list keep the laws of the Pool (R98, R100, R113) -/

/-- A slot that is not open does not open when waiters leave a list. -/
theorem Slot.served_of_closed {c : Slot} {j : SlotNo} {l : List (Waiter × Option ChunkCond)} (h : c.state.isOpen = false) :
    (c.served j l).state.isOpen = false := by
  by_cases aborting : c.state = .aborting
  · by_cases own : ∃ y ∈ l, y.1.slot = j
    · rw [Slot.served_of_aborting aborting own]; split <;> rfl
    · rw [Slot.served_of_none fun y m e => own ⟨y, m, e⟩]; exact h
  · rw [(Slot.served_state h aborting).1]; exact h

/-- A chunk that is HELD after waiters have left with outcomes was HELD before and is none of them. -/
theorem held_of_condServed {j : SlotNo} {o q : Nat} {l : List (Waiter × Option ChunkCond)} (resolved : ∀ y ∈ l, y.1.slot = j → ∃ v n k, y.2 = some (.resolved v n k))
    {k : ChunkCond} (h : condServed j o l k = .held q) : k = .held q ∧ ∀ y ∈ l, y.1 ≠ { slot := j, ordinal := o } := by
  induction l generalizing k with
  | nil => exact ⟨h, fun _ m => absurd m List.not_mem_nil⟩
  | cons y l ih =>
    obtain ⟨first, rest⟩ := List.forall_mem_cons.1 resolved
    obtain ⟨held, others⟩ := ih rest (k := if y.1 = { slot := j, ordinal := o } then y.2.getD k else k) h
    split at held
    · rename_i e
      obtain ⟨v, n, k, e⟩ := first (by rw [e])
      rw [e] at held; cases held
    · rename_i ne
      exact ⟨held, List.forall_mem_cons.2 ⟨ne, others⟩⟩

/-- The waiters of open streams leave the list with outcomes for their chunks, and the others without. -/
theorem State.PoolLaws.serves (l : s.PoolLaws ops x) {ws : List (Waiter × Option ChunkCond)} (h : s.Serves t r ws) (canonical : t.Canonical)
    (record : s.record r = some p) (resolved : ∀ y ∈ ws, (s.slot y.1.slot).state.isOpen = true → ∃ v n k, y.2 = some (.resolved v n k)) :
    t.PoolLaws ops x := by
  have self := h.record p record
  have firms : t.firmsOver ops = s.firmsOver ops := State.firmsOver_congr (by rw [h.index_eq])
  have withdraws : t.withdrawsOver ops = s.withdrawsOver ops := State.withdrawsOver_congr (by rw [h.index_eq])
  have provList (j : SlotNo) : (t.slot j).provList = (s.slot j).provList := (h.kept j).2.2.2.2
  have back {q : Nat} {o : PoolRecord} (e : t.record q = some o) : ∃ ws, s.record q = some { o with waiters := ws } ∧ o.waiters ⊆ ws := by
    by_cases k : q = r
    · subst k
      cases self.symm.trans e
      exact ⟨p.waiters, record, fun v m => (List.mem_filter.1 m).1⟩
    · rw [h.records q k] at e; exact ⟨o.waiters, e, fun _ => id⟩
  have forth {q : Nat} {o : PoolRecord} (e : s.record q = some o) : ∃ ws, t.record q = some { o with waiters := ws } := by
    by_cases k : q = r
    · subst k
      cases record.symm.trans e
      exact ⟨_, self⟩
    · exact ⟨o.waiters, (h.records q k).trans e⟩
  refine ⟨canonical, by rw [firms, withdraws]; exact l.once, fun q m => ?_, fun q m => ?_, fun i q m => ?_, fun i => by rw [provList]; exact l.listed_once i,
    fun i => ?_, fun i isOpen c m q held => ?_, fun q o e d w => ?_, l.begun_first, fun o m q n k e => ?_, fun o m q live w rest e => ?_, fun o m q w e => ?_⟩
  · obtain ⟨o, e, d⟩ := l.firming q (firms ▸ m)
    obtain ⟨ws, e⟩ := forth e
    exact ⟨_, e, d⟩
  · obtain ⟨o, e, d⟩ := l.withdrawing q (withdraws ▸ m)
    obtain ⟨ws, e⟩ := forth e
    exact ⟨_, e, d⟩
  · obtain ⟨o, e, d⟩ := l.listed i q (provList i ▸ m)
    obtain ⟨ws, e⟩ := forth e
    exact ⟨_, e, d⟩
  · rw [provList]
    refine (l.ascending i).imp fun {a b} asc m n e f => ?_
    obtain ⟨vs, e, -⟩ := back e
    obtain ⟨us, f, -⟩ := back f
    exact asc { m with waiters := vs } { n with waiters := us } e f
  · have opened : (s.slot i).state.isOpen = true := by
      by_contra closed
      have := Slot.served_of_closed (c := (s.slot i).core) (j := i) (l := ws) (Bool.eq_false_iff.2 closed)
      rw [← h.core i] at this
      rw [show (t.slot i).state.isOpen = false from this] at isOpen
      cases isOpen
    rw [(h.of_open opened).2] at m
    obtain ⟨d, mem, rfl⟩ := List.mem_map.1 m
    obtain ⟨heldBefore, other⟩ := held_of_condServed (fun y n e => resolved y n (by rw [e]; exact opened)) held
    obtain ⟨o, e, w⟩ := l.held i opened d mem q heldBefore
    by_cases k : q = r
    · subst k
      cases record.symm.trans e
      refine ⟨_, self, List.mem_filter.2 ⟨w, ?_⟩⟩
      simp only [Bool.not_eq_true', List.contains_eq_mem, decide_eq_false_iff_not]
      intro n
      obtain ⟨y, n, e⟩ := List.mem_map.1 n
      exact other y n e
    · rw [h.records q k]; exact ⟨o, e, w⟩
  · obtain ⟨ws, e, sub⟩ := back e
    exact l.lost_waiters q _ e d fun none => w (List.eq_nil_iff_forall_not_mem.2 fun v m => absurd (sub m) (by rw [show ws = [] from none]; exact List.not_mem_nil))
  · obtain ⟨ws, e, -⟩ := back e
    exact l.at_bucket o m q { n with waiters := ws } k e
  · obtain ⟨⟨n, e, d⟩, free⟩ := l.halted_loss o m q live w rest e
    obtain ⟨ws, e⟩ := forth e
    exact ⟨⟨_, e, d⟩, by rw [firms, withdraws]; exact free⟩
  · obtain ⟨k, n, e, d⟩ := l.halted_walk o m q w e
    obtain ⟨ws, e⟩ := forth e
    exact ⟨k, _, e, d⟩

/-- A waiter that leaves the list alone. -/
def PoolRecord.without (p : PoolRecord) (w : Waiter) : PoolRecord := { p with waiters := p.waiters.filter fun v => !([w].contains v) }

theorem PoolRecord.mem_without {w v : Waiter} : v ∈ (p.without w).waiters ↔ v ∈ p.waiters ∧ v ≠ w := by
  simp [PoolRecord.without, List.mem_filter]

/-- The laws of the Pool are kept, over any operations, and no FIRM or WITHDRAW is asked of the record `r`. -/
structure State.Serving (s t : State) (r : Nat) : Prop where
  laws : ∀ ops x, s.PoolLaws ops x → t.PoolLaws ops x
  asked : ∀ ops, r ∈ t.firmsOver ops ++ t.withdrawsOver ops → r ∈ s.firmsOver ops ++ s.withdrawsOver ops

theorem State.Serving.refl (s : State) (r : Nat) : s.Serving s r := ⟨fun _ _ l => l, fun _ m => m⟩

theorem State.Serving.trans {u : State} (h : s.Serving t r) (k : t.Serving u r) : s.Serving u r :=
  ⟨fun ops x l => k.laws ops x (h.laws ops x l), fun ops m => h.asked ops (k.asked ops m)⟩

theorem State.Serving.of_sources (laws : ∀ ops x, s.PoolLaws ops x → t.PoolLaws ops x) (firming : t.index.firming = s.index.firming)
    (withdrawal : t.index.withdrawal = s.index.withdrawal) : s.Serving t r :=
  ⟨laws, fun ops m => by rw [State.firmsOver_congr firming, State.withdrawsOver_congr withdrawal] at m; exact m⟩

/-- What a waiter's leaving keeps, and the record it leaves. -/
structure State.Leaves (s t : State) (r : Nat) (p : PoolRecord) (w : Waiter) : Prop where
  record : t.record r = some (p.without w)
  serving : s.Serving t r

theorem State.Serves.leaves {w : Waiter} {k : Option ChunkCond} (h : s.Serves t r [(w, k)]) (keeps : s.Keeps t) (record : s.record r = some p)
    (resolved : (s.slot w.slot).state.isOpen = true → ∃ v n c, k = some (.resolved v n c)) : s.Leaves t r p w :=
  ⟨h.record p record, .of_sources
    (fun _ _ l => l.serves h (keeps.form l.canonical) record fun y m o => by rw [List.mem_singleton.1 m] at o ⊢; exact resolved o)
    (by rw [h.index_eq]) (by rw [h.index_eq])⟩

theorem State.discardWaiter_leaves {w : Waiter} (record : s.record r = some p) (closed : (s.slot w.slot).state.isOpen = false) :
    s.Leaves (s.discardWaiter r w) r p w :=
  (s.discardWaiter_serves r w).leaves (s.discardWaiter_keeps r w) record fun o => by rw [closed] at o; cases o

theorem State.resolveWaiter_leaves (s : State) {w : Waiter} (record : s.record r = some p) (v : Verdict) (n : Nat) (k : Cause) :
    s.Leaves (s.resolveWaiter r w v n k) r p w :=
  (s.resolveWaiter_serves r w v n k).leaves (s.resolveWaiter_keeps r w v n k) record fun _ => ⟨v, n, k, rfl⟩

theorem State.enterAborting_closed (s : State) (i : SlotNo) (reason : AbortReason) : ((s.enterAborting i reason).slot i).state.isOpen = false := by
  by_cases live : (s.slot i).state.isLive = true
  · rw [(s.enterAborting_aborts i reason live).state_eq]; split <;> rfl
  · rw [State.enterAborting]
    dsimp only
    rw [if_neg live]
    exact Bool.eq_false_iff.2 fun h => live (SlotState.isLive_of_isOpen h)

/-- A record that is not LIVE is not given up at an abort. -/
theorem State.PoolLaws.enterAborting_of_dead (l : s.PoolLaws ops x) (record : s.record r = some p) (dead : p.disp ≠ .live) (i : SlotNo)
    (reason : AbortReason) : (s.enterAborting i reason).record r = some p ∧ s.Serving (s.enterAborting i reason) r := by
  have laws (ops x) (l : s.PoolLaws ops x) := l.enterAborting i reason
  by_cases live : (s.slot i).state.isLive = true
  · have unlisted := l.unlisted (r := r) (fun q e => by cases record.symm.trans e; exact dead) i
    have k := s.enterAborting_aborts i reason live
    refine ⟨by rw [k.records, if_neg unlisted, record], laws, fun ops m => ?_⟩
    rw [State.firmsOver, State.withdrawsOver, k.issued.1] at m
    simp only [List.mem_append, State.firmsOver, State.withdrawsOver] at m ⊢
    tauto
  · have same : s.enterAborting i reason = s := by rw [State.enterAborting]; dsimp only; rw [if_neg live]
    rw [same]; exact ⟨record, .refl s r⟩

theorem State.PoolLaws.waiterExhausted_leaves (l : s.PoolLaws ops x) (record : s.record r = some p) (dead : p.disp ≠ .live) (w : Waiter) :
    s.Leaves (s.waiterExhausted r w) r p w := by
  obtain ⟨recordA, serving⟩ := l.enterAborting_of_dead record dead w.slot .numbers
  have k := State.discardWaiter_leaves recordA (s.enterAborting_closed w.slot .numbers)
  exact ⟨k.record, serving.trans k.serving⟩

/-! ### The waiters of a lost entry (R113) -/

theorem State.allocate_frame (s : State) :
    s.allocate.2 = { s with index := { s.index with counter := s.allocate.2.index.counter, writes := s.allocate.2.index.writes } } := by
  unfold State.allocate
  dsimp only
  split
  · rfl
  · split
    · split <;> rfl
    · rfl

theorem State.allocate_poolLaws (l : s.PoolLaws ops x) : s.allocate.2.PoolLaws ops x :=
  l.of_rests (s.allocate_keeps.form l.canonical) (by rw [s.allocate_frame]) (by rw [s.allocate_frame]) (by rw [s.allocate_frame])
    fun i => by rw [s.allocate_frame]; exact .refl _

theorem State.allocate_serving (s : State) (r : Nat) : s.Serving s.allocate.2 r :=
  .of_sources (fun _ _ => State.allocate_poolLaws) (by rw [s.allocate_frame]) (by rw [s.allocate_frame])

theorem State.allocate_record (s : State) (r : Nat) : s.allocate.2.record r = s.record r := by rw [s.allocate_frame]; rfl

theorem State.PoolLaws.lossGive_leaves (l : s.PoolLaws ops x) (record : s.record r = some p) (dead : p.disp ≠ .live) (w : Waiter) {a : Alloc} (given : a ≠ .wait) :
    s.Leaves (s.lossGive r w a) r p w := by
  cases a with
  | wait => exact absurd rfl given
  | exhausted => exact l.waiterExhausted_leaves record dead w
  | number n =>
    unfold State.lossGive
    dsimp only
    split
    · exact s.resolveWaiter_leaves record _ _ _
    · rename_i closed
      exact State.discardWaiter_leaves record (Bool.eq_false_iff.2 closed)

/-- The waiters of a list that are dealt with leave it; where the list is gone through, none of them stands on it. -/
theorem State.PoolLaws.lossWaiters (ws : List Waiter) : ∀ {s : State} {p : PoolRecord}, s.PoolLaws ops x → s.record r = some p → p.disp ≠ .live →
    s.Serving (s.lossWaiters r ws).1 r ∧
    ∃ vs, (s.lossWaiters r ws).1.record r = some { p with waiters := vs } ∧ ((s.lossWaiters r ws).2 = none → ∀ v ∈ vs, v ∈ p.waiters ∧ v ∉ ws) := by
  induction ws with
  | nil => exact fun {s p} _ record _ => ⟨.refl s r, p.waiters, record, fun _ v m => ⟨m, List.not_mem_nil⟩⟩
  | cons w ws ih =>
    intro s p l record dead
    have recordA := (s.allocate_record r).trans record
    have servingA := s.allocate_serving r
    unfold State.lossWaiters
    split
    · rename_i u e
      rw [e] at recordA servingA
      exact ⟨servingA, p.waiters, recordA, nofun⟩
    · rename_i a u given e
      rw [e] at recordA servingA
      have lA := servingA.laws ops x l
      have k := lA.lossGive_leaves recordA dead w fun h => given h
      obtain ⟨serving, vs, recordT, gone⟩ := ih (k.serving.laws ops x lA) k.record dead
      refine ⟨(servingA.trans k.serving).trans serving, vs, recordT, fun none v m => ?_⟩
      obtain ⟨stood, other⟩ := gone none v m
      obtain ⟨stood, ne⟩ := PoolRecord.mem_without.1 stood
      exact ⟨stood, by rw [List.mem_cons, not_or]; exact ⟨ne, other⟩⟩

/-- The waiters of ABORTING streams are discarded, and the record's other fields stand. -/
theorem State.discardAll_serving (ws : List Waiter) : ∀ {s : State} {p : PoolRecord}, s.record r = some p →
    let t := ws.foldl (fun s w => if (s.slot w.slot).state = .aborting then s.discardWaiter r w else s) s
    s.Serving t r ∧ ∃ vs, t.record r = some { p with waiters := vs } := by
  induction ws with
  | nil => exact fun {s p} record => ⟨.refl s r, p.waiters, record⟩
  | cons w ws ih =>
    intro s p record
    rw [List.foldl_cons]
    split
    · rename_i aborting
      have k := State.discardWaiter_leaves (w := w) record (by rw [aborting]; rfl)
      obtain ⟨serving, vs, recordT⟩ := ih k.record
      exact ⟨k.serving.trans serving, vs, recordT⟩
    · exact ih record

theorem State.discardAborting_serving (record : s.record r = some p) :
    s.Serving (s.discardAborting r) r ∧ ∃ vs, (s.discardAborting r).record r = some { p with waiters := vs } :=
  State.discardAll_serving (s.waitersOf r) record

/-- What is listed in canonical form is read. -/
theorem tableGet_of_mem {α : Type} {l : Table α} {n : Nat} {a : α} (wf : tableWf l) (m : (n, a) ∈ l) : tableGet l n = some a := by
  induction l with
  | nil => cases m
  | cons b l ih =>
    obtain ⟨k, c⟩ := b
    obtain ⟨low, wf⟩ := List.pairwise_cons.1 wf
    rcases List.mem_cons.1 m with e | m
    · cases e; simp [tableGet]
    · have ne : k ≠ n := (low _ m).ne
      simp [tableGet, ne, ih wf m]

/-- The record found at a way is in use, not LOST, and of that way's bucket. -/
theorem State.record_of_recordAt {b : Nat} {w : WayNo} (canonical : s.Canonical) (h : s.recordAt b w = some (r, p)) :
    s.record r = some p ∧ p.disp ≠ .lost ∧ p.bucket = b ∧ p.way = w := by
  have found := List.find?_some h
  simp only [Bool.and_eq_true, beq_iff_eq, bne_iff_ne, ne_eq] at found
  exact ⟨tableGet_of_mem canonical.2.1 (List.mem_of_find?_eq_some h), found.2, found.1.1, found.1.2⟩

/-- No operation halted at the loss of a record stands where none has begun on its bucket. -/
theorem State.PoolLaws.no_loss (l : s.PoolLaws ops x) (record : s.record r = some p) (idle : ∀ o ∈ ops, o.halt ≠ none → o.bucket ≠ p.bucket) :
    ∀ o ∈ ops, ∀ live w rest, o.halt ≠ some (.loss r live w rest) := by
  intro o m live w rest h
  obtain ⟨⟨q, e, -, bucket⟩, -⟩ := l.halted_loss o m r live w rest h
  cases record.symm.trans e
  exact idle o m (by rw [h]; nofun) bucket.symm

/-- The record of a destroyed entry leaves its owner's list where it was LIVE, and is LOST (R113). -/
theorem State.PoolLaws.loseRecord (l : s.PoolLaws ops none) (record : s.record r = some p) (kept : p.disp ≠ .lost)
    (idle : ∀ o ∈ ops, o.halt ≠ none → o.bucket ≠ p.bucket) :
    (s.loseRecord r p).PoolLaws ops (some r) ∧ (s.loseRecord r p).record r = some { p with disp := .lost } ∧
    (s.loseRecord r p).firmsOver ops = s.firmsOver ops ∧ (s.loseRecord r p).withdrawsOver ops = s.withdrawsOver ops := by
  unfold State.loseRecord
  dsimp only
  refine ⟨?_, State.setRecord_record _ _ _, ?_⟩
  · split
    · have h : s.Rests (s.editSlot p.owner fun c => c.dropProv r) := s.editSlot_rests ⟨List.filter_sublist, fun o c m q e => ⟨o, c, m, rfl, e⟩⟩
      refine (h.poolLaws l).lose record kept (fun i m => ?_) idle
      obtain ⟨q, e, owner, -⟩ := (h.poolLaws l).listed i r m
      cases record.symm.trans e
      subst owner
      rw [State.slot_editSlot_self] at m
      simp [Slot.dropProv] at m
    · rename_i dead
      exact l.lose record kept (l.unlisted fun q e => by cases record.symm.trans e; exact dead) idle
  · split <;> exact ⟨rfl, rfl⟩

/-! ### The check of a bucket's ways (R83, R84, R113) -/

/-- What the check of a bucket's ways comes to: the laws hold, or it halts at the loss of a record of the bucket, LOST and with no FIRM or WITHDRAW if it was LIVE. -/
def State.Checked (ops : List Op) (b : Nat) : State × Option Halt → Prop
  | (t, none) => t.PoolLaws ops none
  | (t, some h) => ∃ r live w rest p, h = .loss r live w rest ∧ t.PoolLaws ops (some r) ∧ t.record r = some p ∧ p.disp = .lost ∧ p.bucket = b ∧
      (live = true → r ∉ t.firmsOver ops ++ t.withdrawsOver ops)

/-- A record that is LOST keeps the FIRM or WITHDRAW it had or has none: no law gives it a new one. -/
theorem State.endLoss_poolLaws {live : Bool} (l : s.PoolLaws ops (some r)) (record : s.record r = some p) (lost : p.disp = .lost) (served : p.waiters = [])
    (idle : ∀ o ∈ ops, o.halt ≠ none → o.bucket ≠ p.bucket) (free : live = true → r ∉ s.firmsOver ops ++ s.withdrawsOver ops) :
    (s.endLoss r live).PoolLaws ops none := by
  have unlisted := l.unlisted (r := r) fun q e => by cases record.symm.trans e; rw [lost]; nofun
  unfold State.endLoss
  split
  · rename_i h
    exact l.freeRecord (fun q e => .inl (Option.some.inj e).symm) unlisted (free h) (fun q e => by cases record.symm.trans e; exact served) (l.no_loss record idle)
  · refine { l with lost_waiters := fun q o e d w => .inr ((l.lost_waiters q o e d w).resolve_left fun h => ?_) }
    cases h
    cases record.symm.trans e
    exact w served

theorem State.checkWays_poolLaws (b : Nat) (ws : List (WayNo × Ecc)) (idle : ∀ o ∈ ops, o.halt ≠ none → o.bucket ≠ b) :
    ∀ {s : State}, s.PoolLaws ops none → State.Checked ops b (s.checkWays b ws) := by
  induction ws with
  | nil => exact fun l => l
  | cons a ws ih =>
    intro s l
    obtain ⟨w, e⟩ := a
    unfold State.checkWays
    cases e with
    | clean => exact ih l
    | correctable => exact ih ((s.editStats_rests _).poolLaws l)
    | uncorrectable =>
      have h := s.destroyWay_rests b w
      have l1 := h.poolLaws l
      dsimp only
      split
      · rename_i r p _ found
        obtain ⟨record, kept, bucket, -⟩ := State.record_of_recordAt l.canonical found
        have record : (s.destroyWay b w).record r = some p := by rw [State.record, h.pool]; exact record
        have idle' : ∀ o ∈ ops, o.halt ≠ none → o.bucket ≠ p.bucket := by rw [bucket]; exact idle
        obtain ⟨l2, record, firms, withdraws⟩ := l1.loseRecord record kept idle'
        have free (live : (p.disp == .live) = true) : r ∉ ((s.destroyWay b w).loseRecord r p).firmsOver ops ++
            ((s.destroyWay b w).loseRecord r p).withdrawsOver ops := by
          rw [firms, withdraws]
          exact l1.not_of_live ‹_› (beq_iff_eq.1 live)
        generalize (s.destroyWay b w).loseRecord r p = u at l2 record free ⊢
        obtain ⟨serving1, vs, record1⟩ := State.discardAborting_serving record
        have l3 := serving1.laws ops _ l2
        have waiters : (u.discardAborting r).waitersOf r = vs := by rw [State.waitersOf, record1]
        obtain ⟨serving2, vs2, record2, served⟩ := l3.lossWaiters ((u.discardAborting r).waitersOf r) record1 nofun
        have l4 := serving2.laws ops _ l3
        have free4 (live : (p.disp == .live) = true) := fun m => free live ((serving1.trans serving2).asked ops m)
        split
        · rename_i v e
          rw [e] at record2 served l4 free4
          have none : vs2 = [] := List.eq_nil_iff_forall_not_mem.2 fun w m => (served rfl w m).2 (by rw [waiters]; exact (served rfl w m).1)
          exact ih (State.endLoss_poolLaws l4 record2 rfl none idle' free4)
        · rename_i v w e
          rw [e] at record2 l4 free4
          exact ⟨r, _, w, ws, _, rfl, l4, record2, rfl, bucket, free4⟩
      · exact ih l1

end Sys2Proof.Machine

namespace Sys2Proof.Machine

set_option Elab.async false

variable {s t : State} {ops : List Op} {x : Option Nat} {r : Nat} {p : PoolRecord}

/-! ### LOOKUP_INSERT keeps the laws of the Pool (R75, R94, R95, R99) -/

/-- The lookup's chunk is HELD on a record that is not LOST, and waits on its list (R99). -/
theorem State.PoolLaws.hold (l : s.PoolLaws ops x) (record : s.record r = some p) (kept : p.disp ≠ .lost) (i : SlotNo) (o : Nat) (f : Slot → SlotStats) :
    ((s.editRecord r fun p => { p with waiters := p.waiters ++ [{ slot := i, ordinal := o }] }).editSlot i fun c =>
      { c with pending := setCond o (.held r) c.pending, stats := f c }).PoolLaws ops x := by
  have records (q : Nat) := s.record_editRecord r q fun p => { p with waiters := p.waiters ++ [{ slot := i, ordinal := o }] }
  have canonical := (s.editRecord_keeps r fun p => { p with waiters := p.waiters ++ [{ slot := i, ordinal := o }] }).form l.canonical
  obtain ⟨pool, frame⟩ := s.editRecord_eq r fun p => { p with waiters := p.waiters ++ [{ slot := i, ordinal := o }] }
  generalize s.editRecord r _ = u at records canonical frame ⊢
  have self : u.record r = some { p with waiters := p.waiters ++ [{ slot := i, ordinal := o }] } := by rw [records, if_pos rfl, record]; rfl
  have firms : u.firmsOver ops = s.firmsOver ops := State.firmsOver_congr (by rw [frame])
  have withdraws : u.withdrawsOver ops = s.withdrawsOver ops := State.withdrawsOver_congr (by rw [frame])
  have l1 : u.PoolLaws ops x := by
    refine l.of_record r canonical (fun q h => by rw [records, if_neg h]) (by rw [frame]) (fun _ => .inr) (by rw [firms, withdraws]; exact l.once)
      (fun q m => .inr (firms ▸ m)) (fun q m => .inr (withdraws ▸ m)) (fun m => ?_) (fun m => ?_) (fun q e _ _ => ?_) (fun q e w m => ⟨_, self, ?_⟩)
      (fun q e d => ?_) (fun a m k q e => ?_) (fun a m live w rest h => ?_) (fun a m w h => ?_)
    · obtain ⟨q, e, d⟩ := l.firming r (firms ▸ m)
      cases record.symm.trans e; exact ⟨_, self, d⟩
    · obtain ⟨q, e, d⟩ := l.withdrawing r (withdraws ▸ m)
      cases record.symm.trans e; exact ⟨_, self, d⟩
    · cases record.symm.trans e; exact ⟨_, self, rfl, rfl, rfl⟩
    · cases record.symm.trans e; exact List.mem_append_left _ m
    · cases self.symm.trans e; exact absurd d kept
    · cases self.symm.trans e; exact l.at_bucket a m r p k record
    · obtain ⟨⟨q, e, d, -⟩, -⟩ := l.halted_loss a m r live w rest h
      cases record.symm.trans e; exact absurd d kept
    · obtain ⟨k, q, e, d⟩ := l.halted_walk a m r w h
      cases record.symm.trans e; exact ⟨k, _, self, d⟩
  refine { l1 with listed := fun j q m => ?_, listed_once := fun j => ?_, ascending := fun j => ?_, held := fun j isOpen c m q h => ?_ }
  · by_cases e : j = i
    · subst e; rw [State.slot_editSlot_self] at m; exact l1.listed j q m
    · rw [State.slot_editSlot_of_ne _ _ _ _ e] at m; exact l1.listed j q m
  · by_cases e : j = i
    · subst e; rw [State.slot_editSlot_self]; exact l1.listed_once j
    · rw [State.slot_editSlot_of_ne _ _ _ _ e]; exact l1.listed_once j
  · by_cases e : j = i
    · subst e; rw [State.slot_editSlot_self]; exact l1.ascending j
    · rw [State.slot_editSlot_of_ne _ _ _ _ e]; exact l1.ascending j
  · by_cases e : j = i
    · subst e
      rw [State.slot_editSlot_self] at isOpen m
      obtain ⟨d, mem, rfl⟩ := List.mem_map.1 m
      split at h
      · rename_i ordinal
        cases h
        exact ⟨_, self, List.mem_append_right _ (by simp [ordinal])⟩
      · rename_i other
        rw [if_neg other]
        exact l1.held j isOpen d mem q h
    · rw [State.slot_editSlot_of_ne _ _ _ _ e] at isOpen m; exact l1.held j isOpen c m q h

/-- A record granted for an insertion: it stands on no list until the lookup completes (R94). -/
theorem State.PoolLaws.grant (l : s.PoolLaws ops x) {k : Lookup} {b : Nat} {w : WayNo} {u : State} (h : s.grant k b w = some (r, u)) :
    u.PoolLaws ops x ∧ (∃ p, u.record r = some p ∧ p.owner = k.slot ∧ p.ordinal = k.ordinal ∧ p.disp = .live) ∧ ∀ i, r ∉ (u.slot i).provList := by
  unfold State.grant at h
  dsimp only at h
  split at h <;> cases h
  rename_i room
  have free : s.record (leastFree s.pool 0) = none := (tableGet_leastFree l.canonical.2.1 fun _ _ => Nat.zero_le _).1
  have unlisted := l.unlisted (r := leastFree s.pool 0) fun q e => by rw [free] at e; cases e
  have granted := State.setRecord_record s (leastFree s.pool 0)
    { bucket := b, way := w, owner := k.slot, ordinal := k.ordinal, disp := .live, waiters := [] }
  have l1 := l.setRecord_new free room.1 (p := { bucket := b, way := w, owner := k.slot, ordinal := k.ordinal, disp := .live, waiters := [] }) rfl
  generalize hv : s.setRecord (leastFree s.pool 0) { bucket := b, way := w, owner := k.slot, ordinal := k.ordinal, disp := .live, waiters := [] } = v
    at l1 granted ⊢
  refine ⟨(v.editSlot_rests .of_same).poolLaws l1, ⟨_, granted, rfl, rfl, rfl⟩, fun i m => ?_⟩
  refine unlisted i ?_
  by_cases e : i = k.slot
  · subst e; rw [State.slot_editSlot_self, ← hv] at m; exact m
  · rw [State.slot_editSlot_of_ne _ _ _ _ e, ← hv] at m; exact m

/-- A granted record joins its stream's list, or is given up where the stream is not open (R95). -/
theorem State.PoolLaws.recordTaken (l : s.PoolLaws ops x) {k : Lookup} (record : s.record r = some p) (owner : p.owner = k.slot) (ordinal : p.ordinal = k.ordinal)
    (live : p.disp = .live) (unlisted : ∀ i, r ∉ (s.slot i).provList) : (s.recordTaken k r).PoolLaws ops x := by
  unfold State.recordTaken
  split
  · exact l.list k.slot record owner live (unlisted _) (by rw [ordinal]) rfl rfl
  · have h : s.Rests (s.editSlot k.slot fun c => { c with provCount := c.provCount - 1 }) := s.editSlot_rests .of_same
    refine (h.poolLaws l).issueWithdraw record live fun i m => unlisted i ?_
    by_cases e : i = k.slot
    · subst e; rw [State.slot_editSlot_self] at m; exact m
    · rw [State.slot_editSlot_of_ne _ _ _ _ e] at m; exact m

/-- What an outcome needs of the Pool: the record an insertion was granted, or the one a chunk is HELD on. -/
def State.Grants (s : State) (k : Lookup) : LookupOutcome → Prop
  | .new _ r => (∃ p, s.record r = some p ∧ p.owner = k.slot ∧ p.ordinal = k.ordinal ∧ p.disp = .live) ∧ ∀ i, r ∉ (s.slot i).provList
  | .held r => ∃ p, s.record r = some p ∧ p.disp ≠ .lost
  | .dup _ | .conflict _ | .unindexed _ _ | .numbers => True

theorem State.PoolLaws.takeOutcome (l : s.PoolLaws ops x) (k : Lookup) {o : LookupOutcome} (grants : s.Grants k o) : (s.takeOutcome k o).PoolLaws ops x := by
  cases o with
  | dup n => exact (s.takeResolved_rests _ _ _ _).poolLaws l
  | conflict n => exact (s.takeResolved_rests _ _ _ _).poolLaws l
  | unindexed n c => exact (s.takeResolved_rests _ _ _ _).poolLaws l
  | new n r =>
    obtain ⟨⟨p, record, owner, ordinal, live⟩, unlisted⟩ := grants
    exact (State.takeResolved_rests _ _ _ _ _).poolLaws (l.recordTaken record owner ordinal live unlisted)
  | held r =>
    obtain ⟨p, record, kept⟩ := grants
    unfold State.takeOutcome
    dsimp only
    split
    · exact (State.decideState_rests _ _).poolLaws (l.hold record kept k.slot k.ordinal fun c => { c.stats with holds := sat48 (c.stats.holds + 1) })
    · exact (s.dropInflight_rests _).poolLaws l
  | numbers => exact (State.dropInflight_rests _ _).poolLaws (l.enterAborting _ _)

theorem State.Rests.grants (h : s.Rests t) (slots : t.slots = s.slots) {k : Lookup} {o : LookupOutcome} (grants : s.Grants k o) : t.Grants k o := by
  have record (q : Nat) : t.record q = s.record q := by rw [State.record, h.pool, State.record]
  have slot (i : SlotNo) : t.slot i = s.slot i := by rw [State.slot, slots, State.slot]
  cases o with
  | new n r => unfold State.Grants at *; simpa only [record, slot] using grants
  | held r => unfold State.Grants at *; simpa only [record] using grants
  | dup n => trivial
  | conflict n => trivial
  | unindexed n c => trivial
  | numbers => trivial

theorem State.PoolLaws.endLookup (l : s.PoolLaws ops x) (k : Lookup) {o : LookupOutcome} (grants : s.Grants k o) : (s.endLookup k o).PoolLaws ops x := by
  have h := s.editStats_rests o.count
  have l1 := h.poolLaws l
  have grants := h.grants rfl grants
  unfold State.endLookup
  generalize s.editStats o.count = t at l1 grants
  cases o with
  | conflict n => exact (t.setError_rests.poolLaws l1).takeOutcome k trivial
  | dup n => exact l1.takeOutcome k grants
  | unindexed n c => exact l1.takeOutcome k grants
  | new n r => exact l1.takeOutcome k grants
  | held r => exact l1.takeOutcome k grants
  | numbers => exact l1.takeOutcome k grants

theorem State.addOccupancy_rests (s : State) : s.Rests s.addOccupancy := .of_same

theorem State.PoolLaws.lookupNumber (l : s.PoolLaws ops x) (k : Lookup) (b : Nat) (u : NumberUse) (a : Alloc) : (s.lookupNumber k b u a).PoolLaws ops x := by
  unfold State.lookupNumber
  split
  · exact l
  · exact l.endLookup k trivial
  · split
    · exact l.endLookup k trivial
    · exact l.endLookup k trivial
    · exact l.endLookup k trivial
    · split
      · exact l.endLookup k trivial
      · split
        · exact l.endLookup k trivial
        · rename_i granted
          obtain ⟨l1, record, unlisted⟩ := l.grant granted
          exact State.PoolLaws.endLookup ((State.addOccupancy_rests _).poolLaws ((State.writeEntry_rests _ _ _ _).poolLaws l1)) k ⟨record, unlisted⟩

theorem State.PoolLaws.runLookup (l : s.PoolLaws ops x) (k : Lookup) (b : Nat) : (s.runLookup k b).1.PoolLaws ops x := by
  unfold State.runLookup
  split
  · rename_i o w e decided
    refine ((s.writeEntry_rests _ _ _).poolLaws l).endLookup k ((s.writeEntry_rests _ _ _).grants rfl ?_)
    unfold State.decideLookup at decided
    split at decided
    · split at decided
      · cases decided
      · split at decided
        · cases decided; trivial
        · split at decided
          · rename_i found
            obtain ⟨record, kept, -⟩ := State.record_of_recordAt l.canonical found
            split at decided <;> cases decided
            · trivial
            · exact ⟨_, record, kept⟩
          · cases decided; trivial
    · split at decided
      · cases decided
      · split at decided <;> cases decided
  · have h := State.allocate_poolLaws l
    split
    · rename_i e; rw [e] at h; exact h
    · rename_i e; rw [e] at h; exact h.lookupNumber k b _ _

/-! ### FIRM and WITHDRAW keep the laws of the Pool (R103, R107 to R111) -/

/-- The waiters of a record leave it one after another with an outcome. -/
theorem State.resolveWaiters_poolLaws (l : s.PoolLaws ops x) (record : s.record r = some p) (ws : List Waiter) (v : Verdict) (n : Nat) (k : Cause) :
    (ws.foldl (fun s w => s.resolveWaiter r w v n k) s).PoolLaws ops x :=
  l.serves (s.resolveWaiters_serves r ws v n k) ((s.resolveAll_keeps r n v k ws).form l.canonical) record fun y m _ => by
    obtain ⟨w, -, rfl⟩ := List.mem_map.1 m
    exact ⟨v, n, k, rfl⟩

/-- A FIRM or WITHDRAW in hand: the record it names, of its bucket, where no operation that stands has begun or names the record (R70, R103, R107). -/
structure State.InHand (s : State) (ops : List Op) (r : Nat) (p : PoolRecord) : Prop where
  record : s.record r = some p
  free : r ∉ s.firmsOver ops ++ s.withdrawsOver ops
  idle : ∀ o ∈ ops, o.halt ≠ none → o.bucket ≠ p.bucket

/-- A LOST record with no operation at its loss has no waiters, and becomes free. -/
theorem State.PoolLaws.freeLost (l : s.PoolLaws ops none) (hand : s.InHand ops r p) (lost : p.disp = .lost) : (s.freeRecord r).PoolLaws ops none := by
  refine l.freeRecord (fun _ => .inr) (l.unlisted fun q e => by cases hand.record.symm.trans e; rw [lost]; nofun) hand.free (fun q e => ?_)
    (l.no_loss hand.record hand.idle)
  cases hand.record.symm.trans e
  by_contra waits
  rcases l.lost_waiters r p hand.record lost waits with h | ⟨o, m, live, w, rest, h⟩
  · cases h
  · exact l.no_loss hand.record hand.idle o m live w rest h

theorem State.PoolLaws.runFirm (l : s.PoolLaws ops none) (hand : s.InHand ops r p) (disp : p.disp = .firming ∨ p.disp = .lost) :
    (s.runFirm r).PoolLaws ops none := by
  unfold State.runFirm
  split
  · exact l
  · rename_i q e
    cases hand.record.symm.trans e
    split
    · rename_i lost
      exact (State.endFirm_rests _ _).poolLaws (l.freeLost hand lost)
    · exact l
    · rename_i e kept _
      have h := (s.writeEntry_rests p.bucket p.way { e with state := .firm }).trans
        (State.editStats_rests _ fun t => { t with firms := sat48 (t.firms + 1) })
      dsimp only
      generalize hu : (s.writeEntry p.bucket p.way { e with state := .firm }).editStats (fun t => { t with firms := sat48 (t.firms + 1) }) = u at h ⊢
      have record : u.record r = some p := by rw [← hu]; exact hand.record
      have l1 := h.poolLaws l
      have l2 := State.resolveWaiters_poolLaws l1 record p.waiters .dup e.number .none
      have serves := u.resolveWaiters_serves r p.waiters .dup e.number .none
      have served := serves.record p record
      generalize p.waiters.foldl (fun s w => s.resolveWaiter r w .dup e.number .none) u = v at l2 serves served ⊢
      have firms : v.firmsOver ops = s.firmsOver ops := State.firmsOver_congr (by rw [serves.index_eq, h.firming])
      have withdraws : v.withdrawsOver ops = s.withdrawsOver ops := State.withdrawsOver_congr (by rw [serves.index_eq, h.withdrawal])
      refine (State.endFirm_rests _ _).poolLaws (l2.freeRecord (fun _ => .inr) (l2.unlisted fun q e => ?_) (by rw [firms, withdraws]; exact hand.free)
        (fun q e => ?_) (l2.no_loss served hand.idle))
      · cases served.symm.trans e
        rcases disp with d | d <;> simp [d]
      · cases served.symm.trans e
        simp

/-- The entry and its record pass to a waiter's stream, whose list the record joins (R108). -/
theorem State.PoolLaws.passedOn (l : s.PoolLaws ops x) (record : s.record r = some p) (disp : p.disp = .withdrawing)
    (free : r ∉ s.firmsOver ops ++ s.withdrawsOver ops) (e : Entry) (w : Waiter) (n : Nat) :
    (s.passedOn r p e w n).PoolLaws ops x ∧ ∃ q, (s.passedOn r p e w n).record r = some q := by
  unfold State.passedOn
  have h := s.writeEntry_rests p.bucket p.way { e with state := .provisional w.slot w.ordinal, number := n, lastHit := s.index.copy.epoch }
  dsimp only
  generalize hu : s.writeEntry p.bucket p.way _ = u at h ⊢
  have recordU : u.record r = some p := by rw [← hu]; exact record
  have l1 := h.poolLaws l
  have unlisted := l1.unlisted (r := r) (fun q e => by cases recordU.symm.trans e; rw [disp]; nofun) w.slot
  have l2 := l1.revive recordU disp (by rw [← hu]; exact free) w.slot w.ordinal
  have self : (u.editRecord r fun q => { q with owner := w.slot, ordinal := w.ordinal, disp := .live }).record r =
      some { p with owner := w.slot, ordinal := w.ordinal, disp := .live } := by rw [State.record_editRecord, if_pos rfl, recordU]; rfl
  obtain ⟨pool, frame⟩ := u.editRecord_eq r fun q => { q with owner := w.slot, ordinal := w.ordinal, disp := .live }
  generalize u.editRecord r _ = v at l2 self frame ⊢
  exact ⟨l2.list w.slot self rfl rfl (by rw [frame]; exact unlisted)
    (f := fun c => { c with provList := v.joinProvList r w.ordinal c.provList, provCount := c.provCount + 1 }) rfl rfl rfl, _, self⟩

theorem State.takeover_eq (s : State) (r : Nat) (p : PoolRecord) (e : Entry) (w : Waiter) (n : Nat) :
    let t := ((s.passedOn r p e w n).resolveWaiter r w .new n .none).editStats fun t => { t with takeovers := sat48 (t.takeovers + 1) }
    s.takeover r p e w n = ((t.waitersOf r).filter fun v => v.slot == w.slot).foldl (fun s v => s.resolveWaiter r v .dup n .none) t := rfl

theorem State.PoolLaws.takeover (l : s.PoolLaws ops x) (record : s.record r = some p) (disp : p.disp = .withdrawing)
    (free : r ∉ s.firmsOver ops ++ s.withdrawsOver ops) (e : Entry) (w : Waiter) (n : Nat) : (s.takeover r p e w n).PoolLaws ops x := by
  obtain ⟨l1, q, record1⟩ := l.passedOn record disp free e w n
  rw [State.takeover_eq]
  generalize s.passedOn r p e w n = u at l1 record1 ⊢
  have k := u.resolveWaiter_leaves (w := w) record1 .new n .none
  generalize u.resolveWaiter r w .new n .none = v at k ⊢
  generalize hz : v.editStats _ = z
  have l2 : z.PoolLaws ops x := by rw [← hz]; exact (State.editStats_rests _ _).poolLaws (k.serving.laws ops x l1)
  have record2 : z.record r = some (q.without w) := by rw [← hz]; exact k.record
  exact State.resolveWaiters_poolLaws l2 record2 _ .dup n .none

/-- A waiter that is passed over or discarded leaves the list; one that becomes the owner takes the record over. -/
theorem State.PoolLaws.examine (l : s.PoolLaws ops x) (record : s.record r = some p) (disp : p.disp = .withdrawing) (w : Waiter) {a : Alloc} (given : a ≠ .wait) :
    ((s.examine r w a).1 = false → s.Leaves (s.examine r w a).2 r p w) ∧
    ((s.examine r w a).1 = true → ∀ ops x, s.PoolLaws ops x → r ∉ s.firmsOver ops ++ s.withdrawsOver ops → (s.examine r w a).2.PoolLaws ops x) := by
  have dead : p.disp ≠ .live := by rw [disp]; nofun
  cases a with
  | wait => exact absurd rfl given
  | exhausted => exact ⟨fun _ => l.waiterExhausted_leaves record dead w, nofun⟩
  | number n =>
    unfold State.examine
    dsimp only
    split
    · rename_i closed
      exact ⟨fun _ => State.discardWaiter_leaves record closed, nofun⟩
    split
    · split
      · rename_i none
        rw [record] at none; cases none
      · split
        · exact ⟨fun _ => s.resolveWaiter_leaves record _ _ _, nofun⟩
        · rename_i q found _ e _
          cases record.symm.trans found
          exact ⟨nofun, fun _ ops x l free => l.takeover record disp free e w n⟩
    · exact ⟨fun _ => s.resolveWaiter_leaves record _ _ _, nofun⟩

/-- What a walk comes to: it halts with the record still WITHDRAWING, it finds an owner, or it reaches the end with no waiter left of those it examined. -/
structure State.Walked (s : State) (r : Nat) (p : PoolRecord) (ws : List Waiter) (z : WalkEnd × State) : Prop where
  owner : z.1 = .owner → ∀ ops x, s.PoolLaws ops x → r ∉ s.firmsOver ops ++ s.withdrawsOver ops → z.2.PoolLaws ops x
  other : z.1 ≠ .owner → s.Serving z.2 r ∧ ∃ vs, z.2.record r = some { p with waiters := vs } ∧ (z.1 = .noOwner → ∀ v ∈ vs, v ∈ p.waiters ∧ v ∉ ws)

theorem State.PoolLaws.walk (ws : List Waiter) : ∀ {s : State} {p : PoolRecord}, s.PoolLaws ops x → s.record r = some p → p.disp = .withdrawing →
    s.Walked r p ws (s.walk r ws) := by
  induction ws with
  | nil => exact fun {s p} _ record _ => ⟨nofun, fun _ => ⟨.refl s r, p.waiters, record, fun _ v m => ⟨m, List.not_mem_nil⟩⟩⟩
  | cons w ws ih =>
    intro s p l record disp
    have recordA := (s.allocate_record r).trans record
    have servingA := s.allocate_serving r
    unfold State.walk
    split
    · rename_i u e
      rw [e] at recordA servingA
      exact ⟨nofun, fun _ => ⟨servingA, p.waiters, recordA, nofun⟩⟩
    · rename_i a u given e
      rw [e] at recordA servingA
      obtain ⟨passes, takes⟩ := (servingA.laws ops x l).examine recordA disp w fun h => given h
      have free (ops) (h : r ∉ s.firmsOver ops ++ s.withdrawsOver ops) : r ∉ u.firmsOver ops ++ u.withdrawsOver ops := fun m => h (servingA.asked ops m)
      split
      · rename_i f
        rw [f] at takes
        exact ⟨fun _ ops x l h => takes rfl ops x (servingA.laws ops x l) (free ops h), nofun⟩
      · rename_i v f
        rw [f] at passes
        have k := passes rfl
        have serving := servingA.trans k.serving
        obtain ⟨owner, other⟩ := ih (serving.laws ops x l) k.record disp
        refine ⟨fun h ops x l n => owner h ops x (serving.laws ops x l) fun m => n (serving.asked ops m), fun h => ?_⟩
        obtain ⟨rest, vs, recordT, gone⟩ := other h
        refine ⟨serving.trans rest, vs, recordT, fun none v m => ?_⟩
        obtain ⟨stood, other⟩ := gone none v m
        obtain ⟨stood, ne⟩ := PoolRecord.mem_without.1 stood
        exact ⟨stood, by rw [List.mem_cons, not_or]; exact ⟨ne, other⟩⟩

/-- What a run of an operation comes to: it completes, and the laws hold of the operations that stand; or it halts, and keeps whatever laws held. -/
def State.Ran (s : State) (ops : List Op) (h : Halt → State → Prop) : RunEnd → Prop
  | (t, none) => t.PoolLaws ops none
  | (t, some k) => (∀ ops x, s.PoolLaws ops x → t.PoolLaws ops x) ∧ h k t

/-- A WITHDRAW's walk halts with its record still WITHDRAWING (R111). -/
def Halt.WalkOf (r : Nat) (h : Halt) (t : State) : Prop := ∃ w p, h = .walk r w ∧ t.record r = some p ∧ p.disp = .withdrawing

/-- A walk along all the waiters of a WITHDRAWING record, to its end (R108 to R111). -/
theorem State.PoolLaws.endWalk (l : s.PoolLaws ops none) (hand : s.InHand ops r p) (disp : p.disp = .withdrawing) :
    s.Ran ops (Halt.WalkOf r) (State.endWalk r (s.walk r (s.waitersOf r))) := by
  have waiters : s.waitersOf r = p.waiters := by rw [State.waitersOf, hand.record]
  obtain ⟨owner, other⟩ := State.PoolLaws.walk (s.waitersOf r) l hand.record disp
  generalize s.walk r (s.waitersOf r) = z at owner other ⊢
  obtain ⟨e, t⟩ := z
  cases e with
  | owner => exact (t.editStats_rests _).poolLaws (owner rfl ops none l hand.free)
  | halted w =>
    obtain ⟨serving, vs, record, -⟩ := other nofun
    exact ⟨serving.laws, w, _, rfl, record, disp⟩
  | noOwner =>
    obtain ⟨serving, vs, record, gone⟩ := other nofun
    have none : vs = [] := List.eq_nil_iff_forall_not_mem.2 fun v m => (gone rfl v m).2 (by rw [waiters]; exact (gone rfl v m).1)
    have l1 := serving.laws ops _ l
    refine (State.editStats_rests _ _).poolLaws ?_
    unfold State.endUnowned
    dsimp only at record ⊢
    rw [record]
    have h : t.Rests ((t.emptyWay p.bucket p.way).dropOccupancy) := (t.emptyWay_rests _ _).trans .of_same
    refine (h.poolLaws l1).freeRecord (fun _ => .inr) (l1.unlisted fun q e => ?_) (fun m => hand.free (serving.asked ops m)) (fun q e => ?_)
      (l1.no_loss record hand.idle)
    · cases record.symm.trans e; rw [disp]; nofun
    · cases record.symm.trans e; exact none

theorem State.InHand.serving {vs : List Waiter} (hand : s.InHand ops r p) (h : s.Serving t r) (record : t.record r = some { p with waiters := vs }) :
    t.InHand ops r { p with waiters := vs } := ⟨record, fun m => hand.free (h.asked ops m), hand.idle⟩

theorem State.Ran.after {u : State} {h : Halt → State → Prop} (serves : ∀ ops x, s.PoolLaws ops x → u.PoolLaws ops x) {z : RunEnd} (k : u.Ran ops h z) : s.Ran ops h z := by
  obtain ⟨t, _ | k'⟩ := z
  · exact k
  · exact ⟨fun ops x l => k.1 ops x (serves ops x l), k.2⟩

theorem State.PoolLaws.runWithdraw (l : s.PoolLaws ops none) (hand : s.InHand ops r p) (disp : p.disp = .withdrawing ∨ p.disp = .lost) :
    s.Ran ops (Halt.WalkOf r) (s.runWithdraw r) := by
  unfold State.runWithdraw
  split
  · exact l
  · rename_i q e
    cases hand.record.symm.trans e
    split
    · rename_i lost
      exact l.freeLost hand lost
    · rename_i kept
      split
      · exact l
      · obtain ⟨serving, vs, record⟩ := State.discardAborting_serving hand.record
        exact State.Ran.after serving.laws ((serving.laws ops _ l).endWalk (hand.serving serving record) (disp.resolve_right kept))

end Sys2Proof.Machine

namespace Sys2Proof.Machine

set_option Elab.async false

variable {s t : State} {os qs : List Op} {op : Op} {x : Option Nat} {r : Nat} {p : PoolRecord}

/-! ### An operation at its place in flight, and what its run keeps (R68, R70, R77, R111) -/

/-- An operation as it stood before it began. -/
def Op.fresh (op : Op) : Op := { op with halt := none }

theorem State.firmsOver_halt (s : State) (h : Option Halt) : s.firmsOver (os ++ { op with halt := h } :: qs) = s.firmsOver (os ++ op :: qs) := by
  simp [State.firmsOver, List.filterMap_cons]

theorem State.withdrawsOver_halt (s : State) (h : Option Halt) : s.withdrawsOver (os ++ { op with halt := h } :: qs) = s.withdrawsOver (os ++ op :: qs) := by
  simp [State.withdrawsOver, List.filterMap_cons]

theorem mem_of_split {a : Op} (m : a ∈ os ++ qs) : a ∈ os ++ op :: qs := by
  rcases List.mem_append.1 m with m | m
  · exact List.mem_append_left _ m
  · exact List.mem_append_right _ (List.mem_cons_of_mem _ m)

theorem mem_split {a : Op} : a ∈ os ++ op :: qs ↔ a = op ∨ a ∈ os ++ qs := by
  simp only [List.mem_append, List.mem_cons]
  tauto

/-- The laws of an operation's own halt are what ties them to it: the rest stands without it. -/
theorem State.PoolLaws.detach (l : s.PoolLaws (os ++ op :: qs) none) (y : Option Nat) (loss : ∀ r live w rest, op.halt = some (.loss r live w rest) → y = some r) :
    s.PoolLaws (os ++ qs) y := by
  have firms : (s.firmsOver (os ++ qs)).Sublist (s.firmsOver (os ++ op :: qs)) :=
    ((((List.sublist_cons_self op qs).append_left os).filterMap _)).append_left _
  have withdraws : (s.withdrawsOver (os ++ qs)).Sublist (s.withdrawsOver (os ++ op :: qs)) :=
    ((((List.sublist_cons_self op qs).append_left os).filterMap _)).append_left _
  have asked := firms.append withdraws
  refine { l with
    once := l.once.sublist asked
    firming := fun r m => l.firming r (firms.subset m)
    withdrawing := fun r m => l.withdrawing r (withdraws.subset m)
    lost_waiters := fun r p e d w => ?_
    begun_first := l.begun_first.sublist ((List.sublist_cons_self op qs).append_left os)
    at_bucket := fun o m => l.at_bucket o (mem_of_split m)
    halted_loss := fun o m r live w rest e => ?_
    halted_walk := fun o m => l.halted_walk o (mem_of_split m) }
  · obtain ⟨o, m, live, v, rest, h⟩ := (l.lost_waiters r p e d w).resolve_left nofun
    rcases mem_split.1 m with rfl | m
    · exact .inl (loss r live v rest h)
    · exact .inr ⟨o, m, live, v, rest, h⟩
  · obtain ⟨lost, free⟩ := l.halted_loss o (mem_of_split m) r live w rest e
    exact ⟨lost, fun h m => free h (asked.subset m)⟩

/-- The same with the operation still in flight, as it stood before it began. -/
theorem State.PoolLaws.freshen (l : s.PoolLaws (os ++ op :: qs) none) (y : Option Nat) (loss : ∀ r live w rest, op.halt = some (.loss r live w rest) → y = some r) :
    s.PoolLaws (os ++ op.fresh :: qs) y := by
  have k := l.detach y loss
  obtain ⟨first, after, across⟩ := List.pairwise_append.1 l.begun_first
  obtain ⟨later, after⟩ := List.pairwise_cons.1 after
  have firms : s.firmsOver (os ++ op.fresh :: qs) = s.firmsOver (os ++ op :: qs) := s.firmsOver_halt none
  have withdraws : s.withdrawsOver (os ++ op.fresh :: qs) = s.withdrawsOver (os ++ op :: qs) := s.withdrawsOver_halt none
  refine { k with
    once := by rw [firms, withdraws]; exact l.once
    firming := by rw [firms]; exact l.firming
    withdrawing := by rw [withdraws]; exact l.withdrawing
    lost_waiters := fun r p e d w => ?_
    begun_first := List.pairwise_append.2 ⟨first, List.pairwise_cons.2 ⟨later, after⟩, fun a ma b mb begun => ?_⟩
    at_bucket := fun o m r p => ?_
    halted_loss := fun o m r live w rest e => ?_
    halted_walk := fun o m r w e => ?_ }
  · rcases k.lost_waiters r p e d w with h | ⟨o, m, h⟩
    · exact .inl h
    · exact .inr ⟨o, mem_of_split m, h⟩
  · rcases List.mem_cons.1 mb with rfl | mb
    · exact absurd rfl begun
    · exact across a ma b (List.mem_cons_of_mem _ mb) begun
  · rcases mem_split.1 m with rfl | m
    · exact l.at_bucket op (mem_split.2 (.inl rfl)) r p
    · exact k.at_bucket o m r p
  · rw [firms, withdraws]
    rcases mem_split.1 m with rfl | m
    · exact absurd e nofun
    · exact l.halted_loss o (mem_of_split m) r live w rest e
  · rcases mem_split.1 m with rfl | m
    · exact absurd e nofun
    · exact k.halted_walk o m r w e

/-- What an operation may halt with in this state (R77, R111, R113). -/
def State.Halts (s : State) (ops : List Op) (op : Op) (x : Option Nat) : Halt → Prop
  | .number _ => x = none
  | .walk r _ => x = none ∧ op.kind = .withdraw r ∧ ∃ p, s.record r = some p ∧ p.disp = .withdrawing
  | .loss r live _ _ => (∀ q, x = some q → q = r) ∧ (∃ p, s.record r = some p ∧ p.disp = .lost ∧ p.bucket = op.bucket) ∧
    (live = true → r ∉ s.firmsOver ops ++ s.withdrawsOver ops)

/-- An operation that none on its bucket stands before may halt. -/
theorem State.PoolLaws.halt (l : s.PoolLaws (os ++ op.fresh :: qs) x) (first : ∀ a ∈ os, a.bucket ≠ op.bucket) {h : Halt}
    (halts : s.Halts (os ++ op.fresh :: qs) op x h) : s.PoolLaws (os ++ { op with halt := some h } :: qs) none := by
  obtain ⟨before, after, across⟩ := List.pairwise_append.1 l.begun_first
  obtain ⟨later, after⟩ := List.pairwise_cons.1 after
  have firms : s.firmsOver (os ++ { op with halt := some h } :: qs) = s.firmsOver (os ++ op.fresh :: qs) :=
    (s.firmsOver_halt (some h)).trans (s.firmsOver_halt none).symm
  have withdraws : s.withdrawsOver (os ++ { op with halt := some h } :: qs) = s.withdrawsOver (os ++ op.fresh :: qs) :=
    (s.withdrawsOver_halt (some h)).trans (s.withdrawsOver_halt none).symm
  refine { l with
    once := by rw [firms, withdraws]; exact l.once
    firming := by rw [firms]; exact l.firming
    withdrawing := by rw [withdraws]; exact l.withdrawing
    lost_waiters := fun r p e d w => .inr ?_
    begun_first := List.pairwise_append.2 ⟨before, List.pairwise_cons.2 ⟨later, after⟩, fun a ma b mb begun => ?_⟩
    at_bucket := fun o m r p => ?_
    halted_loss := fun o m r live w rest e => ?_
    halted_walk := fun o m r w e => ?_ }
  · rcases l.lost_waiters r p e d w with hx | ⟨o, m, live, v, rest, e⟩
    · cases h with
      | number u => exact absurd (hx.symm.trans halts) nofun
      | walk q v => exact absurd (hx.symm.trans halts.1) nofun
      | loss q live v rest =>
        cases halts.1 r hx
        exact ⟨_, mem_split.2 (.inl rfl), live, v, rest, rfl⟩
    · rcases mem_split.1 m with rfl | m
      · exact absurd e nofun
      · exact ⟨o, mem_of_split m, live, v, rest, e⟩
  · rcases List.mem_cons.1 mb with rfl | mb
    · exact first a ma
    · exact across a ma b (List.mem_cons_of_mem _ mb) begun
  · rcases mem_split.1 m with rfl | m
    · exact l.at_bucket op.fresh (mem_split.2 (.inl rfl)) r p
    · exact l.at_bucket o (mem_of_split m) r p
  · rw [firms, withdraws]
    rcases mem_split.1 m with rfl | m
    · cases Option.some.inj e
      exact halts.2
    · exact l.halted_loss o (mem_of_split m) r live w rest e
  · rcases mem_split.1 m with rfl | m
    · cases Option.some.inj e
      exact halts.2
    · exact l.halted_walk o (mem_of_split m) r w e

/-- What a run of an operation comes to, with the operations before and behind it in flight. -/
def State.Settles (os qs : List Op) (op : Op) : RunEnd → Prop
  | (t, none) => t.PoolLaws (os ++ qs) none
  | (t, some h) => t.PoolLaws (os ++ { op with halt := some h } :: qs) none

/-- No operation that stands beside this one has begun on its bucket. -/
def Op.Alone (op : Op) (os qs : List Op) : Prop := (∀ a ∈ os, a.bucket ≠ op.bucket) ∧ ∀ a ∈ os ++ qs, a.halt ≠ none → a.bucket ≠ op.bucket

/-- An operation of a FIRM's or a WITHDRAW's kind has the record it names in hand. -/
theorem State.PoolLaws.inHand (l : s.PoolLaws (os ++ op :: qs) x) (alone : op.Alone os qs) (kind : op.kind = .firm r ∨ op.kind = .withdraw r)
    (record : s.record r = some p) : s.InHand (os ++ qs) r p := by
  refine ⟨record, fun m => ?_, ?_⟩
  · have asked : (s.firmsOver (os ++ op :: qs) ++ s.withdrawsOver (os ++ op :: qs)).Perm (r :: (s.firmsOver (os ++ qs) ++ s.withdrawsOver (os ++ qs))) := by
      rcases kind with k | k <;>
        simp only [State.firmsOver, State.withdrawsOver, List.filterMap_append, List.filterMap_cons, k, OpKind.firms, OpKind.withdraws] <;>
        refine List.perm_iff_count.2 fun a => ?_ <;>
        simp only [List.count_append, List.count_cons] <;>
        omega
    exact (List.nodup_cons.1 (asked.nodup_iff.1 l.once)).1 m
  · rw [← l.at_bucket op (mem_split.2 (.inl rfl)) r p kind record]
    exact alone.2

theorem State.PoolLaws.runScan (l : s.PoolLaws ops none) (b : Nat) : (s.runScan b).PoolLaws ops none := by
  unfold State.runScan
  have h := State.Rests.foldl (fun s w => State.scanWay_rests b w (s := s)) (List.finRange 16) s
  dsimp only
  generalize (List.finRange 16).foldl (fun s w => s.scanWay b w) s = t at h ⊢
  have l1 := h.poolLaws l
  split
  · exact l1.of_rests (State.canonical_of_same rfl rfl l1.canonical)
  · exact l1.of_rests (State.canonical_of_same rfl rfl l1.canonical)

/-- An operation carried out at a checked bucket. -/
theorem State.PoolLaws.runBody (l : s.PoolLaws (os ++ op.fresh :: qs) none) (alone : op.Alone os qs) : State.Settles os qs op (s.runBody op) := by
  have rest : s.PoolLaws (os ++ qs) none := l.detach none nofun
  unfold State.runBody
  split
  · rename_i k kind
    have all := State.PoolLaws.runLookup rest k op.bucket
    have waits := State.PoolLaws.runLookup l k op.bucket
    generalize e : s.runLookup k op.bucket = z at all waits ⊢
    obtain ⟨t, _ | h⟩ := z
    · exact all
    · refine waits.halt alone.1 ?_
      unfold State.runLookup at e
      split at e
      · cases e
      · split at e
        · cases e; rfl
        · cases e
  · rename_i r kind
    obtain ⟨p, record, disp⟩ := l.firming r (State.mem_firmsOver_of_kind (mem_split.2 (.inl rfl)) kind)
    exact rest.runFirm (l.inHand (op := op.fresh) alone (.inl kind) record) disp
  · rename_i r kind
    obtain ⟨p, record, disp⟩ := l.withdrawing r (State.mem_withdrawsOver_of_kind (mem_split.2 (.inl rfl)) kind)
    have ran := rest.runWithdraw (l.inHand (op := op.fresh) alone (.inr kind) record) disp
    generalize s.runWithdraw r = z at ran ⊢
    obtain ⟨t, _ | h⟩ := z
    · exact ran
    · obtain ⟨keeps, w, p, rfl, record, disp⟩ := ran
      exact (keeps _ _ l).halt alone.1 ⟨rfl, kind, p, record, disp⟩
  · exact (s.runSeed_rests _ _).poolLaws rest
  · exact (s.runRetire_rests _ _).poolLaws rest
  · exact rest.runScan _

theorem State.PoolLaws.runFrom (l : s.PoolLaws (os ++ op.fresh :: qs) none) (alone : op.Alone os qs) (ws : List (WayNo × Ecc)) :
    State.Settles os qs op (s.runFrom op ws) := by
  have idle : ∀ o ∈ os ++ op.fresh :: qs, o.halt ≠ none → o.bucket ≠ op.bucket := fun o m begun => by
    rcases mem_split.1 m with rfl | m
    · exact absurd rfl begun
    · exact alone.2 o m begun
  have checked := State.checkWays_poolLaws op.bucket ws idle l
  unfold State.runFrom
  split
  · rename_i t e
    rw [e] at checked
    exact checked.runBody alone
  · rename_i t h e
    rw [e] at checked
    obtain ⟨r, live, w, rest, p, rfl, l1, record, lost, bucket, free⟩ := checked
    exact l1.halt alone.1 ⟨fun q e => (Option.some.inj e).symm, ⟨p, record, lost, bucket⟩, free⟩

end Sys2Proof.Machine

namespace Sys2Proof.Machine

set_option Elab.async false

variable {s t : State} {os qs : List Op} {op : Op} {x : Option Nat} {r : Nat} {p : PoolRecord}

/-! ### A halted operation goes on (R78, R111, R113) -/

/-- No operation before one that has begun is of its bucket (R70). -/
theorem State.PoolLaws.first_of_begun (l : s.PoolLaws (os ++ op :: qs) x) (begun : op.halt ≠ none) : ∀ a ∈ os, a.bucket ≠ op.bucket :=
  fun a m => (List.pairwise_append.1 l.begun_first).2.2 a m op List.mem_cons_self begun

theorem State.PoolLaws.alone (l : s.PoolLaws (os ++ op :: qs) x) (first : ∀ a ∈ os, a.bucket ≠ op.bucket) : op.Alone os qs := by
  refine ⟨first, fun a m begun => ?_⟩
  rcases List.mem_append.1 m with m | m
  · exact first a m
  · exact ((List.pairwise_cons.1 (List.pairwise_append.1 l.begun_first).2.1).1 a m begun).symm

/-- A walk that has its record in hand, from any state that keeps what its own kept. -/
theorem State.Ran.settles {z : RunEnd} (ran : s.Ran (os ++ qs) (Halt.WalkOf r) z) (l : s.PoolLaws (os ++ op.fresh :: qs) none)
    (first : ∀ a ∈ os, a.bucket ≠ op.bucket) (kind : op.kind = .withdraw r) : State.Settles os qs op z := by
  obtain ⟨t, _ | h⟩ := z
  · exact ran
  · obtain ⟨keeps, w, p, rfl, record, disp⟩ := ran
    exact (keeps _ _ l).halt first ⟨rfl, kind, p, record, disp⟩

/-- A WITHDRAW's walk goes on at the waiter it halted at, or at the first that stands on the list (R111). -/
theorem State.PoolLaws.walkOn (l : s.PoolLaws ops none) (hand : s.InHand ops r p) (disp : p.disp = .withdrawing) (w : Waiter) {a : Alloc} (given : a ≠ .wait) :
    s.Ran ops (Halt.WalkOf r) (match s.examine r w a with
      | (true, s) => State.endWalk r (.owner, s)
      | (false, s) => State.endWalk r (s.walk r (s.waitersOf r))) := by
  obtain ⟨passes, takes⟩ := l.examine hand.record disp w given
  split
  · rename_i t e
    rw [e] at takes
    exact (t.editStats_rests _).poolLaws (takes rfl ops none l hand.free)
  · rename_i t e
    rw [e] at passes
    have k := passes rfl
    exact State.Ran.after k.serving.laws ((k.serving.laws ops _ l).endWalk (hand.serving k.serving k.record) disp)

/-- The loss of a record is gone on with at the waiter it halted at (R113). -/
theorem State.PoolLaws.giveLoss (l : s.PoolLaws ops x) (record : s.record r = some p) (dead : p.disp ≠ .live) (w : Waiter) {a : Alloc} (given : a ≠ .wait) :
    let t := if s.stillWaits r w then s.lossGive r w a else s
    s.Serving t r ∧ ∃ vs, t.record r = some { p with waiters := vs } := by
  dsimp only
  split
  · have k := l.lossGive_leaves record dead w given
    exact ⟨k.serving, _, k.record⟩
  · exact ⟨.refl s r, p.waiters, record⟩

/-- An operation in flight goes on with what its allocation found. -/
theorem State.PoolLaws.goOn (l : s.PoolLaws (os ++ op :: qs) none) (a : Alloc) : State.Settles os qs op (s.goOn op a) := by
  unfold State.goOn
  split
  · rename_i h
    exact l.detach none fun r live w rest e => by rw [h] at e; cases e
  rename_i h halted
  have first := l.first_of_begun (by rw [halted]; nofun)
  have alone := l.alone first
  have at_self := mem_split (os := os) (qs := qs) (op := op).2 (.inl rfl)
  split
  · rw [show op = { op with halt := some h } by rw [← halted]] at l
    exact l
  rename_i given
  split
  · have rest : s.PoolLaws (os ++ qs) none := l.detach none fun r live w rest e => by rw [halted] at e; cases e
    split
    · exact rest.lookupNumber _ _ _ _
    all_goals exact rest
  · rename_i r w
    have not_loss (r live w rest) (e : op.halt = some (.loss r live w rest)) : none = some r := by rw [halted] at e; cases e
    obtain ⟨kind, p, record, disp⟩ := l.halted_walk op at_self r w halted
    have rest := l.detach none not_loss
    have hand := l.inHand alone (.inr kind) record
    refine State.Ran.settles (s := s) (r := r) ?_ (l.freshen none not_loss) first kind
    split
    · exact rest.walkOn hand disp w given
    · exact rest.endWalk hand disp
  · rename_i r live w rest
    obtain ⟨⟨p, record, lost, bucket⟩, free⟩ := l.halted_loss op at_self r live w rest halted
    have l0 := l.freshen (some r) fun q live w rest e => by rw [halted] at e; cases e; rfl
    have free : live = true → r ∉ s.firmsOver (os ++ op.fresh :: qs) ++ s.withdrawsOver (os ++ op.fresh :: qs) := by
      rw [show s.firmsOver (os ++ op.fresh :: qs) = s.firmsOver (os ++ op :: qs) from s.firmsOver_halt none,
        show s.withdrawsOver (os ++ op.fresh :: qs) = s.withdrawsOver (os ++ op :: qs) from s.withdrawsOver_halt none]
      exact free
    obtain ⟨serving1, vs, record1⟩ := l0.giveLoss record (by rw [lost]; nofun) w given
    dsimp only at serving1 record1 ⊢
    generalize (if s.stillWaits r w then s.lossGive r w a else s) = t at serving1 record1 ⊢
    have l1 := serving1.laws _ _ l0
    have waiters : t.waitersOf r = vs := by rw [State.waitersOf, record1]
    obtain ⟨serving2, vs2, record2, served⟩ := l1.lossWaiters (t.waitersOf r) record1 (by simp only [lost]; nofun)
    have l2 := serving2.laws _ _ l1
    have free2 (h : live = true) := fun m => free h ((serving1.trans serving2).asked (os ++ op.fresh :: qs) m)
    split
    · rename_i u e
      rw [e] at record2 served l2 free2
      have none : vs2 = [] := List.eq_nil_iff_forall_not_mem.2 fun w m => (served rfl w m).2 (by rw [waiters]; exact (served rfl w m).1)
      have idle : ∀ o ∈ os ++ op.fresh :: qs, o.halt ≠ .none → o.bucket ≠ p.bucket := fun o m begun => by
        rw [bucket]
        rcases mem_split.1 m with rfl | m
        · exact absurd rfl begun
        · exact alone.2 o m begun
      exact (State.endLoss_poolLaws l2 record2 lost none idle free2).runFrom alone rest
    · rename_i u v e
      rw [e] at record2 l2 free2
      exact l2.halt first ⟨fun q e => (Option.some.inj e).symm, ⟨_, record2, lost, bucket⟩, free2⟩

/-! ### Completions and resumptions keep the laws of the Pool (R68, R70, R78) -/

/-- The laws of the Pool, over the operations in flight. -/
def State.PoolWhole (s : State) : Prop := s.PoolLaws s.index.inflight none

theorem State.Rests.poolWhole (h : s.Rests t) (w : s.PoolWhole) : t.PoolWhole := by
  unfold State.PoolWhole
  rw [h.index.inflight]
  exact h.poolLaws w

theorem haltOp_split {key : OpKey} (h : Halt) (first : ∀ a ∈ os, a.kind.key ≠ key) (own : op.kind.key = key) :
    haltOp key h (os ++ op :: qs) = os ++ { op with halt := some h } :: qs := by
  induction os with
  | nil => exact if_pos own
  | cons o os ih =>
    rw [List.cons_append, haltOp, if_neg (first o List.mem_cons_self), ih fun a m => first a (List.mem_cons_of_mem _ m)]
    rfl

theorem eraseP_split {key : OpKey} (first : ∀ a ∈ os, a.kind.key ≠ key) (own : op.kind.key = key) :
    (os ++ op :: qs).eraseP (fun o => o.kind.key == key) = os ++ qs := by
  rw [List.eraseP_append_right _ fun a m => by simpa using first a m, List.eraseP_cons_of_pos (by simpa using own)]

/-- An operation that may begin stands behind none of its key and none of its bucket (R70). -/
theorem readyOp_split {key : OpKey} : ∀ {l : List Op}, readyOp key l = some op →
    ∃ os qs, l = os ++ op :: qs ∧ op.halt = none ∧ op.kind.key = key ∧ ∀ a ∈ os, a.kind.key ≠ key ∧ a.bucket ≠ op.bucket := by
  intro l
  induction l with
  | nil => exact nofun
  | cons o l ih =>
    intro e
    unfold readyOp at e
    split at e
    · rename_i own
      split at e <;> cases e
      exact ⟨[], l, rfl, Option.isNone_iff_eq_none.1 ‹_›, own, nofun⟩
    · rename_i other
      split at e
      · rename_i q found
        split at e <;> cases e
        rename_i apart
        obtain ⟨os, qs, rfl, fresh, own, first⟩ := ih found
        exact ⟨o :: os, qs, rfl, fresh, own, fun a m => (List.mem_cons.1 m).elim (fun h => h ▸ ⟨other, fun h => apart h.symm⟩) (first a)⟩
      · cases e

/-- What a run comes to is settled at the operation's place. -/
theorem State.Settles.settleOp {z : RunEnd} (k : State.Settles os qs op z) (inflight : z.1.index.inflight = os ++ op :: qs) {key : OpKey}
    (first : ∀ a ∈ os, a.kind.key ≠ key) (own : op.kind.key = key) : (State.settleOp key z).PoolWhole := by
  obtain ⟨t, _ | h⟩ := z
  · unfold State.settleOp State.PoolWhole
    dsimp only at inflight ⊢
    rw [inflight, eraseP_split first own]
    exact State.PoolLaws.of_rests k (State.canonical_of_same rfl rfl k.canonical)
  · unfold State.settleOp State.PoolWhole
    dsimp only at inflight ⊢
    rw [inflight, haltOp_split h first own]
    exact State.PoolLaws.of_rests k (State.canonical_of_same rfl rfl k.canonical)

theorem State.PoolWhole.carryOut {key : OpKey} (w : s.PoolWhole) (ready : readyOp key s.index.inflight = some op) (ecc : Vector Ecc 16) :
    (s.carryOut op ecc).PoolWhole := by
  obtain ⟨os, qs, split, fresh, own, first⟩ := readyOp_split ready
  have l : s.PoolLaws (os ++ op :: qs) none := split ▸ w
  refine (State.refreshAll_rests _).poolWhole (State.Settles.settleOp (op := op) (os := os) (qs := qs) ?_ ?_ ?_ rfl)
  · exact (l.freshen none fun r live w rest e => by rw [fresh] at e; cases e).runFrom (l.alone fun a m => (first a m).2) _
  · rw [(s.runFrom_numbersKept op _).inflight, split]
  · rw [own]; exact fun a m => (first a m).1

theorem State.PoolWhole.resume (w : s.PoolWhole) (k : OpKey) (a : Alloc) : (s.resume k a).PoolWhole := by
  unfold State.resume
  split
  · exact w
  · rename_i op found
    obtain ⟨own, os, qs, split, first⟩ := List.find?_eq_some_iff_append.1 found
    have l : s.PoolLaws (os ++ op :: qs) none := split ▸ w
    exact State.Settles.settleOp (l.goOn a) (by rw [(s.goOn_numbersKept op a).inflight, split]) (fun a m => by simpa using first a m) (beq_iff_eq.1 own)

theorem State.allocateAll_poolLaws (ks : List OpKey) : ∀ {s : State}, s.PoolLaws os x → (s.allocateAll ks).2.PoolLaws os x := by
  induction ks with
  | nil => exact fun l => l
  | cons k ks ih => exact fun l => ih (State.allocate_poolLaws l)

theorem State.PoolWhole.resumeAll (w : s.PoolWhole) : s.resumeAll.PoolWhole := by
  unfold State.resumeAll
  have w0 : ({ s with index := { s.index with waiting := [] } } : State).PoolWhole := (State.Rests.of_same (s := s)).poolWhole w
  dsimp only
  generalize ({ s with index := { s.index with waiting := [] } } : State) = t at w0 ⊢
  have w1 : (t.allocateAll s.index.waiting).2.PoolWhole := by
    unfold State.PoolWhole
    rw [(t.allocateAll_numbersKept _).inflight]
    exact State.allocateAll_poolLaws _ w0
  generalize t.allocateAll s.index.waiting = z at w1 ⊢
  obtain ⟨given, u⟩ := z
  refine (State.refreshAll_rests _).poolWhole ?_
  dsimp only at w1 ⊢
  clear w0
  induction given generalizing u with
  | nil => exact w1
  | cons g given ih => exact ih _ (w1.resume g.1 g.2)

end Sys2Proof.Machine

namespace Sys2Proof.Machine

set_option Elab.async false

variable {s t : State}

/-! ### What a step keeps of the stores, the operations in flight, the chunk numbers and the Pool -/

/-- What leaves the operations in flight as they are, and keeps the stores, the chunk numbers and every law of the Pool over whatever operations. -/
structure State.LawsKept (s t : State) : Prop where
  form : s.Canonical → t.Canonical
  numbers : s.NumbersKept t
  laws : ∀ ops x, s.PoolLaws ops x → t.PoolLaws ops x

/-- What a step keeps: the stores canonical, at most 64 operations in flight, the chunk numbers lawful, and the Pool lawful (R68, R77, R78, R93). -/
structure State.Stays (s t : State) : Prop where
  form : s.Canonical → t.Canonical
  places : s.index.inflight.length ≤ 64 → t.index.inflight.length ≤ 64
  numbers : s.NumbersOk → t.NumbersOk
  pool : s.PoolWhole → t.PoolWhole

theorem State.LawsKept.refl (s : State) : s.LawsKept s := ⟨id, .refl s, fun _ _ => id⟩

theorem State.LawsKept.trans {u : State} (h : s.LawsKept t) (k : t.LawsKept u) : s.LawsKept u :=
  ⟨k.form ∘ h.form, h.numbers.trans k.numbers, fun ops x l => k.laws ops x (h.laws ops x l)⟩

theorem State.LawsKept.ite {u : State} {p : Prop} [Decidable p] (h : p → s.LawsKept t) (k : ¬p → s.LawsKept u) : s.LawsKept (if p then t else u) := by
  split
  · exact h ‹_›
  · exact k ‹_›

theorem State.LawsKept.foldl {α : Type} {f : State → α → State} (h : ∀ (s : State) (a : α), s.LawsKept (f s a)) (l : List α) (s : State) :
    s.LawsKept (l.foldl f s) := by
  induction l generalizing s with
  | nil => exact .refl s
  | cons a l ih => exact (h s a).trans (ih _)

theorem State.Rests.lawsKept (h : s.Rests t) : s.LawsKept t := ⟨h.form, h.numbers, fun _ _ => h.poolLaws⟩

theorem State.Stays.refl (s : State) : s.Stays s := ⟨id, id, id, id⟩

theorem State.Stays.trans {u : State} (h : s.Stays t) (k : t.Stays u) : s.Stays u :=
  ⟨k.form ∘ h.form, k.places ∘ h.places, k.numbers ∘ h.numbers, k.pool ∘ h.pool⟩

theorem State.LawsKept.stays (h : s.LawsKept t) : s.Stays t :=
  ⟨h.form, by rw [h.numbers.inflight]; exact id, h.numbers.numbers, fun w => by
    unfold State.PoolWhole
    rw [h.numbers.inflight]
    exact h.laws _ _ w⟩

theorem State.Rests.stays (h : s.Rests t) : s.Stays t := h.lawsKept.stays

/-- What a step keeps, where `Keeps` gives the stores and the places. -/
theorem State.Keeps.stays (h : s.Keeps t) (numbers : s.NumbersOk → t.NumbersOk) (pool : s.PoolWhole → t.PoolWhole) : s.Stays t :=
  ⟨h.form, h.inflight.trans, numbers, pool⟩

/-! ### The streams (R30, R42, R48, R51, R102) -/

variable (s) in
theorem State.enterAborting_lawsKept (i : SlotNo) (r : AbortReason) : s.LawsKept (s.enterAborting i r) :=
  ⟨(s.enterAborting_keeps i r).form, s.enterAborting_numbersKept i r, fun _ _ l => l.enterAborting i r⟩

variable (s) in
theorem State.abortStream_lawsKept (i : SlotNo) (r : AbortReason) : s.LawsKept (s.abortStream i r) :=
  ((s.enterAborting_lawsKept i r).trans (State.refresh_rests _ i).lawsKept).trans (s.endEvent_rests _).lawsKept

variable (s) in
theorem State.settled_stays : s.Stays s.settled :=
  ((State.LawsKept.foldl (fun s i => s.abortStream_lawsKept i .idle) _ s).trans (State.begun_rests _).lawsKept).stays

/-- The records that are firmed are on the list, each once. -/
theorem State.PoolLaws.issueFirms {ops : List Op} {x : Option Nat} (i : SlotNo) (rs : List Nat) :
    ∀ {s : State}, s.PoolLaws ops x → rs.Nodup → (∀ r ∈ rs, r ∈ (s.slot i).provList) → (rs.foldl (State.issueFirm i) s).PoolLaws ops x := by
  induction rs with
  | nil => exact fun l _ _ => l
  | cons r rs ih =>
    intro s l once listed
    obtain ⟨new, once⟩ := List.nodup_cons.1 once
    refine ih (l.issueFirm i (listed r List.mem_cons_self)) once fun q m => ?_
    obtain ⟨-, own, -⟩ := s.issueFirm_spec i r
    rw [own]
    simp only [Slot.dropProv, List.mem_filter]
    exact ⟨listed q (List.mem_cons_of_mem _ m), by simpa using fun h : q = r => new (h ▸ m)⟩

variable (s) in
theorem State.holdStored_lawsKept (i : SlotNo) (read : Nat) : s.LawsKept (s.holdStored i read) := by
  refine ⟨(s.holdStored_keeps i read).form, ?_, fun ops x l => ?_⟩
  all_goals
    unfold State.holdStored
    dsimp only
    split
  · exact .refl s
  · refine State.NumbersKept.trans ?_ (((State.editSlot_rests _ .of_same).trans (State.post_rests _ _)).trans (State.tryClose_rests _ i)).numbers
    exact (s.editSlot_rests .of_same).numbers.trans (.foldl (fun s r => by
      obtain ⟨frame, -⟩ := s.issueFirm_spec i r
      exact .of_same (by rw [frame]; exact ⟨rfl, rfl, rfl, rfl, rfl, rfl⟩)) _ _)
  · exact l
  · have l1 := (s.editSlot_rests (i := i) (f := fun c => { c with stored := holdValue read (s.slot i).stored (s.slot i).written }) .of_same).poolLaws l
    have l2 := l1.issueFirms i (State.firmDue _ i (holdValue read (s.slot i).stored (s.slot i).written)) ((l1.listed_once i).filter _) fun r m => List.mem_of_mem_filter m
    exact (((State.editSlot_rests _ .of_same).trans (State.post_rests _ _)).trans (State.tryClose_rests _ i)).poolLaws l2

variable (s) in
theorem State.joinSegment_lawsKept (i : SlotNo) (g : Segment) : s.LawsKept (s.joinSegment i g) := by
  unfold State.joinSegment
  exact (((s.editSlot_rests .of_same).trans (State.joinRun_rests _ i)).lawsKept).trans (.ite (fun _ => State.enterAborting_lawsKept _ i .gap) fun _ => .refl _)

variable (s) in
theorem State.takeSegment_lawsKept (i : SlotNo) (g : Segment) : s.LawsKept (s.takeSegment i g) := by
  unfold State.takeSegment
  refine .ite (fun _ => (s.answerCell_rests i _ _ _).lawsKept) fun _ => .ite (fun _ => (s.answerCell_rests i _ _ _).lawsKept) fun _ => .ite (fun _ => ?_) fun _ => ?_
  · exact ((s.editSlot_rests .of_same).trans (State.answerCell_rests _ i _ _ _)).lawsKept
  · split
    · exact .ite (fun _ => s.enterAborting_lawsKept i .overrun) fun _ => s.joinSegment_lawsKept i g
    · exact s.joinSegment_lawsKept i g

variable (s) in
theorem State.takeCells_lawsKept (i : SlotNo) (half : List Byte) : s.LawsKept (s.takeCells i half) :=
  .foldl (fun s _ => .ite (fun _ => .refl s) fun _ => s.takeSegment_lawsKept i _) _ s

variable (s) in
theorem State.takeHostHalf_lawsKept (i : SlotNo) (half : List Byte) : s.LawsKept (s.takeHostHalf i half) := by
  unfold State.takeHostHalf
  dsimp only
  refine State.LawsKept.trans ?_ (State.refresh_rests _ i).lawsKept
  refine State.LawsKept.trans ?_ (.ite (fun _ => State.takeCells_lawsKept _ i half) fun _ => .refl _)
  refine .trans (.trans (.trans ?_ (State.holdStored_lawsKept _ i _)) (State.holdTaken_rests _ i _).lawsKept) (State.editSlot_rests _ .of_same).lawsKept
  refine State.LawsKept.trans ?_ (.ite (fun _ => (State.editSlot_rests _ .of_same).lawsKept) fun _ => .refl _)
  exact .ite (fun _ => .refl s) fun _ => ((s.editSlot_rests .of_same).trans (State.post_rests _ _)).lawsKept

variable (s) in
theorem State.period_stays : s.Stays s.period := by
  unfold State.period
  split
  · exact (s.abortStream_lawsKept _ _).stays
  · split
    · exact .refl s
    split
    · exact (s.begun_rests.trans (State.tick_rests _)).stays
    · exact (State.Rests.of_same (s := s)).stays

end Sys2Proof.Machine

namespace Sys2Proof.Machine

set_option Elab.async false

variable {s t : State} {ops : List Op} {op : Op}

/-! ### Acceptance (R68, R69) -/

/-- What leaves its source as an operation: one that has not begun, at the bucket of the record it names, and named as often as before. -/
structure State.Offered (s t : State) (op : Op) : Prop where
  form : s.Canonical → t.Canonical
  numbers : s.NumbersKept t
  pool : t.pool = s.pool
  slots : ∀ i, (s.slot i).Rests (t.slot i)
  firms : ∀ ops, (t.firmsOver (ops ++ [op])).Perm (s.firmsOver ops)
  withdraws : ∀ ops, (t.withdrawsOver (ops ++ [op])).Perm (s.withdrawsOver ops)
  fresh : op.halt = none
  bucket : ∀ r p, (op.kind = .firm r ∨ op.kind = .withdraw r) → s.record r = some p → op.bucket = p.bucket

theorem State.recordBucket_eq {r : Nat} {p : PoolRecord} (record : s.record r = some p) : s.recordBucket r = p.bucket := by rw [State.recordBucket, record]

/-- A kind that names no record leaves the records named as they were. -/
theorem State.Offered.of_rests (h : s.Rests t) (fresh : op.halt = none) (firms : op.kind.firms = none) (withdraws : op.kind.withdraws = none) : s.Offered t op where
  form := h.form
  numbers := h.numbers
  pool := h.pool
  slots := h.slots
  firms ops := by
    rw [State.firmsOver, h.firming, List.filterMap_append]
    simp [State.firmsOver, firms]
  withdraws ops := by
    rw [State.withdrawsOver, h.withdrawal, List.filterMap_append]
    simp [State.withdrawsOver, withdraws]
  fresh := fresh
  bucket r p k := by
    rcases k with k | k
    · rw [k] at firms; cases firms
    · rw [k] at withdraws; cases withdraws

theorem perm_rotate {α : Type} (a : α) (l m : List α) : (l ++ (m ++ [a])).Perm (a :: l ++ m) := by
  rw [← List.append_assoc]
  exact (List.perm_append_singleton a (l ++ m))

theorem State.offer_offered {a : Source} (e : s.offer a = some (op, t)) : s.Offered t op := by
  cases a with
  | lanes =>
    simp only [State.offer] at e
    split at e <;> cases e
    exact .of_rests (.trans .of_same (State.editSlot_rests _ .of_same)) rfl rfl rfl
  | firming =>
    simp only [State.offer] at e
    split at e <;> cases e
    rename_i r rest h
    refine ⟨State.canonical_of_same rfl rfl, .of_same, rfl, fun _ => .refl _, fun ops => ?_, fun ops => ?_, rfl, fun q p k record => ?_⟩
    · simp only [State.firmsOver, h, List.filterMap_append]
      exact perm_rotate _ _ _
    · simp [State.withdrawsOver, OpKind.withdraws]
    · rcases k with k | k <;> cases k
      exact State.recordBucket_eq record
  | withdrawal =>
    simp only [State.offer] at e
    split at e <;> cases e
    rename_i r rest h
    refine ⟨State.canonical_of_same rfl rfl, .of_same, rfl, fun _ => .refl _, fun ops => ?_, fun ops => ?_, rfl, fun q p k record => ?_⟩
    · simp [State.firmsOver, OpKind.firms]
    · simp only [State.withdrawsOver, h, List.filterMap_append]
      exact perm_rotate _ _ _
    · rcases k with k | k <;> cases k
      exact State.recordBucket_eq record
  | requests =>
    simp only [State.offer] at e
    split at e <;> cases e
    rename_i o rest h
    cases o <;> exact .of_rests .of_same rfl rfl rfl
  | scan =>
    simp only [State.offer] at e
    split at e <;> cases e
    exact .of_rests .of_same rfl rfl rfl

/-- An operation that leaves its source joins the operations in flight behind them. -/
theorem State.PoolLaws.accept (l : s.PoolLaws ops none) (h : s.Offered t op) : t.PoolLaws (ops ++ [op]) none := by
  have record (r : Nat) : t.record r = s.record r := by rw [State.record, h.pool, State.record]
  have own {o : Op} (m : o ∈ ops ++ [op]) : o ∈ ops ∨ o = op := by simpa using m
  refine ⟨h.form l.canonical, (((h.firms ops).append (h.withdraws ops)).nodup_iff).2 l.once, fun r m => ?_, fun r m => ?_, fun i r m => ?_,
    fun i => (l.listed_once i).sublist (h.slots i).listed, fun i => ?_, fun i isOpen c m r held => ?_, fun r p e d w => .inr ?_,
    List.pairwise_append.2 ⟨l.begun_first, List.pairwise_singleton _ _, fun a _ b m begun => ?_⟩, fun o m r p k e => ?_, fun o m r live w rest e => ?_,
    fun o m r w e => ?_⟩
  · rw [record]; exact l.firming r ((h.firms ops).mem_iff.1 m)
  · rw [record]; exact l.withdrawing r ((h.withdraws ops).mem_iff.1 m)
  · rw [record]; exact l.listed i r ((h.slots i).listed.subset m)
  · simp only [record]; exact (l.ascending i).sublist (h.slots i).listed
  · obtain ⟨o, d, m, e, k⟩ := (h.slots i).held isOpen c m r held
    rw [record, ← e]; exact l.held i o d m r k
  · obtain ⟨o, m, live⟩ := (l.lost_waiters r p (record r ▸ e) d w).resolve_left nofun
    exact ⟨o, List.mem_append_left _ m, live⟩
  · rw [List.mem_singleton.1 m] at begun
    exact absurd h.fresh begun
  · rw [record] at e
    rcases own m with m | rfl
    · exact l.at_bucket o m r p k e
    · exact h.bucket r p k e
  · rw [record, ((h.firms ops).append (h.withdraws ops)).mem_iff]
    rcases own m with m | rfl
    · exact l.halted_loss o m r live w rest e
    · rw [h.fresh] at e; cases e
  · rw [record]
    rcases own m with m | rfl
    · exact l.halted_walk o m r w e
    · rw [h.fresh] at e; cases e

theorem execOperationAccepted_stays (e : execOperationAccepted s = .next t) : s.Stays t := by
  unfold execOperationAccepted at e
  refine s.settled_stays.trans ?_
  generalize s.settled = s at *
  dsimp only at e
  split at e
  · cases e
  · rename_i places
    split at e
    · cases e
    · split at e <;> cases e
      rename_i a _ op u offered
      have h := State.offer_offered offered
      have inflight : u.index.inflight = s.index.inflight := h.numbers.inflight
      refine ⟨h.form, fun _ => ?_, fun n => { h.numbers.numbers n with }, fun w => ?_⟩
      · simp only [State.putInFlight, List.length_append, inflight, List.length_singleton]
        omega
      · have l : u.PoolLaws (u.index.inflight ++ [op]) none := inflight ▸ State.PoolLaws.accept w h
        exact l.of_rests (State.canonical_of_same rfl rfl l.canonical)

/-! ### Completions and descriptor writes (R70, R78, R79, R87) -/

theorem State.NumbersOk.settleOp {k : OpKey} : ∀ {z : RunEnd}, z.1.NumbersOk → (State.settleOp k z).NumbersOk
  | (_, none), n => { n with }
  | (_, some _), n => { n with }

theorem State.complete_stays (key : OpKey) (ecc : Vector Ecc 16) (e : s.complete key ecc = .next t) : s.Stays t := by
  unfold State.complete at e
  split at e <;> cases e
  rename_i op ready
  refine ((s.carryOut_keeps op ecc).stays (fun n => ?_) fun w => w.carryOut ready ecc).trans (s.endEvent_rests _).stays
  exact (State.refreshAll_rests _).numbers.numbers (((s.runFrom_numbersKept op _).numbers n).settleOp)

theorem State.NumbersOk.resume (n : s.NumbersOk) (k : OpKey) (a : Alloc) : (s.resume k a).NumbersOk := by
  unfold State.resume
  split
  · exact n
  · exact ((s.goOn_numbersKept _ a).numbers n).settleOp

theorem State.NumbersOk.resumeAll (n : s.NumbersOk) : s.resumeAll.NumbersOk := by
  unfold State.resumeAll
  have n0 : ({ s with index := { s.index with waiting := [] } } : State).NumbersOk := { n with }
  dsimp only
  generalize ({ s with index := { s.index with waiting := [] } } : State) = t at n0 ⊢
  have n1 := (t.allocateAll_numbersKept s.index.waiting).numbers n0
  generalize t.allocateAll s.index.waiting = z at n1 ⊢
  obtain ⟨given, u⟩ := z
  refine (State.refreshAll_rests _).numbers.numbers ?_
  dsimp only at n1 ⊢
  clear n0
  induction given generalizing u with
  | nil => exact n1
  | cons g given ih => exact ih _ (n1.resume g.1 g.2)

variable (s) in
theorem State.resumeAll_stays : s.Stays s.resumeAll := s.resumeAll_keeps.stays (·.resumeAll) (·.resumeAll)

/-- The oldest descriptor write leaves the list, and the laws of the numbers stand. -/
theorem State.NumbersOk.writeMade {w : DescWrite} {rest : List DescWrite} (n : s.NumbersOk) (writes : s.index.writes = w :: rest) (desc : Descriptor) :
    ({ s with mem := { s.mem with desc := desc }, index := { s.index with writes := rest } } : State).NumbersOk := by
  have sub : rest.Sublist s.index.writes := writes ▸ List.sublist_cons_self w rest
  exact { n with
    one_reserve := (sub.countP_le).trans n.one_reserve
    reserve_raises := fun v m => n.reserve_raises v (sub.subset m)
    format_done := fun v m => n.format_done v (sub.subset m)
    one_done := (sub.countP_le).trans n.one_done }

/-- Of one write of a use at most, none is left once it is made. -/
theorem none_left {w : DescWrite} {rest : List DescWrite} {use : WriteFor} (own : w.use = use) (one : (w :: rest).countP (fun w => w.use == use) ≤ 1) :
    ∀ v ∈ rest, v.use ≠ use := by
  intro v m e
  have : 0 < rest.countP fun w => w.use == use := List.countP_pos_iff.2 ⟨v, m, beq_iff_eq.2 e⟩
  rw [List.countP_cons_of_pos (by simpa using own)] at one
  omega

/-- A reservation that is made raises Reserved Through, and no other is outstanding (R78). -/
theorem State.NumbersOk.reserved {w : DescWrite} {rest : List DescWrite} (n : s.NumbersOk) (writes : s.index.writes = w :: rest) (use : w.use = .reserve)
    (desc : Descriptor) : ({ s with mem := { s.mem with desc := desc }, index := { s.index with writes := rest, copy := { s.index.copy with reserved := w.desc.reserved } } } : State).NumbersOk := by
  obtain ⟨raises, cap⟩ := n.reserve_raises w (by rw [writes]; exact List.mem_cons_self) use
  have none := none_left use (writes ▸ n.one_reserve)
  exact { n.writeMade writes desc with
    counter_le := fun h => (n.counter_le h).trans raises
    reserved_le := cap
    reserve_raises := fun v m e => absurd e (none v m)
    format_reserved := fun j h c => (n.format_reserved j h c).trans raises }

/-- The last write of a FORMAT makes the index READY with its counter (R87). -/
theorem State.NumbersOk.formatted {w : DescWrite} {rest : List DescWrite} {j : FormatJob} (n : s.NumbersOk) (writes : s.index.writes = w :: rest)
    (use : w.use = .formatDone) (format : s.index.format = some j) (desc : Descriptor) :
    ({ s with mem := { s.mem with desc := desc }, index := { s.index with
      writes := rest, state := .ready, counter := j.counterStart, occupancy := 0, fill := .normal, fillCount := 0, format := none } } : State).NumbersOk := by
  obtain ⟨k, found, cleared⟩ := n.format_done w (by rw [writes]; exact List.mem_cons_self) use
  rw [format] at found; cases found
  have none := none_left use (writes ▸ n.one_done)
  exact { n.writeMade writes desc with
    counter_le := fun _ => n.format_reserved j format cleared
    format_state := nofun
    format_reserved := nofun
    format_done := fun v m e => absurd e (none v m) }

theorem State.writeDone_stays {w : DescWrite} {rest : List DescWrite} (writes : s.index.writes = w :: rest) : s.Stays (s.writeDone w rest) := by
  have pool {u : State} (canonical : s.Canonical → u.Canonical) (p : u.pool = s.pool) (i : u.index.inflight = s.index.inflight) (f : u.index.firming = s.index.firming)
      (g : u.index.withdrawal = s.index.withdrawal) (slots : u.slots = s.slots) (l : s.PoolWhole) : u.PoolWhole := by
    unfold State.PoolWhole
    rw [i]
    exact State.PoolLaws.of_rests l (canonical l.canonical) p f g fun i => by rw [State.slot, State.slot, slots]; exact .refl _
  unfold State.writeDone
  dsimp only
  split
  · rename_i use
    refine .trans ?_ (State.resumeAll_stays _)
    exact ⟨State.canonical_of_same rfl rfl, id, fun n => n.reserved writes use _, pool (State.canonical_of_same rfl rfl) rfl rfl rfl rfl rfl⟩
  · refine .trans ?_ (State.answer_rests _ _ _ _).stays
    exact ⟨State.canonical_of_same rfl rfl, id, fun n => n.writeMade writes _, pool (State.canonical_of_same rfl rfl) rfl rfl rfl rfl rfl⟩
  · exact ⟨State.canonical_of_same rfl rfl, id, fun n => n.writeMade writes _, pool (State.canonical_of_same rfl rfl) rfl rfl rfl rfl rfl⟩
  · rename_i use
    split
    · exact ⟨State.canonical_of_same rfl rfl, id, fun n => n.writeMade writes _, pool (State.canonical_of_same rfl rfl) rfl rfl rfl rfl rfl⟩
    · rename_i j format
      refine .trans ?_ (State.answer_rests _ _ _ _).stays
      exact ⟨State.canonical_of_same rfl rfl, id, fun n => n.formatted writes use format _, pool (State.canonical_of_same rfl rfl) rfl rfl rfl rfl rfl⟩

theorem execDescriptorWriteComplete_stays (ecc : Ecc) (e : execDescriptorWriteComplete ecc s = .next t) : s.Stays t := by
  unfold execDescriptorWriteComplete at e
  refine s.settled_stays.trans ?_
  generalize s.settled = s at *
  dsimp only at e
  split at e
  · cases e
  · split at e
    · cases e
    · rename_i w rest writes
      split at e <;> cases e
      · exact (State.writeDone_stays writes).trans (s.endEvent_rests _).stays
      · exact ((s.editStats_rests _).stays.trans (State.writeDone_stays (s := s.editStats _) writes)).trans (s.endEvent_rests _).stays
      · exact (State.Rests.trans (t := { s with mem := { s.mem with desc := w.desc }, index := { s.index with writeFailed := true } }) .of_same
          (State.enterFaulted_rests _ _)).stays

/-! ### FORMAT (R86, R87) -/

theorem State.acceptFormat_stays (cell : ReqNo) {k n : Nat} (epoch : BitVec 32) (accepted : s.checkFormat k n = none) :
    s.Stays (s.acceptFormat cell k n epoch) := by
  obtain ⟨state, range⟩ : s.index.state ≠ .formatting ∧ n < 2 ^ 40 := by
    unfold State.checkFormat at accepted
    split at accepted
    · cases accepted
    · rename_i h
      split at accepted
      · cases accepted
      · rename_i r
        exact ⟨fun e => h (.inl e), by omega⟩
  have fill := s.setFill_rests .normal 0
  refine fill.stays.trans ?_
  have state' : (s.setFill .normal 0).index.state ≠ .formatting := by rw [fill.index.state]; exact state
  unfold State.acceptFormat
  generalize s.setFill .normal 0 = u at state'
  refine ⟨State.canonical_of_same rfl rfl, id, fun m => ?_, fun l => State.PoolLaws.of_rests l (State.canonical_of_same rfl rfl l.canonical)⟩
  exact { m with
    counter_le := fun h => absurd rfl h
    one_reserve := by simpa [State.issueWrite] using m.one_reserve
    reserve_raises := fun w h => by
      rcases List.mem_append.1 h with h | h
      · exact m.reserve_raises w h
      · rw [List.mem_singleton.1 h]; exact nofun
    format_state := fun j h => by cases h; exact ⟨rfl, range.le⟩
    format_reserved := fun j h => by cases h; exact nofun
    format_done := fun w h use => by
      rcases List.mem_append.1 h with h | h
      · obtain ⟨j, f, -⟩ := m.format_done w h use
        exact absurd (m.format_state j f).1 state'
      · rw [List.mem_singleton.1 h] at use; cases use
    one_done := by simpa [State.issueWrite] using m.one_done }

theorem State.clearFormat_stays {j : FormatJob} (format : s.index.format = some j) (writes : s.index.writes = []) : s.Stays (s.clearFormat j) := by
  have form (h : s.Canonical) : (s.clearFormat j).Canonical := ⟨tableWf_filter _ h.1, h.2⟩
  refine ⟨form, id, fun m => ?_, fun l => State.PoolLaws.of_rests l (form l.canonical)⟩
  obtain ⟨formatting, range⟩ := m.format_state j format
  have own : (s.clearFormat j).index.writes = [{ desc := j.descriptor s.index.copy.generation, use := .formatDone }] := by
    simp [State.clearFormat, State.issueWrite, writes]
  exact {
    counter_le := fun h => absurd formatting h
    reserved_le := range
    one_reserve := by rw [own]; exact Nat.zero_le 1
    reserve_raises := fun w h use => by
      rw [own] at h
      rw [List.mem_singleton.1 h] at use; cases use
    format_state := fun k h => by cases h; exact ⟨formatting, range⟩
    format_reserved := fun k h _ => by cases h; exact le_rfl
    format_done := fun _ _ _ => ⟨_, rfl, rfl⟩
    one_done := by rw [own]; exact le_rfl }

theorem execFormatClear_stays (e : execFormatClear s = .next t) : s.Stays t := by
  unfold execFormatClear at e
  refine s.settled_stays.trans ?_
  generalize s.settled = s at *
  dsimp only at e
  split at e
  · cases e
  · rename_i j format
    split at e <;> cases e
    rename_i may
    refine State.clearFormat_stays format ?_
    obtain ⟨-, may⟩ := may
    simp only [State.formatMayClear, Bool.and_eq_true, List.isEmpty_iff] at may
    exact may.2

/-! ### Resets (R89, R90) -/

/-- With every store empty the laws of the Pool hold. -/
theorem State.PoolWhole.of_empty (canonical : s.Canonical) (slots : s.slots = Vector.replicate 1024 .fresh) (pool : s.pool = [])
    (firming : s.index.firming = []) (withdrawal : s.index.withdrawal = []) (inflight : s.index.inflight = []) : s.PoolWhole := by
  have slot (i : SlotNo) : s.slot i = .fresh := by rw [State.slot, slots]; exact Vector.get_replicate _ _ i
  have record (r : Nat) : s.record r = none := by rw [State.record, pool]; rfl
  unfold State.PoolWhole
  rw [inflight]
  have firms : s.firmsOver [] = [] := by rw [State.firmsOver, firming]; rfl
  have withdraws : s.withdrawsOver [] = [] := by rw [State.withdrawsOver, withdrawal]; rfl
  constructor <;> simp [canonical, slot, firms, withdraws, record, Slot.fresh]

theorem State.afterReset_stays (k : ResetKind) {index : IndexUnit} {mem : IndexMemory} (n : Nat) (ways : mem.ways = [] ∨ mem.ways = s.mem.ways)
    (firming : index.firming = []) (withdrawal : index.withdrawal = []) (inflight : index.inflight = []) (writes : index.writes = []) (format : index.format = none)
    (counter : index.counter ≤ index.copy.reserved) (reserved : index.copy.reserved ≤ 2 ^ 40) : s.Stays (s.afterReset k index mem n) := by
  have form (h : s.Canonical) : (s.afterReset k index mem n).Canonical := by
    refine ⟨?_, .nil, nofun⟩
    rcases ways with e | e
    · exact (congrArg tableWf e).mpr .nil
    · exact (congrArg tableWf e).mpr h.1
  refine ⟨form, fun _ => ?_, fun _ => ?_, fun l => .of_empty (form l.canonical) rfl rfl firming withdrawal inflight⟩
  · rw [show (s.afterReset k index mem n).index = index from rfl, inflight]; exact Nat.zero_le _
  · have index_eq : (s.afterReset k index mem n).index = index := rfl
    exact { counter_le := fun _ => counter, reserved_le := reserved
            one_reserve := by simp [index_eq, writes], reserve_raises := by simp [index_eq, writes]
            format_state := by simp [index_eq, format], format_reserved := by simp [index_eq, format]
            format_done := by simp [index_eq, writes], one_done := by simp [index_eq, writes] }

theorem State.warmReset_stays (point : ResetPoint) (ecc : Ecc) : s.Stays (s.warmReset point ecc) := by
  unfold State.warmReset IndexUnit.afterWarm
  dsimp only
  by_cases usable : (s.descAtReset point.made).usable ecc = true
  · rw [if_pos usable]
    refine State.afterReset_stays .warm _ (.inr rfl) rfl rfl rfl rfl rfl le_rfl ?_
    simp only [Descriptor.usable, Bool.and_eq_true, decide_eq_true_eq] at usable
    exact usable.2
  · rw [if_neg usable]
    exact State.afterReset_stays .warm _ (.inr rfl) rfl rfl rfl rfl rfl le_rfl (Nat.zero_le _)

end Sys2Proof.Machine

namespace Sys2Proof.Machine

set_option Elab.async false

variable {s t : State}

/-! ### The requests of a sweep (R13, R34 to R39, R67, R86, R137, R143, R156) -/

/-- The next request leaves the sweep, and nothing else changes. -/
theorem State.nextRequest_frame {cell : ReqNo} {r : Request} (e : s.nextRequest cell = some (r, t)) : t = { s with sweep := t.sweep } := by
  unfold State.nextRequest at e
  split at e
  · split at e <;> cases e
    rfl
  all_goals cases e

theorem State.nextRequest_rests {cell : ReqNo} {r : Request} (e : s.nextRequest cell = some (r, t)) : s.Rests t := by
  rw [State.nextRequest_frame e]
  exact .of_same

/-- The next request leaves the sweep, and what it then does keeps the laws. -/
theorem State.Stays.request {u v : State} {cell : ReqNo} {r : Request} (e : s.nextRequest cell = some (r, u)) (h : u.Stays v) : s.Stays v :=
  (State.nextRequest_rests e).stays.trans h

/-- A request that is one event with its answer (R157, R166). -/
theorem State.Stays.answer {u v : State} {cell : ReqNo} {r : Request} (e : s.nextRequest cell = some (r, u)) (h : u.Stays v)
    {st : Status} {res : Option ReqResult} : s.Stays (s.endEvent (v.answer cell st res)) :=
  ((State.Stays.request e h).trans (v.answer_rests cell st res).stays).trans (s.endEvent_rests _).stays

theorem execFormat_stays (cell : ReqNo) (e : execFormat cell s = .next t) : s.Stays t := by
  unfold execFormat at e
  refine s.settled_stays.trans ?_
  generalize s.settled = s at *
  dsimp only at e
  split at e
  · rename_i k start epoch u next
    split at e <;> cases e
    · exact .answer next (.refl _)
    · rename_i accepted
      have same : u.checkFormat k start = none := by rw [State.nextRequest_frame next]; exact accepted
      exact .request next (State.acceptFormat_stays cell _ same)
  · cases e

theorem execSetClass_stays (cell : ReqNo) (e : execSetClass cell s = .next t) : s.Stays t := by
  unfold execSetClass at e
  refine s.settled_stays.trans ?_
  generalize s.settled = s at *
  dsimp only at e
  split at e
  · rename_i u next
    split at e <;> cases e
    · exact .answer next (State.Rests.of_same (s := u)).stays
    · exact .answer next (.refl _)
  · cases e

theorem execOpenStream_stays (cell : ReqNo) (half : List Byte) (e : execOpenStream cell half s = .next t) : s.Stays t := by
  unfold execOpenStream at e
  refine s.settled_stays.trans ?_
  generalize s.settled = s at *
  dsimp only at e
  split at e
  · rename_i next
    split at e
    · cases e; exact .answer next (.refl _)
    · split at e <;> cases e
      exact .answer next (State.openSlot_rests _ _ _ _ _ _ _).stays
  · cases e

theorem execClose_stays (cell : ReqNo) (e : execClose cell s = .next t) : s.Stays t := by
  unfold execClose at e
  refine s.settled_stays.trans ?_
  generalize s.settled = s at *
  dsimp only at e
  split at e
  · rename_i next
    split at e
    · cases e; exact .answer next (.refl _)
    · split at e
      · cases e; exact .answer next (.refl _)
      · obtain rfl := Host.Outcome.next.inj e
        exact .answer next (State.closeStream_rests _ _ _).stays
  · cases e

theorem execAbort_stays (cell : ReqNo) (e : execAbort cell s = .next t) : s.Stays t := by
  unfold execAbort at e
  refine s.settled_stays.trans ?_
  generalize s.settled = s at *
  dsimp only at e
  split at e
  · rename_i next
    split at e
    · cases e; exact .answer next (.refl _)
    · split at e <;> cases e
      · exact .answer next ((State.enterAborting_lawsKept _ _ _).trans (State.refresh_rests _ _).lawsKept).stays
      · exact .answer next (.refl _)
  · cases e

theorem execRelease_stays (cell : ReqNo) (e : execRelease cell s = .next t) : s.Stays t := by
  unfold execRelease at e
  refine s.settled_stays.trans ?_
  generalize s.settled = s at *
  dsimp only at e
  split at e
  · rename_i next
    split at e
    · cases e; exact .answer next (.refl _)
    · split at e <;> obtain rfl := Host.Outcome.next.inj e
      · exact .answer next (State.releaseSlot_rests _ _).stays
      · exact .answer next (State.releaseSlot_rests _ _).stays
      all_goals exact .answer next (.refl _)
  · cases e

theorem execSeed_stays (cell : ReqNo) (e : execSeed cell s = .next t) : s.Stays t := by
  unfold execSeed at e
  refine s.settled_stays.trans ?_
  generalize s.settled = s at *
  dsimp only at e
  split at e
  · rename_i u next
    split at e
    · cases e; exact .answer next (.refl _)
    · split at e
      · cases e; exact .answer next (.refl _)
      · split at e <;> cases e
        · exact .answer next (.refl _)
        · exact .request next (State.Rests.of_same (s := u)).stays
  · cases e

theorem execRetire_stays (cell : ReqNo) (e : execRetire cell s = .next t) : s.Stays t := by
  unfold execRetire at e
  refine s.settled_stays.trans ?_
  generalize s.settled = s at *
  dsimp only at e
  split at e
  · rename_i u next
    split at e <;> cases e
    · exact .answer next (.refl _)
    · exact .request next (State.Rests.of_same (s := u)).stays
  · cases e

theorem State.acceptEpoch_stays (cell : ReqNo) (value : BitVec 32) : s.Stays (s.acceptEpoch cell value) := by
  refine ⟨State.canonical_of_same rfl rfl, id, fun m => ?_, fun l => State.PoolLaws.of_rests l (State.canonical_of_same rfl rfl l.canonical)⟩
  exact { m with
    one_reserve := by simpa [State.acceptEpoch, State.issueWrite] using m.one_reserve
    reserve_raises := fun w h use => by
      rcases List.mem_append.1 h with h | h
      · exact m.reserve_raises w h use
      · rw [List.mem_singleton.1 h] at use; cases use
    format_done := fun w h use => by
      rcases List.mem_append.1 h with h | h
      · exact m.format_done w h use
      · rw [List.mem_singleton.1 h] at use; cases use
    one_done := by simpa [State.acceptEpoch, State.issueWrite] using m.one_done }

theorem execSetEpoch_stays (cell : ReqNo) (e : execSetEpoch cell s = .next t) : s.Stays t := by
  unfold execSetEpoch at e
  refine s.settled_stays.trans ?_
  generalize s.settled = s at *
  dsimp only at e
  split at e
  · rename_i next
    split at e
    · cases e; exact .answer next (.refl _)
    · split at e <;> cases e
      · exact .answer next (.refl _)
      · exact .request next (State.acceptEpoch_stays _ _)
  · cases e

theorem execSnapshotSlot_stays (cell : ReqNo) (e : execSnapshotSlot cell s = .next t) : s.Stays t := by
  unfold execSnapshotSlot at e
  refine s.settled_stays.trans ?_
  generalize s.settled = s at *
  dsimp only at e
  split at e
  · rename_i next
    split at e
    · cases e
    · split at e
      · cases e; exact .answer next (.refl _)
      · split at e <;> cases e
        · exact .answer next (.refl _)
        · exact .answer next (State.post_rests _ _).stays
  · cases e

theorem execSnapshotEngine_stays (cell : ReqNo) (e : execSnapshotEngine cell s = .next t) : s.Stays t := by
  unfold execSnapshotEngine at e
  refine s.settled_stays.trans ?_
  generalize s.settled = s at *
  dsimp only at e
  split at e
  · rename_i u next
    split at e <;> cases e
    exact .answer next (State.Rests.trans (t := { u with index := { u.index with error := false } }) .of_same (State.post_rests _ _)).stays
  · cases e

theorem execUnknownRequest_stays (cell : ReqNo) (e : execUnknownRequest cell s = .next t) : s.Stays t := by
  unfold execUnknownRequest at e
  refine s.settled_stays.trans ?_
  generalize s.settled = s at *
  dsimp only at e
  split at e
  · rename_i next
    cases e; exact .answer next (.refl _)
  · cases e

/-! ### The Sweep Unit, the Timebase and the Engine Controller (R17, R55, R58, R101, R153 to R159, R171) -/

theorem execSlotHostHalfTaken_stays (i : SlotNo) (post : BitVec 32) (half : List Byte) (e : execSlotHostHalfTaken i post half s = .next t) : s.Stays t := by
  unfold execSlotHostHalfTaken at e
  refine s.settled_stays.trans ?_
  generalize s.settled = s at *
  dsimp only at e
  split at e
  · rename_i left _
    split at e
    · split at e
      · cases e; exact (State.Rests.of_same (s := s)).stays
      · split at e <;> cases e
        exact (State.Rests.of_same (s := s) (t := { s with sweep := { s.sweep with flight := some (.slots left) } })).stays.trans
          ((State.takeHostHalf_lawsKept _ i half).stays.trans (State.endEvent_rests _ _).stays)
    · cases e
  all_goals cases e

theorem execRequestTableRead_stays (table : List (List Byte)) (e : execRequestTableRead table s = .next t) : s.Stays t := by
  unfold execRequestTableRead at e
  refine s.settled_stays.trans ?_
  generalize s.settled = s at *
  dsimp only at e
  split at e
  · split at e
    · cases e
    · split at e <;> cases e
      exact (State.Rests.of_same (s := s)).stays
  all_goals cases e

theorem execSweepEnd_stays (map : List Byte) (e : execSweepEnd map s = .next t) : s.Stays t := by
  unfold execSweepEnd at e
  refine s.settled_stays.trans ?_
  generalize s.settled = s at *
  dsimp only at e
  split at e
  · cases e
  · split at e <;> cases e
    exact ((((s.evaluateFill_rests.trans (State.writeConsumedAll_rests _)).trans (State.post_rests _ _)).trans (State.closeSweep_rests _ map)).trans
      (s.issued_rests _)).stays

theorem execSweepNow_stays (v : BitVec 32) (map : List Byte) (e : execSweepNow v map s = .next t) : s.Stays t := by
  unfold execSweepNow at e
  refine s.settled_stays.trans ?_
  generalize s.settled = s at *
  dsimp only at e
  repeat' split at e
  all_goals cases e
  all_goals exact State.Rests.stays .of_same

theorem execSweepCountdownExpiry_stays (map : List Byte) (e : execSweepCountdownExpiry map s = .next t) : s.Stays t := by
  unfold execSweepCountdownExpiry at e
  refine s.settled_stays.trans ?_
  generalize s.settled = s at *
  dsimp only at e
  repeat' split at e
  all_goals cases e
  all_goals exact State.Rests.stays .of_same

theorem execStartComplete_stays (header : List Byte) (table : List (List Byte)) (e : execStartComplete header table s = .next t) : s.Stays t := by
  unfold execStartComplete at e
  refine s.begun_rests.stays.trans ?_
  generalize s.begun = s at *
  dsimp only at e
  repeat' split at e
  all_goals cases e
  · exact (State.Rests.of_same (s := s)).stays
  · exact (State.Rests.of_same (s := s)).stays
  · exact ((s.completeStart_rests _ table).trans (s.issued_rests _)).stays

theorem execLaneTakesSlot_stays (n : LaneNo) (e : execLaneTakesSlot n s = .next t) : s.Stays t := by
  unfold execLaneTakesSlot at e
  refine s.settled_stays.trans ?_
  generalize s.settled = s at *
  dsimp only at e
  split at e
  · split at e
    · cases e
    · rename_i i rest runList
      have left : s.Rests { s with runList := rest } := .of_same
      split at e <;> cases e
      · exact (((left.trans (State.setLane_rests _ n _)).trans (State.continueTurn_rests _ n)).trans (State.endEvent_rests _ _)).stays
      · exact left.stays
  · cases e

theorem execSegmentReadComplete_stays (id : ReadId) (data : List Byte) (e : execSegmentReadComplete id data s = .next t) : s.Stays t := by
  unfold execSegmentReadComplete at e
  refine s.settled_stays.trans ?_
  generalize s.settled = s at *
  cases id with
  | lane n =>
    dsimp only at e
    split at e
    · cases e
    · split at e <;> cases e
      exact ((((s.setLane_rests n _).trans (State.takeBytes_rests _ n _ data)).trans (State.continueTurn_rests _ n)).trans (s.endEvent_rests _)).stays
  | lost =>
    dsimp only at e
    split at e <;> cases e
    exact (State.Rests.of_same (s := s)).stays
  | sweep => cases e
  | openHalf => cases e
  | start => cases e

theorem State.failSweep_rests (s : State) : s.Rests s.failSweep :=
  .trans (t := { s with sweep := { s.sweep with flight := none } }) .of_same (State.enterFaulted_rests _ _)

theorem State.failRead_stays (id : ReadId) (e : s.failRead id = .next t) : s.Stays t := by
  cases id with
  | lane n =>
    simp only [State.failRead] at e
    split at e <;> cases e
    exact ((s.setLane_rests n _).trans (State.enterFaulted_rests _ _)).stays
  | sweep =>
    simp only [State.failRead] at e
    split at e <;> cases e
    exact s.failSweep_rests.stays
  | openHalf =>
    simp only [State.failRead] at e
    split at e <;> cases e
    exact s.failSweep_rests.stays
  | start =>
    simp only [State.failRead] at e
    split at e <;> cases e
    exact (State.Rests.of_same (s := s)).stays
  | lost =>
    simp only [State.failRead] at e
    split at e <;> cases e
    exact (State.Rests.of_same (s := s)).stays

/-- The waiter of an ABORTING stream leaves the record it waits on (R101). -/
theorem execWaiterRemoval_stays (i : SlotNo) (o : Nat) (e : execWaiterRemoval i o s = .next t) : s.Stays t := by
  unfold execWaiterRemoval at e
  refine s.settled_stays.trans ?_
  generalize s.settled = s at *
  dsimp only at e
  split at e
  · cases e; exact .refl _
  · rename_i m found
    split at e <;> cases e
    · rename_i waits
      obtain ⟨aborting, listed⟩ := waits
      refine ((State.LawsKept.mk (s.discardWaiter_keeps _ _).form (s.discardWaiter_numbersKept _ _) fun ops x l => ?_).trans
        (State.refresh_rests _ i).lawsKept).stays.trans (s.endEvent_rests _).stays
      have own : m.waiter = { slot := i, ordinal := o } := by simpa using List.find?_some found
      cases record : s.record m.record with
      | none => simp [State.waitersOf, record] at listed
      | some p => exact (State.discardWaiter_leaves record (by rw [own]; exact aborting ▸ rfl)).serving.laws ops x l
    · exact (State.Rests.of_same (s := s)).stays

theorem execEmission_stays (i : SlotNo) (e : execEmission i s = .next t) : s.Stays t := by
  unfold execEmission at e
  refine s.settled_stays.trans ?_
  generalize s.settled = s at *
  dsimp only at e
  split at e
  · split at e
    · obtain rfl := Host.Outcome.next.inj e
      exact ((s.emit_rests _ _ _ _ _).trans (s.endEvent_rests _)).stays
    · cases e
  · cases e

/-! ### Every command -/

theorem exec_stays (c : Instr) (e : exec c s = .next t) : s.Stays t := by
  cases c with
  | powerOn => cases e; exact State.afterReset_stays .cold _ (.inl rfl) rfl rfl rfl rfl rfl le_rfl (Nat.zero_le _)
  | linkReset point desc => cases e; exact State.warmReset_stays point desc
  | start =>
    simp only [exec, execStart] at e
    repeat' split at e
    all_goals cases e
    all_goals exact (State.Rests.of_same (s := s)).stays
  | startComplete header table => exact execStartComplete_stays header table e
  | quiesce =>
    simp only [exec, execQuiesce] at e
    split at e <;> cases e
    · exact s.settled_stays.trans (State.Rests.of_same (s := s.settled)).stays
    · exact s.settled_stays
  | reset point desc => cases e; exact State.warmReset_stays point desc
  | exchangeBase first data =>
    simp only [exec, execExchangeBase] at e
    split at e <;> cases e
    all_goals exact (State.Rests.of_same (s := s)).stays
  | sweepNow value map => exact execSweepNow_stays value map e
  | servingLevel value =>
    cases e
    have k := State.testDue_rests { s.settled with notice := { s.settled.notice with serving := min value.toNat 7 } }
    exact s.settled_stays.trans (State.Rests.trans (.trans .of_same k) .of_same).stays
  | registerWriteIgnored offset value =>
    simp only [exec, execRegisterWriteIgnored] at e
    split at e <;> cases e
    exact s.begun_rests.stays
  | tick =>
    simp only [exec, execTick] at e
    split at e <;> cases e
    exact s.settled_stays.trans (State.tick_rests _).stays
  | sweepCountdownExpiry map => exact execSweepCountdownExpiry_stays map e
  | idleCountdownExpiry slot =>
    simp only [exec, execIdleCountdownExpiry] at e
    split at e
    · cases e; exact (s.abortStream_lawsKept _ _).stays
    · split at e <;> cases e
      exact s.begun_rests.stays
  | slotHostHalfTaken slot post half => exact execSlotHostHalfTaken_stays slot post half e
  | requestTableRead table => exact execRequestTableRead_stays table e
  | format cell => exact execFormat_stays cell e
  | setClass cell => exact execSetClass_stays cell e
  | openStream cell half => exact execOpenStream_stays cell half e
  | close cell => exact execClose_stays cell e
  | abort cell => exact execAbort_stays cell e
  | release cell => exact execRelease_stays cell e
  | seed cell => exact execSeed_stays cell e
  | retire cell => exact execRetire_stays cell e
  | setEpoch cell => exact execSetEpoch_stays cell e
  | snapshotSlot cell => exact execSnapshotSlot_stays cell e
  | snapshotEngine cell => exact execSnapshotEngine_stays cell e
  | unknownRequest cell => exact execUnknownRequest_stays cell e
  | sweepEnd map => exact execSweepEnd_stays map e
  | laneTakesSlot lane => exact execLaneTakesSlot_stays lane e
  | segmentReadComplete id data => exact execSegmentReadComplete_stays id data e
  | hostReadFailure id => exact s.settled_stays.trans (State.failRead_stays id e)
  | readTimeout id => exact s.settled_stays.trans (State.failRead_stays id e)
  | operationAccepted => exact execOperationAccepted_stays e
  | lookupInsertComplete slot ordinal ecc => exact s.settled_stays.trans (State.complete_stays _ ecc e)
  | firmComplete record ecc => exact s.settled_stays.trans (State.complete_stays _ ecc e)
  | withdrawComplete record ecc => exact s.settled_stays.trans (State.complete_stays _ ecc e)
  | waiterRemoval slot ordinal => exact execWaiterRemoval_stays slot ordinal e
  | seedComplete cell ecc => exact s.settled_stays.trans (State.complete_stays _ ecc e)
  | retireComplete cell ecc => exact s.settled_stays.trans (State.complete_stays _ ecc e)
  | scanComplete bucket ecc => exact s.settled_stays.trans (State.complete_stays _ ecc e)
  | descriptorWriteComplete ecc => exact execDescriptorWriteComplete_stays ecc e
  | formatClear => exact execFormatClear_stays e
  | emission slot => exact execEmission_stays slot e
  | enterStopped =>
    simp only [exec, execEnterStopped] at e
    split at e <;> cases e
    exact s.settled_stays.trans (State.Rests.of_same (s := s.settled)).stays

/-- A step is a command on the rest of the queue, or a period of the reference clock. -/
theorem step_stays (next : step s = .next t) : s.Stays t := by
  unfold step at next
  split at next
  · rename_i c rest _
    exact (State.Rests.of_same (s := s) (t := { s with pending := rest })).stays.trans (exec_stays c next)
  · cases next
    exact s.period_stays

/-- Settles O52: no step breaks the stores' form, takes a 65th place in flight, or breaks the laws of the chunk numbers. -/
theorem storesAndNumbersStayLawful : Obligations.StoresAndNumbersStayLawful := by
  intro s t next
  obtain ⟨form, places, numbers, -⟩ := step_stays next
  exact ⟨form, places, numbers⟩

/-- Settles O56: the laws of the Pool over the operations in flight are kept by each operation that is carried out, halts or goes on. -/
theorem poolStaysLawful : Obligations.PoolStaysLawful := by
  intro s t next canonical pool
  have kept := (step_stays next).pool ((State.poolOk_iff canonical).1 pool)
  exact (State.poolOk_iff kept.canonical).2 kept

end Sys2Proof.Machine

namespace Sys2Proof.Machine

set_option Elab.async false

variable {s t v : State}

/-! ### Resets (R83, R85, R90, R175) -/

/-- The descriptor a warm reset finds is that of the write in hand where it had been made (R79, R90). -/
theorem State.descAtReset_eq {made : Bool} {d : Descriptor}
    (found : made = false ∧ d = s.mem.desc ∨ made = true ∧ s.index.writes = [] ∧ d = s.mem.desc ∨ made = true ∧ ∃ w ws, s.index.writes = w :: ws ∧ d = w.desc) :
    s.descAtReset made = d := by
  unfold State.descAtReset
  rcases found with ⟨rfl, rfl⟩ | ⟨rfl, writes, rfl⟩ | ⟨rfl, w, ws, writes, rfl⟩
  · rfl
  · rw [writes]
  · rw [writes]

theorem Descriptor.usable_iff (d : Descriptor) (ecc : Ecc) :
    d.usable ecc = true ↔ ecc ≠ .uncorrectable ∧ d.valid = true ∧ (12 ≤ d.k ∧ d.k ≤ 24) ∧ d.reserved ≤ 2 ^ 40 := by
  simp only [Descriptor.usable, Bool.and_eq_true, decide_eq_true_eq, bne_iff_ne, and_assoc]

/-- A valid descriptor starts the scan with the counter at Reserved Through (R90). -/
theorem IndexUnit.afterWarm_usable {d : Descriptor} {ecc : Ecc} (usable : d.usable ecc = true) :
    IndexUnit.afterWarm d ecc = { State.reset.index with
      state := .scanning, copy := d, counter := d.reserved
      stats := { EngineStats.zero with corrected := if ecc = .correctable then 1 else 0 } } := by
  have good := ((d.usable_iff ecc).1 usable).1
  unfold IndexUnit.afterWarm
  dsimp only
  rw [if_pos usable, if_neg good]
  rfl

/-- Any other leaves the index UNFORMATTED, with ERROR where it was uncorrectable (R85, R90). -/
theorem IndexUnit.afterWarm_unusable {d : Descriptor} {ecc : Ecc} (unusable : ¬d.usable ecc = true) :
    IndexUnit.afterWarm d ecc = { State.reset.index with
      error := decide (ecc = .uncorrectable)
      stats := { EngineStats.zero with
        corrected := if ecc = .correctable then 1 else 0, uncorrected := if ecc = .uncorrectable then 1 else 0 } } := by
  unfold IndexUnit.afterWarm
  dsimp only
  rw [if_neg unusable]
  rfl

/-- Settles O6: the resets are `State.afterReset`, with the descriptor of `State.descAtReset_eq`. -/
theorem resetsLeaveTheirStates : Obligations.ResetsLeaveTheirStates := by
  rintro s point made ecc d rfl found
  have desc := State.descAtReset_eq found
  refine ⟨s.port.lostReads + s.readsOut, min (Config.unissued s.port.posted.length) s.port.recent, .afterWarm d ecc, Nat.le_add_right _ _, Nat.min_le_right _ _, ?_⟩
  have warm : s.warmReset point ecc = s.afterReset .warm (.afterWarm d ecc) { s.mem with desc := d } point.unissued := by rw [State.warmReset, desc]
  refine ⟨rfl, congrArg Host.Outcome.next warm, congrArg Host.Outcome.next warm, fun good valid low high reserved => ?_, fun bad => ?_⟩
  · exact IndexUnit.afterWarm_usable ((d.usable_iff ecc).2 ⟨good, valid, ⟨low, high⟩, reserved⟩)
  · refine IndexUnit.afterWarm_unusable fun usable => ?_
    obtain ⟨good, valid, ⟨low, high⟩, reserved⟩ := (d.usable_iff ecc).1 usable
    rcases bad with bad | bad | bad | bad | bad
    · exact good bad
    · rw [bad] at valid; cases valid
    all_goals omega

/-! ### FORMAT's request (R82, R86, R87) -/

theorem State.allFree_iff (s : State) : s.allFree = true ↔ ∀ i, (s.slot i).state = .free := by
  simp only [State.allFree, List.all_eq_true, beq_iff_eq]
  refine ⟨fun h i => h _ (by simp [State.slot, Vector.get]), fun h c m => ?_⟩
  obtain ⟨n, lt, rfl⟩ := List.mem_iff_getElem.1 m
  have lt' : n < 1024 := by simpa using lt
  simpa [State.slot, Vector.get] using h ⟨n, lt'⟩

/-- Settles O20: one check after the other, and step 1. -/
theorem formatRequest : Obligations.FormatRequest := by
  rintro s cell k start epoch tag rest h
  have run : exec (.format cell) s = match s.checkFormat k start with
      | some status => .next (s.endEvent ((s.asked rest).answer cell status none))
      | none => .next ((s.asked rest).acceptFormat cell k start epoch) := by
    simp only [exec, execFormat, h.settled, h.next]
    rfl
  have refused {status : Status} (check : s.checkFormat k start = some status) :
      ∃ t, exec (.format cell) s = .next t ∧ s.Answered t cell tag [] status ∧ s.OnlyAnswered t rest := by
    rw [check] at run
    exact ⟨_, run, h.refuse status⟩
  refine ⟨fun busy => refused (if_pos busy), fun idle => ?_⟩
  have idle : ¬(s.index.state = .formatting ∨ s.index.state = .scanning) := by
    rcases idle with e | e <;> simp [e]
  refine ⟨fun range => refused ((if_neg idle).trans (if_pos range)), fun low high below => ?_⟩
  have range : ¬(k < 12 ∨ 24 < k ∨ 2 ^ 40 ≤ start) := by omega
  refine ⟨fun ⟨i, bound⟩ => refused ((if_neg idle).trans ((if_neg range).trans (if_neg fun free => bound (s.allFree_iff.1 free i)))), fun free => ?_⟩
  have passes : s.checkFormat k start = none := (if_neg idle).trans ((if_neg range).trans (if_pos (s.allFree_iff.2 free)))
  rw [run, passes]
  dsimp only
  rw [State.acceptFormat, State.setFill_of_kept 0 (.inr rfl)]
  rfl

end Sys2Proof.Machine

namespace Sys2Proof.Machine

set_option Elab.async false

variable {s t v : State}

/-! ### Answers with result operands (R157) -/

/-- The result operands of an answer are written before its status. -/
theorem State.answer_result {cell : ReqNo} {tag : Tag} (m : v.mayWrite = true) (inflight : (v.requests.get cell).inflight = some tag) (status : Status)
    (r : ReqResult) : v.answer cell status (some r) = (v.post [.reqResult cell r]).answer cell status none := by
  have inflight' : (({ v with port := { v.port with posted := v.port.posted ++ [Posted.mk v.ctl.area (.reqResult cell r)] } } : State).requests.get cell).inflight =
      some tag := inflight
  have posted : v.post [.reqResult cell r] = { v with port := { v.port with posted := v.port.posted ++ [Posted.mk v.ctl.area (.reqResult cell r)] } } := if_pos m
  rw [posted, State.answer_eq (by exact m) inflight']
  unfold State.answer
  rw [if_pos m, inflight]
  dsimp only [State.post, State.mayWrite] at m ⊢
  simp only [m, if_true, State.postAlways, List.map_append, List.append_assoc]
  rfl

/-! ### The requests for maintenance (R67, R137, R138, R141, R143) -/

/-- What the index state answers, by the first rows of R138 and R141 (R67). -/
theorem IndexState.refusal_eq {x : IndexState} {status : Status}
    (h : x = .unformatted ∧ status = .unformatted ∨ (x = .formatting ∨ x = .scanning) ∧ status = .busy) : x.refusal = some status := by
  rcases h with ⟨rfl, rfl⟩ | ⟨rfl | rfl, rfl⟩ <;> rfl

theorem seedRequest (s : State) (cell : ReqNo) (d : Digest) (number length : Nat) (check : BitVec 32) (tag : Tag) (rest : List TakenRequest)
    (h : s.AtRequest cell (.seed d number length check) tag rest) :
    (∀ status, s.index.state = .unformatted ∧ status = .unformatted ∨ (s.index.state = .formatting ∨ s.index.state = .scanning) ∧ status = .busy ∨
        s.index.state = .ready ∧ (length = 0 ∨ 65536 < length ∨ s.index.counter ≤ number) ∧ status = .range →
      ∃ t, exec (.seed cell) s = .next t ∧ s.Answered t cell tag [] status ∧ s.OnlyAnswered t rest) ∧
    (s.index.state = .ready → 1 ≤ length → length ≤ 65536 → number < s.index.counter →
      exec (.seed cell) s = .next ((s.asked rest).queueMaint (.seed { cell := cell, digest := d, number := number, length := length, check := check }))) := by
  have run : exec (.seed cell) s = match s.index.state.refusal with
      | some status => .next (s.endEvent ((s.asked rest).answer cell status none))
      | none =>
        if length = 0 ∨ 65536 < length then .next (s.endEvent ((s.asked rest).answer cell .range none))
        else if s.index.counter ≤ number then .next (s.endEvent ((s.asked rest).answer cell .range none))
        else .next ((s.asked rest).queueMaint (.seed { cell := cell, digest := d, number := number, length := length, check := check })) := by
    simp only [exec, execSeed, h.settled, h.next]
    rfl
  refine ⟨fun status refused => ⟨_, ?_, h.refuse status⟩, fun ready least most below => ?_⟩
  · rw [run]
    rcases refused with state | state | ⟨ready, range, rfl⟩
    · rw [IndexState.refusal_eq (.inl state)]
    · rw [IndexState.refusal_eq (.inr state)]
    · rw [ready]
      dsimp only [IndexState.refusal]
      by_cases bad : length = 0 ∨ 65536 < length
      · rw [if_pos bad]
      · rw [if_neg bad, if_pos (by omega)]
  · rw [run, ready]
    dsimp only [IndexState.refusal]
    rw [if_neg (by omega), if_neg (by omega)]

theorem retireRequest (s : State) (cell : ReqNo) (d : Digest) (number : Nat) (fence : BitVec 32) (tag : Tag) (rest : List TakenRequest)
    (h : s.AtRequest cell (.retire d number fence) tag rest) :
    (∀ status, s.index.state = .unformatted ∧ status = .unformatted ∨ (s.index.state = .formatting ∨ s.index.state = .scanning) ∧ status = .busy →
      ∃ t, exec (.retire cell) s = .next t ∧ s.Answered t cell tag [] status ∧ s.OnlyAnswered t rest) ∧
    (s.index.state = .ready →
      exec (.retire cell) s = .next ((s.asked rest).queueMaint (.retire { cell := cell, digest := d, number := number, fence := fence }))) := by
  have run : exec (.retire cell) s = match s.index.state.refusal with
      | some status => .next (s.endEvent ((s.asked rest).answer cell status none))
      | none => .next ((s.asked rest).queueMaint (.retire { cell := cell, digest := d, number := number, fence := fence })) := by
    simp only [exec, execRetire, h.settled, h.next]
    rfl
  refine ⟨fun status refused => ⟨_, ?_, h.refuse status⟩, fun ready => ?_⟩
  · rw [run, IndexState.refusal_eq refused]
  · rw [run, ready]
    rfl

/-- Behind no reservation a SET_EPOCH's write carries the copy's Reserved Through, -/
theorem State.reservedAhead_of_none (none : ∀ w ∈ s.index.writes, w.use ≠ .reserve) : s.reservedAhead = s.index.copy.reserved := by
  have : s.reservation = .none := by
    rw [State.reservation, List.find?_eq_none]
    exact fun w m => by simpa using none w m
  rw [State.reservedAhead, this]

/-- and behind one that of the reservation (log entry 15). -/
theorem State.reservedAhead_of_some {w : DescWrite} {ws vs : List DescWrite} (writes : s.index.writes = ws ++ w :: vs) (before : ∀ v ∈ ws, v.use ≠ .reserve)
    (use : w.use = .reserve) : s.reservedAhead = w.desc.reserved := by
  have : s.reservation = some w := by
    rw [State.reservation, List.find?_eq_some_iff_append]
    exact ⟨beq_iff_eq.2 use, ws, vs, writes, fun v m => by simpa using before v m⟩
  rw [State.reservedAhead, this]

theorem setEpochRequest (s : State) (cell : ReqNo) (value : BitVec 32) (tag : Tag) (rest : List TakenRequest) (h : s.AtRequest cell (.setEpoch value) tag rest) :
    (∀ status, s.index.state = .unformatted ∧ status = .unformatted ∨ (s.index.state = .formatting ∨ s.index.state = .scanning) ∧ status = .busy →
      ∃ t, exec (.setEpoch cell) s = .next t ∧ s.Answered t cell tag [] status ∧ s.OnlyAnswered t rest) ∧
    (s.index.state = .ready → value < s.index.copy.epoch →
      ∃ t, exec (.setEpoch cell) s = .next t ∧ s.Answered t cell tag [.reqResult cell (.epoch s.index.copy.epoch)] .range ∧ s.OnlyAnswered t rest) ∧
    (s.index.state = .ready → s.index.copy.epoch ≤ value → exec (.setEpoch cell) s = .next ((s.asked rest).acceptEpoch cell value)) := by
  have run : exec (.setEpoch cell) s = match s.index.state.refusal with
      | some status => .next (s.endEvent ((s.asked rest).answer cell status none))
      | none =>
        if value.toNat < s.index.copy.epoch.toNat then .next (s.endEvent ((s.asked rest).answer cell .range (some (.epoch s.index.copy.epoch))))
        else .next ((s.asked rest).acceptEpoch cell value) := by
    simp only [exec, execSetEpoch, h.settled, h.next]
    rfl
  have ⟨_, m, _, inflight⟩ := h
  refine ⟨fun status refused => ⟨_, ?_, h.refuse status⟩, fun ready below => ?_, fun ready above => ?_⟩
  · rw [run, IndexState.refusal_eq refused]
  · rw [ready] at run
    dsimp only [IndexState.refusal] at run
    rw [if_pos (BitVec.lt_def.1 below), State.answer_result (tag := tag) (by exact m) (by exact inflight)] at run
    refine ⟨_, run, h.answer (base := s) ?_ ?_ rfl rfl rfl rfl .range⟩
    · exact (State.Writes.refl s).trans ((s.asked rest).post_writes [.reqResult cell (.epoch s.index.copy.epoch)] m) rfl
    · rw [State.post, if_pos (by exact m)]
      rfl
  · rw [run, ready]
    dsimp only [IndexState.refusal]
    rw [if_neg (Nat.not_lt.2 (BitVec.le_def.1 above))]

/-- Settles O26: the three requests, each by its checks. -/
theorem maintenanceRequests : Obligations.MaintenanceRequests := by
  refine ⟨fun s cell d number length check fence tag rest => ⟨seedRequest s cell d number length check tag rest, retireRequest s cell d number fence tag rest⟩, ?_⟩
  rintro s cell value tag rest h
  obtain ⟨state, below, above⟩ := setEpochRequest s cell value tag rest h
  refine ⟨state, below, fun ready le => ⟨s.reservedAhead, above ready le, State.reservedAhead_of_none, fun w ws vs => State.reservedAhead_of_some⟩⟩

end Sys2Proof.Machine

namespace Sys2Proof.Machine

set_option Elab.async false

variable {s t u v : State}

/-! ### Completions that answer (R139, R141, R157) -/

/-- The writes of an answer's result operands. -/
def resultWrites (cell : ReqNo) : Option ReqResult → List HostWrite
  | some r => [.reqResult cell r]
  | none => []

theorem State.answer_results {cell : ReqNo} {tag : Tag} (m : v.mayWrite = true) (inflight : (v.requests.get cell).inflight = some tag) (status : Status)
    (result : Option ReqResult) : v.answer cell status result = (v.post (resultWrites cell result)).answer cell status none := by
  cases result with
  | some r => exact State.answer_result m inflight status r
  | none =>
    rw [resultWrites, State.post, if_pos m, State.postAlways]
    simp

/-- An answer does not look at the index. -/
theorem State.answer_withIndex (v : State) (cell : ReqNo) (status : Status) (result : Option ReqResult) (x : IndexUnit) :
    ({ v with index := x } : State).answer cell status result = { v.answer cell status result with index := x } := by
  unfold State.answer State.joinLevel State.post State.mayWrite
  dsimp only [State.postAlways]
  cases (v.requests.get cell).inflight with
  | none => split <;> rfl
  | some tag =>
    dsimp only
    split
    · split <;> rfl
    · rfl

theorem State.answer_frame (v : State) (cell : ReqNo) (status : Status) (result : Option ReqResult) :
    v.answer cell status result = { v with
      requests := (v.answer cell status result).requests, notice := (v.answer cell status result).notice, port := (v.answer cell status result).port } := by
  unfold State.answer State.joinLevel State.post
  repeat' split
  all_goals rfl

/-- The end of an event that answers a request, having changed the index and its memory alone (R157, R163, R166). -/
theorem State.answers {m : IndexMemory} {x : IndexUnit} {cell : ReqNo} {tag : Tag} (writes : s.mayWrite = true)
    (inflight : (s.requests.get cell).inflight = some tag) (status : Status) (result : Option ReqResult) :
    ∃ t, s.endEvent (({ s.begun with mem := m, index := x } : State).answer cell status result) = t ∧
      s.Answered t cell tag (resultWrites cell result) status ∧
      t = { s with
        mem := m, index := x, requests := t.requests, port := t.port, notice := (s.raiseLevel s.header.requestLevel).notice } := by
  refine ⟨_, rfl, ?_⟩
  generalize hv : ({ s.begun with mem := m, index := x } : State) = v
  have mv : v.mayWrite = true := by rw [← hv]; exact writes
  have iv : (v.requests.get cell).inflight = some tag := by rw [← hv]; exact inflight
  rw [State.answer_results mv iv]
  have posted : s.Writes (v.post (resultWrites cell result)) (resultWrites cell result) := by
    have none : s.Writes v [] := by rw [← hv]; exact .refl s
    exact none.trans (v.post_writes _ mv) (by rw [← hv]; rfl)
  have frame : v.post (resultWrites cell result) = { v with port := (v.post (resultWrites cell result)).port } := by
    unfold State.post; split <;> rfl
  generalize v.post (resultWrites cell result) = w at posted frame
  have requests : w.requests = s.requests := by rw [frame, ← hv]; rfl
  have ctl : w.ctl = s.ctl := by rw [frame, ← hv]; rfl
  have header : w.header = s.header := by rw [frame, ← hv]; rfl
  have notice : w.notice = s.notice := by rw [frame, ← hv]; rfl
  obtain ⟨answered, ended⟩ := State.answered writes inflight posted requests ctl header status
  have raised : (s.endEvent (w.answer cell status .none)).notice = (s.raiseLevel s.header.requestLevel).notice := by
    rw [State.answer_eq (by rw [State.mayWrite, ctl]; exact writes) (by rw [requests]; exact inflight)]
    refine State.endEvent_notice ?_ ?_ rfl
    · simp only [State.joinLevel, State.post_notice, notice, header]
      split <;> simp
    · simp only [State.joinLevel]
      split <;> split <;> simp [ctl]
  refine ⟨answered, ended.trans ?_⟩
  rw [raised, frame, ← hv]
  rfl

/-- The event of an operation that is answered at a clean bucket, having changed the index and its memory alone. -/
theorem State.Settled.completesAnswered {key : OpKey} {op : Op} {m : IndexMemory} {x : IndexUnit} {cell : ReqNo} {tag : Tag} {status : Status}
    {result : Option ReqResult} (settled : s.Settled) (handed : s.HandedOn) (ready : readyOp key s.index.inflight = some op) (kind : op.kind.key = key)
    (writes : s.mayWrite = true) (inflight : (s.requests.get cell).inflight = some tag)
    (body : s.begun.runBody op = (({ s.begun with mem := m, index := x } : State).answer cell status result, none)) :
    ∃ t, s.settled.complete key (Vector.replicate 16 .clean) = .next t ∧ s.Answered t cell tag (resultWrites cell result) status ∧
      t = { s with
        mem := m, index := { x with inflight := x.inflight.eraseP fun o => o.kind.key == key }
        requests := t.requests, port := t.port, notice := (s.raiseLevel s.header.requestLevel).notice } := by
  obtain ⟨t, run, -, ends⟩ := settled.completes ready kind body
  have index : (({ s.begun with mem := m, index := x } : State).answer cell status result).index = x := by rw [State.answer_frame]
  rw [index, ← State.answer_withIndex] at ends
  have quiet : (({ s.begun with mem := m, index := { x with inflight := x.inflight.eraseP fun o => o.kind.key == key } } : State).answer
      cell status result).HandedOn := by rw [State.answer_frame]; exact handed
  obtain ⟨u, ended, answered, frame⟩ := State.answers (m := m) (x := { x with inflight := x.inflight.eraseP fun o => o.kind.key == key }) writes inflight status result
  have same : t = u := ends.trans ((congrArg s.endEvent quiet.refreshAll).trans ended)
  exact ⟨t, run, same ▸ answered, same ▸ frame⟩

end Sys2Proof.Machine

namespace Sys2Proof.Machine

set_option Elab.async false

variable {s t u v : State}

/-! ### SEED and RETIRE at their bucket (R139, R141) -/

theorem EntryState.firm_or_provisional (e : EntryState) : e = .firm ∨ ∃ i o, e = .provisional i o := by
  cases e with
  | firm => exact .inl rfl
  | provisional i o => exact .inr ⟨i, o, rfl⟩

theorem State.begun_handedOn (handed : s.HandedOn) : s.begun.refreshAll = s.begun := State.HandedOn.refreshAll (s := s.begun) handed

/-- Settles O44: the rows of R139 by `State.runSeed`, each answered by `State.Settled.completesAnswered`. -/
theorem seedCompletes : Obligations.SeedCompletes := by
  rintro s o op tag settled handed ready kind writes inflight
  have key : op.kind.key = .seed o.cell := by rw [kind]; rfl
  have body : s.begun.runBody op = (s.begun.runSeed o op.bucket, none) := by rw [State.runBody, kind]
  have done {m : IndexMemory} {x : IndexUnit} {status : Status} {result : Option ReqResult}
      (run : s.begun.runSeed o op.bucket = ({ s.begun with mem := m, index := x } : State).answer o.cell status result) :=
    settled.completesAnswered handed ready key writes inflight (body.trans (by rw [run]))
  unfold State.runSeed at done
  rw [State.begun_handedOn handed] at done
  dsimp only at done
  refine ⟨fun w e found => ?_, fun absent => ⟨fun full => ?_, fun w empty lowest => ?_⟩⟩
  · rw [show s.begun.findDigest op.bucket o.digest = some (w, e) from found] at done
    dsimp only at done
    refine ⟨fun provisional => ?_, fun firm number length check => ?_, fun firm differs => ?_⟩
    · obtain ⟨i, n, state⟩ := (EntryState.firm_or_provisional e.state).resolve_left provisional
      exact done (m := s.mem) (x := s.index) (result := none) (by rw [state]; rfl)
    · refine done (x := s.index) (result := none) ?_
      rw [firm]
      exact if_pos ⟨number, length, check⟩
    · refine done (m := s.mem) (x := s.index) (result := some (.seedConflict e.number e.length e.check)) ?_
      rw [firm]
      exact if_neg fun ⟨number, length, check⟩ => differs.elim (absurd number) (Or.rec (absurd length) (absurd check))
  · rw [show s.begun.findDigest op.bucket o.digest = none from absent, (State.emptyWayOf_eq_none s.begun op.bucket).2 full] at done
    exact done (m := s.mem) (x := s.index) (result := none) rfl
  · rw [show s.begun.findDigest op.bucket o.digest = none from absent, State.emptyWayOf_eq_some (s := s.begun) empty lowest] at done
    exact done (x := { s.index with
      occupancy := s.index.occupancy + 1, stats := { s.index.stats with inserts := min (s.index.stats.inserts + 1) (2 ^ 48 - 1) } }) (result := none) rfl

/-- Settles O45: the rows of R141 by `State.runRetire`, each answered by `State.Settled.completesAnswered`. -/
theorem retireCompletes : Obligations.RetireCompletes := by
  rintro s o op tag settled handed ready kind writes inflight
  have key : op.kind.key = .retire o.cell := by rw [kind]; rfl
  have body : s.begun.runBody op = (s.begun.runRetire o op.bucket, none) := by rw [State.runBody, kind]
  have done {m : IndexMemory} {n : Nat} {status : Status} {result : Option ReqResult}
      (run : s.begun.runRetire o op.bucket = ({ s.begun with mem := m, index := { s.index with occupancy := n } } : State).answer o.cell status result) :=
    settled.completesAnswered handed ready key writes inflight (body.trans (by rw [run]))
  unfold State.runRetire at done
  rw [State.begun_handedOn handed] at done
  dsimp only at done
  refine ⟨fun absent => ?_, fun w e found => ?_⟩
  · rw [show s.begun.findDigest op.bucket o.digest = none from absent] at done
    exact done (m := s.mem) (n := s.index.occupancy) (result := none) rfl
  · rw [show s.begun.findDigest op.bucket o.digest = some (w, e) from found] at done
    dsimp only at done
    refine ⟨fun provisional => ?_, fun firm differs => ?_, fun firm number => ⟨fun used => ?_, fun old => ?_⟩⟩
    · obtain ⟨i, n, state⟩ := (EntryState.firm_or_provisional e.state).resolve_left provisional
      exact done (m := s.mem) (n := s.index.occupancy) (result := none) (by rw [state]; rfl)
    · refine done (m := s.mem) (n := s.index.occupancy) (result := some (.retireConflict e.number)) ?_
      rw [firm]
      exact if_pos differs
    · refine done (m := s.mem) (n := s.index.occupancy) (result := some (.epoch e.lastHit)) ?_
      rw [firm]
      exact (if_neg (not_not.2 number)).trans (if_pos (BitVec.le_def.1 used))
    · refine done (n := s.index.occupancy - 1) (result := none) ?_
      rw [firm]
      exact (if_neg (not_not.2 number)).trans (if_neg (Nat.not_le.2 (BitVec.lt_def.1 old)))

/-! ### SCAN (R91) -/

/-- What a SCAN leaves in a way: its entry where it is FIRM. -/
def scanned (e : Option Entry) : Option Entry := e.filter fun e => e.state == .firm

theorem wayKey_injective {b c : Nat} {w v : WayNo} (h : wayKey b w = wayKey c v) : b = c ∧ w = v := by
  unfold wayKey at h
  exact ⟨by omega, Fin.ext (by omega)⟩

/-- A way that is scanned: what is left in it, and the count where its entry is FIRM (R91). -/
theorem State.scanWay_spec (canonical : s.Canonical) (b : Nat) (w : WayNo) :
    let t := s.scanWay b w
    t = { s with
      mem := { s.mem with ways := t.mem.ways }
      index := { s.index with occupancy := s.index.occupancy + if (s.entry b w).map (·.state) = some .firm then 1 else 0 } } ∧
    t.entry b w = scanned (s.entry b w) ∧ ∀ c v, (c ≠ b ∨ v ≠ w) → t.entry c v = s.entry c v := by
  dsimp only
  unfold State.scanWay
  cases found : s.entry b w with
  | none => exact ⟨rfl, found, fun _ _ _ => rfl⟩
  | some e =>
    dsimp only
    rcases EntryState.firm_or_provisional e.state with firm | ⟨i, o, provisional⟩
    · rw [firm]
      exact ⟨by simp [firm, State.addOccupancy], found.trans (by simp [scanned, Option.filter, firm]), fun _ _ _ => rfl⟩
    · rw [provisional]
      refine ⟨by simp [provisional, State.emptyWay], ?_, fun c v ne => ?_⟩
      · rw [show scanned (some e) = none by simp [scanned, provisional]]
        exact tableGet_tableErase_self canonical.1
      · refine tableGet_tableErase_of_ne fun h => ?_
        obtain ⟨rfl, rfl⟩ := wayKey_injective h
        simp at ne

/-- The ways of a bucket, scanned one after another. -/
theorem State.scanWays_spec (b : Nat) (ws : List WayNo) : ∀ {s : State}, s.Canonical → ws.Nodup →
    let t := ws.foldl (fun s w => s.scanWay b w) s
    t = { s with
      mem := { s.mem with ways := t.mem.ways }
      index := { s.index with occupancy := s.index.occupancy + ws.countP fun w => ((s.entry b w).map fun e => e.state) == some EntryState.firm } } ∧
    (∀ w, t.entry b w = if w ∈ ws then scanned (s.entry b w) else s.entry b w) ∧ ∀ c w, c ≠ b → t.entry c w = s.entry c w := by
  induction ws with
  | nil => exact fun _ _ => ⟨rfl, fun _ => rfl, fun _ _ _ => rfl⟩
  | cons w ws ih =>
    intro s canonical nodup
    obtain ⟨new, nodup⟩ := List.nodup_cons.1 nodup
    obtain ⟨frame, self, others⟩ := s.scanWay_spec canonical b w
    have canonical' : (s.scanWay b w).Canonical := (s.scanWay_rests b w).form canonical
    dsimp only at frame
    rw [List.foldl_cons]
    generalize s.scanWay b w = u at *
    obtain ⟨frame', self', others'⟩ := ih canonical' nodup
    generalize ws.foldl (fun s w => s.scanWay b w) u = t at *
    have same (v : WayNo) (m : v ∈ ws) : u.entry b v = s.entry b v := others b v (.inr fun e => new (e ▸ m))
    refine ⟨?_, fun v => ?_, fun c v ne => (others' c v ne).trans (others c v (.inl ne))⟩
    · have count : (ws.countP fun w => ((u.entry b w).map fun e => e.state) == some EntryState.firm) =
          ws.countP fun w => ((s.entry b w).map fun e => e.state) == some EntryState.firm := List.countP_congr fun v m => by rw [same v m]
      dsimp only at frame'
      rw [frame', count, frame, List.countP_cons]
      simp only [beq_iff_eq, Nat.add_assoc, Nat.add_comm]
    · rw [self' v]
      by_cases e : v = w
      · subst e
        rw [if_neg new, if_pos List.mem_cons_self, self]
      · rw [others b v (.inr e)]
        simp [e]

/-- Settles O46: the fold over the ways by `State.scanWays_spec`, and the end of the event by `State.Settled.completesPlainly`. -/
theorem scanCompletes : Obligations.ScanCompletes := by
  rintro s b op last settled handed ready kind canonical lastIff
  obtain ⟨frame, self, others⟩ := State.scanWays_spec b (List.finRange 16) (s := s.begun) canonical (List.nodup_finRange 16)
  generalize ht : (List.finRange 16).foldl (fun s w => s.scanWay b w) s.begun = t at frame self others
  have body : s.begun.runBody op = ({ s.begun with
      mem := { s.mem with ways := t.mem.ways }, pool := s.pool
      index := { s.index with
        occupancy := s.index.occupancy + (List.finRange 16).countP fun w => ((s.entry b w).map fun e => e.state) == some EntryState.firm
        scanPosition := s.index.scanPosition + 1
        state := if last then .ready else s.index.state
        fill := if last then .normal else s.index.fill
        fillCount := if last then 0 else s.index.fillCount } }, none) := by
    rw [State.runBody, kind]
    dsimp only
    rw [State.runScan, ht, frame]
    dsimp only
    have lastIff : last = true ↔ s.begun.index.state = .scanning ∧ s.begun.index.scanPosition + 1 = 2 ^ s.begun.index.copy.k := lastIff
    by_cases h : last = true
    · rw [if_pos (lastIff.1 h), h]
      rfl
    · rw [if_neg (h ∘ lastIff.2), Bool.eq_false_iff.2 h]
      rfl
  refine ⟨_, settled.completesPlainly handed ready (by rw [kind]; rfl) body, rfl, fun w => ?_, fun c w ne => others c w ne, rfl⟩
  refine (self w).trans ?_
  rw [if_pos (List.mem_finRange w)]
  show scanned (s.entry b w) = _
  cases s.entry b w with
  | none => rfl
  | some e => simp [scanned, Option.filter]

/-! ### FORMAT_CLEAR (R87) -/

theorem tableGet_filter {α : Type} {l : Table α} {p : Nat × α → Bool} {n : Nat} {keep : Bool} (same : ∀ x, p (n, x) = keep) :
    tableGet (l.filter p) n = if keep then tableGet l n else none := by
  induction l with
  | nil => cases keep <;> rfl
  | cons a l ih =>
    obtain ⟨m, x⟩ := a
    by_cases e : m = n
    · subst e
      rw [List.filter_cons, same]
      cases keep with
      | true => simp [tableGet]
      | false => simpa using ih
    · rw [List.filter_cons]
      split <;> simp [tableGet, e, ih]

/-- Settles O48: the event is `State.clearFormat`, which keeps the entries of the ways that are not of the new buckets. -/
theorem formatClears : Obligations.FormatClears := by
  rintro s j d settled format cleared inflight lookups firming withdrawal requests writes rfl
  have may : s.begun.formatMayClear = true := by
    simp only [State.formatMayClear, State.begun, inflight, lookups, firming, withdrawal, requests, writes]
    rfl
  have run : exec .formatClear s = .next (s.begun.clearFormat j) := by
    have format' : s.begun.index.format = some j := format
    simp only [exec, execFormatClear, settled.eq, format']
    exact if_pos ⟨cleared, may⟩
  have kept (b : Nat) (w : WayNo) : (s.begun.clearFormat j).entry b w = if decide (2 ^ j.k ≤ b) then s.entry b w else none := by
    refine tableGet_filter fun x => decide_eq_decide.2 ?_
    have := w.isLt
    unfold wayKey
    omega
  refine ⟨_, run, rfl, ?_, fun b w lt => (kept b w).trans (if_neg ?_), fun b w le => (kept b w).trans (if_pos ?_)⟩
  · simp only [State.clearFormat, State.issueWrite, State.begun, writes, FormatJob.descriptor]
    rfl
  · simpa using lt
  · simpa using le

end Sys2Proof.Machine

namespace Sys2Proof.Machine

set_option Elab.async false

variable {s t u v : State} {r : Nat} {p : PoolRecord} {l : List (Waiter × Option ChunkCond)}

/-! ### Waiters that leave a list under numbers of their own (R109, R111, R113) -/

/-- Whether a stream is open stands when waiters leave a list. -/
theorem State.Serves.isOpen_eq (h : s.Serves t r l) (j : SlotNo) : (t.slot j).state.isOpen = (s.slot j).state.isOpen := by
  cases isOpen : (s.slot j).state.isOpen with
  | true => exact (h.of_open isOpen).1
  | false => exact (congrArg (fun c => c.state.isOpen) (h.core j)).trans (Slot.served_of_closed (c := (s.slot j).core) isOpen)

/-- What waiters take that are given the numbers from `n` on: an open stream's is resolved UNINDEXED with the cause, and another's is discarded. -/
def State.unindexed (s : State) (k : Cause) (n : Nat) (ws : List Waiter) : List (Waiter × Option ChunkCond) :=
  (ws.zipIdx n).map fun x => (x.1, if (s.slot x.1.slot).state.isOpen then some (.resolved .unindexed x.2 k) else none)

theorem State.unindexed_cons (s : State) (k : Cause) (n : Nat) (w : Waiter) (ws : List Waiter) :
    s.unindexed k n (w :: ws) = [(w, if (s.slot w.slot).state.isOpen then some (.resolved .unindexed n k) else none)] ++ s.unindexed k (n + 1) ws := rfl

theorem State.unindexed_fst (s : State) (k : Cause) (n : Nat) (ws : List Waiter) : (s.unindexed k n ws).map Prod.fst = ws := by
  simp [State.unindexed, Function.comp_def]

theorem State.unindexed_countP (s : State) (k : Cause) (n : Nat) (ws : List Waiter) (j : SlotNo) :
    (s.unindexed k n ws).countP (fun x => x.1.slot == j) = ws.countP fun w => w.slot == j := by
  conv_rhs => rw [← s.unindexed_fst k n ws, List.countP_map]
  rfl

theorem State.unindexed_congr (same : ∀ j, (t.slot j).state.isOpen = (s.slot j).state.isOpen) (k : Cause) (n : Nat) (ws : List Waiter) :
    t.unindexed k n ws = s.unindexed k n ws := by
  unfold State.unindexed
  simp only [same]

/-- The chunk of an open stream takes the number of its waiter's place in the list. -/
theorem State.condServed_unindexed (s : State) {j : SlotNo} (o : Nat) (k : Cause) (n : Nat) {ws : List Waiter} (c : ChunkCond)
    (isOpen : (s.slot j).state.isOpen = true) (nodup : ws.Nodup) :
    condServed j o (s.unindexed k n ws) c =
      if ws.contains { slot := j, ordinal := o } then .resolved .unindexed (n + ws.idxOf { slot := j, ordinal := o }) k else c := by
  induction ws generalizing n c with
  | nil => rfl
  | cons w ws ih =>
    obtain ⟨new, nodup⟩ := List.nodup_cons.1 nodup
    have first : condServed j o [(w, if (s.slot w.slot).state.isOpen then some (.resolved .unindexed n k) else none)] c =
        if w = { slot := j, ordinal := o } then .resolved .unindexed n k else c := by
      by_cases e : w = { slot := j, ordinal := o }
      · subst e
        simp [condServed, isOpen]
      · simp [condServed, e]
    rw [s.unindexed_cons, condServed_append, first, ih (n + 1) _ nodup, List.contains_cons, List.idxOf_cons]
    by_cases e : w = { slot := j, ordinal := o }
    · subst e
      simp [new]
    · rw [beq_false_of_ne e, beq_false_of_ne (Ne.symm e), if_neg e, Bool.false_or]
      simp only [cond_false, Nat.add_assoc, Nat.add_comm 1]

/-- A waiter of a lost entry that is given a number (R113). -/
theorem State.lossGive_serves (s : State) (r : Nat) (w : Waiter) (n : Nat) :
    s.Serves (s.lossGive r w (.number n)) r [(w, if (s.slot w.slot).state.isOpen then some (.resolved .unindexed n .bucketFull) else none)] := by
  unfold State.lossGive
  dsimp only
  split
  · exact s.resolveWaiter_serves r w .unindexed n .bucketFull
  · exact s.discardWaiter_serves r w

/-- One waiter takes the next number, and those behind it the numbers that follow. -/
theorem State.Serves.unindexed {x : State} {w : Waiter} {ws : List Waiter} {k : Cause}
    (serves : s.numbered.Serves x r [(w, if (s.slot w.slot).state.isOpen then some (.resolved .unindexed s.index.counter k) else none)])
    (rest : State.Serves { x with index := { x.index with counter := x.index.counter + ws.length } } t r (x.unindexed k x.index.counter ws)) :
    State.Serves { s with index := { s.index with counter := s.index.counter + (w :: ws).length } } t r (s.unindexed k s.index.counter (w :: ws)) := by
  have index : x.index = s.numbered.index := serves.index_eq
  have same (j : SlotNo) : (x.slot j).state.isOpen = (s.slot j).state.isOpen := serves.isOpen_eq j
  rw [index, State.unindexed_congr same] at rest
  have all := (serves.withIndex { s.index with counter := s.index.counter + 1 + ws.length }).append rest
  rw [List.length_cons, show s.index.counter + (ws.length + 1) = s.index.counter + 1 + ws.length by omega]
  exact all

/-- The waiters of a lost entry, with numbers at hand (R113). -/
theorem State.lossWaiters_serves (r : Nat) (ws : List Waiter) : ∀ {s : State}, s.index.counter + ws.length ≤ s.index.copy.reserved →
    ∃ t, s.lossWaiters r ws = (t, none) ∧
      State.Serves { s with index := { s.index with counter := s.index.counter + ws.length } } t r (s.unindexed .bucketFull s.index.counter ws) := by
  induction ws with
  | nil => exact fun {s} _ => ⟨s, rfl, .nil s r⟩
  | cons w ws ih =>
    intro s numbers
    rw [List.length_cons] at numbers
    have serves := s.numbered.lossGive_serves r w s.index.counter
    have step : s.lossWaiters r (w :: ws) = (s.numbered.lossGive r w (.number s.index.counter)).lossWaiters r ws := by
      rw [State.lossWaiters, State.allocate_of_lt (by omega) rfl]
      rfl
    generalize s.numbered.lossGive r w (.number s.index.counter) = x at *
    have index : x.index = s.numbered.index := serves.index_eq
    obtain ⟨t, run, rest⟩ := ih (s := x) (by rw [index]; exact (show s.index.counter + 1 + ws.length ≤ s.index.copy.reserved by omega))
    exact ⟨t, step.trans run, .unindexed serves rest⟩

/-! ### The check of one wrong way (R83, R84) -/

/-- The ways above one, all clean. -/
def cleanAbove (w : WayNo) : List (WayNo × Ecc) := ((List.finRange 16).filter fun x => decide (w < x)).map fun x => (x, .clean)

theorem State.checkWays_of_clean (s : State) (b : Nat) (ws : List (WayNo × Ecc)) (clean : ∀ x ∈ ws, x.2 = .clean) : s.checkWays b ws = (s, none) := by
  induction ws with
  | nil => rfl
  | cons x ws ih =>
    obtain ⟨w, e⟩ := x
    obtain ⟨rfl, rest⟩ := List.forall_mem_cons.1 clean
    exact ih rest

theorem State.checkWays_append (s : State) (b : Nat) {ws : List (WayNo × Ecc)} (clean : ∀ x ∈ ws, x.2 = .clean) (rest : List (WayNo × Ecc)) :
    s.checkWays b (ws ++ rest) = s.checkWays b rest := by
  induction ws with
  | nil => rfl
  | cons x ws ih =>
    obtain ⟨w, e⟩ := x
    obtain ⟨rfl, others⟩ := List.forall_mem_cons.1 clean
    exact ih others

theorem cleanAbove_clean (w : WayNo) : ∀ x ∈ cleanAbove w, x.2 = .clean := by
  intro x m
  obtain ⟨v, -, rfl⟩ := List.mem_map.1 m
  rfl

theorem finRange_split (w : WayNo) : List.finRange 16 =
    ((List.finRange 16).filter fun x => decide (x < w)) ++ w :: (List.finRange 16).filter fun x => decide (w < x) := by
  revert w
  decide

/-- Of a bucket's ways with one wrong, the check comes to it first, and all above it are clean. -/
theorem State.checkWays_one (s : State) (b : Nat) (w : WayNo) (e : Ecc) :
    s.checkWays b (eccList ((Vector.replicate 16 .clean).set w e)) = s.checkWays b ((w, e) :: cleanAbove w) := by
  have get (v : WayNo) : ((Vector.replicate 16 Ecc.clean).set w e).get v = if v = w then e else .clean := by
    rw [Vector.get_eq_getElem, Vector.getElem_set]
    simp only [Vector.getElem_replicate, Fin.ext_iff, eq_comm]
  have list : eccList ((Vector.replicate 16 .clean).set w e) =
      (((List.finRange 16).filter fun x => decide (x < w)).map fun x => (x, Ecc.clean)) ++ (w, e) :: cleanAbove w := by
    unfold eccList cleanAbove
    conv_lhs => rw [finRange_split w]
    rw [List.map_append, List.map_cons, get, if_pos rfl]
    congr 1
    · refine List.map_congr_left fun v m => ?_
      have lt : v < w := by simpa using (List.mem_filter.1 m).2
      rw [get, if_neg lt.ne]
    · congr 1
      refine List.map_congr_left fun v m => ?_
      have lt : w < v := by simpa using (List.mem_filter.1 m).2
      rw [get, if_neg lt.ne']
  rw [list, s.checkWays_append b]
  intro x m
  obtain ⟨v, -, rfl⟩ := List.mem_map.1 m
  rfl

/-- What the destruction of a way leaves (steps 1 to 3 of R84). -/
theorem State.destroyWay_eq (s : State) (b : Nat) (w : WayNo) :
    s.destroyWay b w = State.joinLevel { s with
      mem := { s.mem with ways := tableErase s.mem.ways (wayKey b w) }
      index := { s.index with
        error := true, stats := { s.index.stats with uncorrected := min (s.index.stats.uncorrected + 1) (2 ^ 32 - 1) }
        occupancy := if s.entry b w ≠ none ∧ s.index.state ≠ .scanning then s.index.occupancy - 1 else s.index.occupancy } }
      (if s.index.error then 0 else s.header.errorLevel) := by
  have drop (x : State) (l : Nat) : (x.joinLevel l).dropOccupancy = x.dropOccupancy.joinLevel l := by
    unfold State.joinLevel State.dropOccupancy
    split <;> rfl
  have error : ((s.emptyWay b w).editStats fun t => { t with uncorrected := sat32 (t.uncorrected + 1) }).setError =
      State.joinLevel { s with
        mem := { s.mem with ways := tableErase s.mem.ways (wayKey b w) }
        index := { s.index with error := true, stats := { s.index.stats with uncorrected := min (s.index.stats.uncorrected + 1) (2 ^ 32 - 1) } } }
        (if s.index.error then 0 else s.header.errorLevel) := by
    unfold State.setError
    by_cases e : s.index.error = true
    · rw [if_pos (by exact e), if_pos e, State.joinLevel, if_pos rfl, ← e]
      rfl
    · rw [if_neg (by exact e), if_neg e]
      rfl
  have state : (((s.emptyWay b w).editStats fun t => { t with uncorrected := sat32 (t.uncorrected + 1) }).setError).index.state = s.index.state := by
    rw [error, State.joinLevel_eq]
  have had : ((s.entry b w).isSome = true ∧ s.index.state ≠ .scanning) ↔ (s.entry b w ≠ none ∧ s.index.state ≠ .scanning) := by
    rw [Option.isSome_iff_ne_none]
  unfold State.destroyWay
  dsimp only
  rw [state, error]
  by_cases h : s.entry b w ≠ none ∧ s.index.state ≠ .scanning
  · rw [if_pos (had.2 h), drop]
    simp only [if_pos h]
    rfl
  · rw [if_neg (h ∘ had.1)]
    simp only [if_neg h]

/-- The entry of a way is PROVISIONAL, and its loss is dealt with (R113). -/
def State.provisionalAt (s : State) (b : Nat) (w : WayNo) : Bool :=
  match s.entry b w with
  | some { state := .provisional _ _, .. } => s.index.state != .scanning
  | _ => false

theorem State.provisionalAt_of_provisional {b : Nat} {w : WayNo} {e : Entry} {i : SlotNo} {o : Nat} (entry : s.entry b w = some e)
    (provisional : e.state = .provisional i o) (notScanning : s.index.state ≠ .scanning) : s.provisionalAt b w = true := by
  unfold State.provisionalAt
  rw [entry]
  obtain ⟨state, _, _, _, _, _⟩ := e
  dsimp only at provisional
  subst provisional
  simpa using notScanning

theorem State.provisionalAt_of_firm {b : Nat} {w : WayNo} (h : ∀ e, s.entry b w = some e → e.state = .firm ∨ s.index.state = .scanning) :
    s.provisionalAt b w = false := by
  unfold State.provisionalAt
  split
  · rename_i entry
    rcases h _ entry with h | h
    · cases h
    · simp [h]
  · rfl

end Sys2Proof.Machine

namespace Sys2Proof.Machine

set_option Elab.async false

variable {s t u v : State} {r : Nat} {p : PoolRecord} {l : List (Waiter × Option ChunkCond)}

/-- A destroyed way that held no PROVISIONAL entry, or one in SCANNING, is all that is dealt with (R84). -/
theorem State.checkWays_destroyed {b : Nat} {w : WayNo} (no : s.provisionalAt b w = false) {rest : List (WayNo × Ecc)} (clean : ∀ x ∈ rest, x.2 = .clean) :
    s.checkWays b ((w, .uncorrectable) :: rest) = (s.destroyWay b w, none) := by
  have step : s.checkWays b ((w, .uncorrectable) :: rest) = (s.destroyWay b w).checkWays b rest := by
    unfold State.provisionalAt at no
    rw [State.checkWays]
    dsimp only
    split
    · rename_i yes _
      exact absurd (yes.symm.trans no) nofun
    · rfl
  rw [step, State.checkWays_of_clean _ b rest clean]

/-- The waiters of a lost entry's record have been dealt with (R113). -/
theorem State.checkWays_lost {b : Nat} {w : WayNo} (yes : s.provisionalAt b w = true) (found : s.recordAt b w = some (r, p)) {rest : List (WayNo × Ecc)}
    (clean : ∀ x ∈ rest, x.2 = .clean)
    (dealt : (((s.destroyWay b w).loseRecord r p).discardAborting r).lossWaiters r ((((s.destroyWay b w).loseRecord r p).discardAborting r).waitersOf r) = (t, none)) :
    s.checkWays b ((w, .uncorrectable) :: rest) = (t.endLoss r (p.disp == .live), none) := by
  unfold State.provisionalAt at yes
  rw [State.checkWays, found]
  dsimp only
  split
  · rename_i e
    cases e
    rw [dealt]
    exact State.checkWays_of_clean _ b rest clean
  · rename_i no
    exact absurd rfl (no r p yes)

/-- The loss halts at a waiter whose number must first be reserved (R113). -/
theorem State.checkWays_halts {b : Nat} {w : WayNo} (yes : s.provisionalAt b w = true) (found : s.recordAt b w = some (r, p)) (rest : List (WayNo × Ecc)) {x : Waiter}
    (halts : (((s.destroyWay b w).loseRecord r p).discardAborting r).lossWaiters r ((((s.destroyWay b w).loseRecord r p).discardAborting r).waitersOf r) =
      (t, some x)) :
    s.checkWays b ((w, .uncorrectable) :: rest) = (t, some (.loss r (p.disp == .live) x rest)) := by
  unfold State.provisionalAt at yes
  rw [State.checkWays, found]
  dsimp only
  split
  · rename_i e
    cases e
    rw [halts]
  · rename_i no
    exact absurd rfl (no r p yes)

/-! ### The loss of a record (R113) -/

/-- A lost record leaves its owner's list where it was LIVE. -/
theorem State.loseRecord_spec (s : State) (r : Nat) (p : PoolRecord) :
    let t := s.loseRecord r p
    t = { s with slots := t.slots, pool := tablePut s.pool r { p with disp := .lost } } ∧
    (∀ j, t.slot j = if p.disp = .live ∧ j = p.owner then (s.slot j).dropProv r else s.slot j) ∧
    t.record r = some { p with disp := .lost } ∧ ∀ q, q ≠ r → t.record q = s.record q := by
  unfold State.loseRecord
  dsimp only
  by_cases live : p.disp = .live
  · rw [if_pos live]
    refine ⟨rfl, fun j => ?_, tableGet_tablePut_self _ _, fun q ne => tableGet_tablePut_of_ne _ ne⟩
    by_cases e : j = p.owner
    · subst e
      rw [if_pos ⟨live, rfl⟩]
      exact s.slot_editSlot_self p.owner fun c => c.dropProv r
    · rw [if_neg fun h => e h.2]
      exact s.slot_editSlot_of_ne p.owner j (fun c => c.dropProv r) e
  · rw [if_neg live]
    exact ⟨rfl, fun j => by rw [if_neg fun h => live h.1]; rfl, tableGet_tablePut_self _ _, fun q ne => tableGet_tablePut_of_ne _ ne⟩

/-- What the loss of a record leaves of a slot: all but the list of its owner. -/
theorem State.loseRecord_slot (s : State) (r : Nat) (p : PoolRecord) (j : SlotNo) :
    (s.loseRecord r p).slot j = { s.slot j with
      provList := ((s.loseRecord r p).slot j).provList, provCount := ((s.loseRecord r p).slot j).provCount } := by
  obtain ⟨-, slot, -⟩ := s.loseRecord_spec r p
  rw [slot j]
  split <;> rfl

/-- What has left the list of a lost record: the waiters of ABORTING streams without an outcome, then the others, in list order. -/
def State.lostWaiters (s : State) (ws : List Waiter) : List (Waiter × Option ChunkCond) :=
  (ws.filter s.ofAborting).map (·, none) ++ s.unindexed .bucketFull s.index.counter (ws.filter fun v => !s.ofAborting v)

theorem State.mem_lostWaiters (s : State) (ws : List Waiter) (v : Waiter) : v ∈ (s.lostWaiters ws).map Prod.fst ↔ v ∈ ws := by
  rw [State.lostWaiters, List.map_append, State.unindexed_fst, List.map_map, List.mem_append]
  simp only [Function.comp_def, List.map_id', List.mem_filter, ← and_or_left]
  cases s.ofAborting v <;> simp

theorem State.lostWaiters_countP (s : State) (ws : List Waiter) (j : SlotNo) :
    (s.lostWaiters ws).countP (fun y => y.1.slot == j) = ws.countP fun v => v.slot == j := by
  rw [State.lostWaiters, List.countP_append, State.unindexed_countP, List.countP_map, List.countP_eq_countP_filter_add ws _ s.ofAborting]
  simp [Function.comp_def]

/-- A chunk of an open stream takes the number of its waiter's place among those that are left. -/
theorem State.condServed_lostWaiters (s : State) {j : SlotNo} (o : Nat) {ws : List Waiter} (c : ChunkCond) (isOpen : (s.slot j).state.isOpen = true) (nodup : ws.Nodup) :
    condServed j o (s.lostWaiters ws) c =
      if (ws.filter fun v => !s.ofAborting v).contains { slot := j, ordinal := o } then
        .resolved .unindexed (s.index.counter + (ws.filter fun v => !s.ofAborting v).idxOf { slot := j, ordinal := o }) .bucketFull else c := by
  rw [State.lostWaiters, condServed_append, condServed_of_none c, s.condServed_unindexed o .bucketFull _ c isOpen (nodup.filter _)]
  intro x m e
  obtain ⟨v, own, rfl⟩ := List.mem_map.1 m
  have aborting : (s.slot v.slot).state = .aborting := beq_iff_eq.1 (List.mem_filter.1 own).2
  rw [show v = { slot := j, ordinal := o } from e] at aborting
  dsimp only at aborting
  rw [aborting] at isOpen
  cases isOpen

/-- The waiters of a lost record are dealt with, numbers being at hand for those that are left. -/
theorem State.lostWaiters_serve (record : s.record r = some p) (covers : s.Covers p.waiters)
    (numbers : s.index.counter + (p.waiters.filter fun v => !s.ofAborting v).length ≤ s.index.copy.reserved) :
    ∃ t, (s.discardAborting r).lossWaiters r ((s.discardAborting r).waitersOf r) = (t, none) ∧
      State.Serves { s with index := { s.index with counter := s.index.counter + (p.waiters.filter fun v => !s.ofAborting v).length } } t r
        (s.lostWaiters p.waiters) := by
  obtain ⟨discarded, left⟩ := State.discardAborting_spec record covers
  generalize s.discardAborting r = d at *
  have index : d.index = s.index := discarded.index_eq
  rw [left]
  obtain ⟨t, run, serves⟩ := d.lossWaiters_serves r (p.waiters.filter fun v => !s.ofAborting v) (by rw [index]; exact numbers)
  rw [index, State.unindexed_congr discarded.isOpen_eq] at serves
  exact ⟨t, run, (discarded.withIndex _).append serves⟩

/-- The end of a loss frees a record that was LIVE. -/
theorem State.endLoss_spec (s : State) (r : Nat) (live : Bool) :
    s.endLoss r live = { s with pool := if live then tableErase s.pool r else s.pool } := by
  unfold State.endLoss
  split <;> rfl

end Sys2Proof.Machine

namespace Sys2Proof.Machine

set_option Elab.async false

variable {s t u v : State} {r : Nat} {p : PoolRecord}

/-! ### One wrong way of a bucket (R83, R84, R113) -/

/-- A command that completes the operation of a key. -/
def Completes (key : OpKey) (c : Vector Ecc 16 → Instr) : Prop :=
  (∃ i o, key = .lookup i o ∧ c = .lookupInsertComplete i o) ∨ (∃ r, key = .firm r ∧ c = .firmComplete r) ∨
    (∃ r, key = .withdraw r ∧ c = .withdrawComplete r) ∨ (∃ cell, key = .seed cell ∧ c = .seedComplete cell) ∨
    (∃ cell, key = .retire cell ∧ c = .retireComplete cell) ∨ (∃ b, key = .scan b ∧ c = .scanComplete b)

/-- It carries the operation out, and its event ends (R70). -/
theorem Completes.run {key : OpKey} {op : Op} {c : Vector Ecc 16 → Instr} (h : Completes key c) (settled : s.Settled)
    (ready : readyOp key s.index.inflight = some op) (ecc : Vector Ecc 16) : exec (c ecc) s = .next (s.endEvent (s.begun.carryOut op ecc)) := by
  have run : exec (c ecc) s = s.settled.complete key ecc := by
    rcases h with ⟨_, _, rfl, rfl⟩ | ⟨_, rfl, rfl⟩ | ⟨_, rfl, rfl⟩ | ⟨_, rfl, rfl⟩ | ⟨_, rfl, rfl⟩ | ⟨_, rfl, rfl⟩ <;> rfl
  have ready' : readyOp key s.begun.index.inflight = some op := ready
  rw [run, settled.eq, State.complete, ready']
  rfl

/-- An operation goes on from the check of its ways as at a clean bucket. -/
theorem State.carryOut_of_checked {op : Op} {ecc : Vector Ecc 16} (h : s.checkWays op.bucket (eccList ecc) = (u, none)) :
    s.carryOut op ecc = u.carryOut op (Vector.replicate 16 .clean) := by
  rw [State.carryOut, State.carryOut, State.runFrom_clean, State.runFrom, h]

/-- A correctable way is counted, and the operation goes on (R83). -/
theorem correctableWay {key : OpKey} {op : Op} {c : Vector Ecc 16 → Instr} (h : Completes key c) (settled : s.Settled)
    (ready : readyOp key s.index.inflight = some op) (w : WayNo) :
    exec (c ((Vector.replicate 16 .clean).set w .correctable)) s = exec (c (Vector.replicate 16 .clean)) { s with
      index := { s.index with stats := { s.index.stats with corrected := min (s.index.stats.corrected + 1) (2 ^ 32 - 1) } } } := by
  have checked : s.begun.checkWays op.bucket (eccList ((Vector.replicate 16 .clean).set w .correctable)) =
      (s.begun.editStats fun t => { t with corrected := sat32 (t.corrected + 1) }, none) := by
    rw [State.checkWays_one, State.checkWays]
    exact State.checkWays_of_clean _ _ _ (cleanAbove_clean w)
  rw [h.run settled ready, State.carryOut_of_checked checked]
  refine ((h.run (s := { s with index := { s.index with
    stats := { s.index.stats with corrected := min (s.index.stats.corrected + 1) (2 ^ 32 - 1) } } }) (op := op) settled ready _).trans ?_).symm
  rfl

/-- What the loss of a PROVISIONAL entry leaves of its record, its waiters and its owner's list, from the state `s` with the way destroyed (R113). -/
structure State.Lost (s u : State) (r : Nat) (p : PoolRecord) (ws : List Waiter) : Prop where
  mem : u.mem = s.mem
  index : u.index = { s.index with counter := s.index.counter + ws.length }
  record : u.record r = if p.disp = .live then none else some { p with disp := .lost, waiters := [] }
  records : ∀ q, q ≠ r → u.record q = s.record q
  removals : u.removals = s.removals.filter fun m => !p.waiters.contains m.waiter
  pending : ∀ j, (s.slot j).state.isOpen = true → (u.slot j).pending = (s.slot j).pending.map fun x =>
    if ws.contains { slot := j, ordinal := x.ordinal } then
      { x with cond := .resolved .unindexed (s.index.counter + ws.idxOf { slot := j, ordinal := x.ordinal }) .bucketFull } else x
  inflight : ∀ j, (u.slot j).inflight = (s.slot j).inflight - p.waiters.countP fun v => v.slot == j
  aborting : ∀ j, (s.slot j).state = .aborting → (∃ v ∈ p.waiters, v.slot = j) → (u.slot j).state = if (u.slot j).inflight = 0 then .aborted else .aborting
  provList : ∀ j, (u.slot j).provList = if p.disp = .live ∧ j = p.owner then (s.slot j).provList.filter (fun q => q != r) else (s.slot j).provList
  others : ∀ j, (∀ v ∈ p.waiters, v.slot ≠ j) → (p.disp = .live → j ≠ p.owner) → u.slot j = s.slot j

theorem State.loseRecord_state (s : State) (r : Nat) (p : PoolRecord) (j : SlotNo) : ((s.loseRecord r p).slot j).state = (s.slot j).state := by
  rw [s.loseRecord_slot r p j]

theorem State.ofAborting_congr (same : ∀ j, (t.slot j).state = (s.slot j).state) : t.ofAborting = s.ofAborting := by
  funext v
  rw [State.ofAborting, State.ofAborting, same]

/-- The counts of the streams stand when a record is lost. -/
theorem State.Covers.loseRecord {ws : List Waiter} (covers : s.Covers ws) (r : Nat) (p : PoolRecord) : (s.loseRecord r p).Covers ws := by
  intro v m aborting
  rw [s.loseRecord_state r p] at aborting
  rw [s.loseRecord_slot r p v.slot]
  exact covers v m aborting

/-- The loss of an entry with numbers at hand for its waiters. -/
theorem State.loss_lost (canonical : s.Canonical) {ws : List Waiter} (left : p.waiters.filter (fun v => !s.ofAborting v) = ws) (nodup : p.waiters.Nodup)
    (covers : s.Covers p.waiters) (numbers : s.index.counter + ws.length ≤ s.index.copy.reserved) :
    ∃ t, ((s.loseRecord r p).discardAborting r).lossWaiters r (((s.loseRecord r p).discardAborting r).waitersOf r) = (t, none) ∧
      s.Lost (t.endLoss r (p.disp == .live)) r p ws := by
  obtain ⟨frame, slot, record, records⟩ := s.loseRecord_spec r p
  have rest := s.loseRecord_slot r p
  have same := State.ofAborting_congr (s.loseRecord_state r p)
  have covers' := covers.loseRecord r p
  generalize s.loseRecord r p = x at *
  have index : x.index = s.index := by rw [frame]
  have left' : (p.waiters.filter fun v => !x.ofAborting v) = ws := by rw [same]; exact left
  have wf : tableWf x.pool := by
    rw [frame]
    exact tableWf_tablePut r _ canonical.2.1
  obtain ⟨t, run, serves⟩ := State.lostWaiters_serve (p := { p with disp := .lost }) record covers' (by dsimp only; rw [left', index]; exact numbers)
  dsimp only at serves
  rw [left'] at serves
  generalize hy : ({ x with index := { x.index with counter := x.index.counter + ws.length } } : State) = y at serves
  have yslot (j : SlotNo) : y.slot j = x.slot j := by rw [← hy]; rfl
  have yrecord (q : Nat) : y.record q = x.record q := by rw [← hy]; rfl
  have record : y.record r = some { p with disp := .lost } := (yrecord r).trans record
  have trecord := serves.record _ record
  obtain ⟨twf, -⟩ := serves.pool (by rw [← hy]; exact wf) (by rw [record]; rfl)
  have member := x.mem_lostWaiters p.waiters
  have spec := t.endLoss_spec r (p.disp == .live)
  have uslot (j : SlotNo) : (t.endLoss r (p.disp == .live)).slot j = t.slot j := by rw [spec]; rfl
  refine ⟨t, run, ⟨?_, ?_, ?_, fun q ne => ?_, ?_, fun j isOpen => ?_, fun j => ?_, fun j aborting ⟨v, m, e⟩ => ?_, fun j => ?_, fun j none owner => ?_⟩⟩
  · rw [spec]
    exact serves.mem_eq.trans (by rw [← hy, frame])
  · rw [spec]
    exact serves.index_eq.trans (by rw [← hy, index])
  · rw [spec]
    by_cases live : p.disp = .live
    · rw [if_pos live, if_pos (beq_iff_eq.2 live)]
      exact tableGet_tableErase_self twf
    · rw [if_neg live, if_neg (by simpa using live)]
      refine trecord.trans ?_
      have none : (p.waiters.filter fun v => !((x.lostWaiters p.waiters).map Prod.fst).contains v) = [] :=
        List.filter_eq_nil_iff.2 fun v m => by simpa using (member v).2 m
      dsimp only
      rw [none]
  · have other : (t.endLoss r (p.disp == .live)).record q = t.record q := by
      rw [spec]
      unfold State.record
      dsimp only
      split
      · exact tableGet_tableErase_of_ne ne
      · rfl
    rw [other, serves.records q ne, yrecord, records q ne]
  · have kept : y.removals = s.removals := by rw [← hy, frame]
    refine (congrArg State.removals spec).trans (serves.removals.trans ?_)
    rw [kept]
    refine List.filter_congr fun m _ => ?_
    rw [Bool.eq_iff_iff]
    simp only [Bool.not_eq_true', ← Bool.not_eq_true, List.contains_iff_mem, member]
  · have isOpen' : (x.slot j).state.isOpen = true := by rw [rest j]; exact isOpen
    rw [uslot, (serves.of_open (j := j) (by rw [yslot]; exact isOpen')).2, yslot, rest j]
    refine List.map_congr_left fun y _ => ?_
    rw [x.condServed_lostWaiters y.ordinal y.cond isOpen' nodup, left', index]
    split <;> rfl
  · rw [uslot, serves.inflight, x.lostWaiters_countP, yslot, rest j]
  · rw [uslot]
    obtain ⟨y, own, rfl⟩ := List.mem_map.1 ((member v).2 m)
    exact serves.of_aborting (j := j) (by rw [yslot, rest j]; exact aborting) ⟨y, own, e⟩
  · rw [uslot]
    refine (serves.kept j).2.2.2.2.trans ?_
    rw [yslot, slot j]
    split <;> rfl
  · rw [uslot, serves.others j fun y m => none y.1 ((member y.1).1 (List.mem_map_of_mem m)), yslot, slot j,
      if_neg fun h => owner h.1 h.2]

/-- The loss of an entry that nothing waits for. -/
theorem State.discardAborting_of_none (record : s.record r = some p) (waiters : p.waiters = []) :
    (s.discardAborting r).lossWaiters r ((s.discardAborting r).waitersOf r) = (s, none) := by
  have none : s.waitersOf r = [] := by rw [State.waitersOf, record]; exact waiters
  have same : s.discardAborting r = s := by rw [State.discardAborting, none]; rfl
  rw [same, none]
  rfl

/-- The blocks of which the destruction of a way is no part. -/
structure State.Destroyed (s t : State) : Prop where
  pool : t.pool = s.pool
  slots : t.slots = s.slots
  removals : t.removals = s.removals
  counter : t.index.counter = s.index.counter
  copy : t.index.copy = s.index.copy

theorem State.destroyWay_destroyed (s : State) (b : Nat) (w : WayNo) : s.Destroyed (s.destroyWay b w) := by
  rw [State.destroyWay_eq, State.joinLevel_eq]
  exact ⟨rfl, rfl, rfl, rfl, rfl⟩

/-- Settles O36: one wrong way by `State.checkWays_one`, and the loss of an entry by `State.loss_lost`. -/
theorem wrongWaysAreDealtWith : Obligations.WrongWaysAreDealtWith := by
  rintro s s' key op c w settled ready completes destroyed
  have completes : Completes key c := completes
  have destroyed : s.begun.destroyWay op.bucket w = s' := (s.begun.destroyWay_eq op.bucket w).trans destroyed.symm
  obtain ⟨pool, slots, removed, counter, copy⟩ := s.begun.destroyWay_destroyed op.bucket w
  rw [destroyed] at pool slots removed counter copy
  have lostRun {x : State} (checked : s.begun.checkWays op.bucket ((w, .uncorrectable) :: cleanAbove w) = (x, none)) :
      exec (c ((Vector.replicate 16 .clean).set w .uncorrectable)) s = .next (s.endEvent (x.carryOut op (Vector.replicate 16 .clean))) := by
    rw [completes.run settled ready, State.carryOut_of_checked ((State.checkWays_one _ _ _ _).trans checked)]
  refine ⟨correctableWay completes settled ready w, completes.run settled ready _, fun plain => ?_, fun e i o r p entry provisional state found canonical => ?_⟩
  · rw [← destroyed]
    exact lostRun (State.checkWays_destroyed (State.provisionalAt_of_firm (s := s.begun) plain) (cleanAbove_clean w))
  have yes : s.begun.provisionalAt op.bucket w = true := State.provisionalAt_of_provisional (s := s.begun) entry provisional state
  have found : s.begun.recordAt op.bucket w = some (r, p) := found
  have dealt {x : State} (dealt : ((s'.loseRecord r p).discardAborting r).lossWaiters r (((s'.loseRecord r p).discardAborting r).waitersOf r) = (x, none)) :=
    lostRun (State.checkWays_lost yes found (cleanAbove_clean w) (destroyed.symm ▸ dealt))
  obtain ⟨lost, -, record, -⟩ := s'.loseRecord_spec r p
  have pool : s'.pool = s.pool := pool
  have slots : s'.slots = s.slots := slots
  refine ⟨fun waiters live => ?_, fun waiters kept => ?_, fun ws left nodup isOpen covers numbers => ?_⟩
  · rw [dealt (State.discardAborting_of_none record waiters), State.endLoss_spec, if_pos (beq_iff_eq.2 live)]
    have erased : tableErase (s'.loseRecord r p).pool r = tableErase s.pool r := by
      rw [lost, ← pool]
      exact tableErase_tablePut r _ (pool ▸ canonical.2.1)
    rw [erased, State.loseRecord, if_pos live]
    unfold State.setRecord State.editSlot State.setSlot State.slot
    rw [slots]
    rfl
  · rw [dealt (State.discardAborting_of_none record waiters), State.endLoss_spec, if_neg (by simpa using kept), State.loseRecord, if_neg kept, ← pool]
    rfl
  · have slot (j : SlotNo) : s'.slot j = s.slot j := by rw [State.slot, slots, State.slot]
    have same : s'.ofAborting = s.ofAborting := State.ofAborting_congr fun j => by rw [slot]
    have canonical' : s'.Canonical := destroyed ▸ (s.begun.destroyWay_rests op.bucket w).form canonical
    have counter : s'.index.counter = s.index.counter := counter
    have copy : s'.index.copy = s.index.copy := copy
    obtain ⟨x, run, k⟩ := State.loss_lost (r := r) (p := p) (ws := ws) canonical' (by rw [same]; exact left.symm) nodup (fun v m => by rw [slot]; exact covers v m)
      (by rw [counter, copy]; exact numbers)
    obtain ⟨mem, xindex, xrecord, records, removals, pending, inflight, aborting, provList, others⟩ := k
    simp only [slot, counter] at pending inflight aborting provList others xindex
    refine ⟨_, dealt run, mem, xindex, xrecord, fun q ne => (records q ne).trans (by rw [State.record, pool, State.record]), removals.trans (by rw [removed]; rfl), pending, inflight, aborting,
      provList, others⟩

end Sys2Proof.Machine

namespace Sys2Proof.Machine

set_option Elab.async false

variable {s t u v a : State} {r : Nat} {p : PoolRecord} {os qs : List Op} {op : Op} {key : OpKey}

/-! ### Allocations that find no number (R77, R78, R80) -/

/-- The descriptor writes with a reservation of 4,096 more among them (R78). -/
def State.reserving (s : State) : List DescWrite :=
  if s.index.writes.any (fun w => w.use == .reserve) then s.index.writes
  else s.index.writes ++ [{ desc := { s.index.copy with reserved := min (s.index.copy.reserved + 4096) (2 ^ 40) }, use := .reserve }]

theorem State.reservation_isSome (s : State) : s.reservation.isSome = s.index.writes.any fun w => w.use == .reserve := by
  rw [Bool.eq_iff_iff, State.reservation, List.find?_isSome, List.any_eq_true]

/-- At Reserved Through an allocation waits, with one reservation outstanding, -/
theorem State.allocate_waits (full : s.index.counter = s.index.copy.reserved) (below : s.index.counter < 2 ^ 40) :
    s.allocate = (.wait, { s with index := { s.index with writes := s.reserving } }) := by
  unfold State.allocate State.reserving
  dsimp only
  rw [if_neg (by omega), if_pos below, s.reservation_isSome]
  by_cases h : s.index.writes.any (fun w => w.use == .reserve) = true
  · simp only [if_pos h]
  · simp only [if_neg h]
    rfl

/-- and at 2^40 there are none. -/
theorem State.allocate_exhausted (full : s.index.counter = s.index.copy.reserved) (last : s.index.counter = 2 ^ 40) : s.allocate = (.exhausted, s) := by
  unfold State.allocate
  dsimp only
  rw [if_neg (by omega), if_neg (by omega)]

/-- The index with the operation at its place halted, and the reservation it waits for (R77, R78). -/
def State.haltedIndex (s : State) (os qs : List Op) (op : Op) (key : OpKey) (h : Halt) : IndexUnit := { s.index with
  inflight := os ++ { op with halt := some h } :: qs, waiting := s.index.waiting ++ [key], writes := s.reserving }

/-- A run that halts leaves its operation at its place (R77, R111). -/
theorem State.carryOut_halts {ecc : Vector Ecc 16} {h : Halt} (run : s.runFrom op (eccList ecc) = (u, some h)) (split : u.index.inflight = os ++ op :: qs)
    (first : ∀ x ∈ os, x.kind.key ≠ op.kind.key) :
    s.carryOut op ecc = ({ u with index := { u.index with
      inflight := os ++ { op with halt := some h } :: qs, waiting := u.index.waiting ++ [op.kind.key] } } : State).refreshAll := by
  rw [State.carryOut, run]
  unfold State.settleOp
  dsimp only
  rw [split, haltOp_split h first rfl]

/-- What a slot is whose stream the exhausted numbers have aborted and one of whose operations is over (R31, R80, R111). -/
structure Slot.OutOfNumbers (c d : Slot) : Prop where
  reason : d.reason = some .numbers
  state : d.state = if c.inflight ≤ 1 then .aborted else .aborting
  pending : d.pending = []
  feed : d.feed = []
  provList : d.provList = []
  inflight : d.inflight = c.inflight - 1

theorem State.Aborts.outOfNumbers {i : SlotNo} (k : s.Aborts a i .numbers) {d : Slot} (core : d.core = (a.slot i).core.dropped) : (s.slot i).OutOfNumbers d := by
  obtain ⟨feed, pending, provList⟩ := k.emptied
  have inflight : (a.slot i).inflight = (s.slot i).inflight := by rw [k.context]
  refine ⟨(congrArg Slot.reason core).trans k.reason_eq, (congrArg Slot.state core).trans ?_, (congrArg Slot.pending core).trans pending,
    (congrArg Slot.feed core).trans feed, (congrArg Slot.provList core).trans provList, (congrArg Slot.inflight core).trans (congrArg (· - 1) inflight)⟩
  simp only [Slot.core, Slot.dropped, k.state_eq, inflight]
  by_cases zero : (s.slot i).inflight = 0
  · rw [if_pos zero, if_neg (fun h => nomatch h.1), if_pos (by omega)]
  · rw [if_neg zero]
    by_cases one : (s.slot i).inflight ≤ 1
    · rw [if_pos ⟨rfl, by omega⟩, if_pos one]
    · rw [if_neg (fun h => one (by omega)), if_neg one]

/-! ### A lookup with no number (R74, R75, R80) -/

/-- The uses of a number, by the rows of R73 and R74. -/
theorem State.decideLookup_number {l : Lookup} {b : Nat} {use : NumberUse}
    (uses : use = .conflict ∧ (∃ w e, s.findDigest b l.digest = some (w, e) ∧ (e.length ≠ l.length ∨ e.check ≠ l.check)) ∨
      s.findDigest b l.digest = none ∧
        (use = .bucketFull ∧ (∀ w, s.entry b w ≠ none) ∨
          (∃ w, s.entry b w = none) ∧
            (use = .fillYield ∧ (s.slot l.slot).cls.policy = .yield ∧ s.index.fill = .declared ∨
              use = .insert ∧ ((s.slot l.slot).cls.policy = .always ∨ s.index.fill = .normal)))) : s.decideLookup l b = .number use := by
  rcases uses with ⟨rfl, w, e, found, differs⟩ | ⟨missed, ⟨rfl, full⟩ | ⟨⟨w, empty⟩, uses⟩⟩
  · exact State.decideLookup_conflict found differs
  · rw [State.decideLookup_missed missed, (s.emptyWayOf_eq_none b).2 full]
    rfl
  · have room : ¬(s.emptyWayOf b).isNone = true := fun h => (s.emptyWayOf_eq_none b).1 (Option.isNone_iff_eq_none.1 h) w empty
    rw [State.decideLookup_missed missed, if_neg room]
    rcases uses with ⟨rfl, yields, declared⟩ | ⟨rfl, always | normal⟩
    · exact if_pos ⟨yields, declared⟩
    · exact if_neg fun h => by rw [always] at h; cases h.1
    · exact if_neg fun h => by rw [normal] at h; cases h.2

theorem State.runLookup_waits {l : Lookup} {b : Nat} {use : NumberUse} (decided : s.decideLookup l b = .number use)
    (full : s.index.counter = s.index.copy.reserved) (below : s.index.counter < 2 ^ 40) :
    s.runLookup l b = ({ s with index := { s.index with writes := s.reserving } }, some (.number use)) := by
  unfold State.runLookup
  rw [decided]
  dsimp only
  rw [State.allocate_waits full below]

theorem State.runLookup_exhausted {l : Lookup} {b : Nat} {use : NumberUse} (decided : s.decideLookup l b = .number use)
    (full : s.index.counter = s.index.copy.reserved) (last : s.index.counter = 2 ^ 40) :
    s.runLookup l b = (((s.editStats LookupOutcome.numbers.count).enterAborting l.slot .numbers).dropInflight l.slot, none) := by
  unfold State.runLookup
  rw [decided]
  dsimp only
  rw [State.allocate_exhausted full last]
  rfl

/-- A lookup that needs a number halts at its bucket. -/
theorem lookupHalts {l : Lookup} {use : NumberUse} (settled : s.Settled) (handed : s.HandedOn)
    (ready : readyOp (.lookup l.slot l.ordinal) s.index.inflight = some op) (kind : op.kind = .lookup l) (split : s.index.inflight = os ++ op :: qs)
    (first : ∀ x ∈ os, x.kind.key ≠ .lookup l.slot l.ordinal) (decided : s.decideLookup l op.bucket = .number use)
    (full : s.index.counter = s.index.copy.reserved) (below : s.index.counter < 2 ^ 40) :
    exec (.lookupInsertComplete l.slot l.ordinal (Vector.replicate 16 .clean)) s =
      .next { s.begun with index := s.haltedIndex os qs op (.lookup l.slot l.ordinal) (.number use) } := by
  have key : op.kind.key = .lookup l.slot l.ordinal := by rw [kind]; rfl
  have run : s.begun.runFrom op (eccList (Vector.replicate 16 .clean)) = ({ s.begun with index := { s.index with writes := s.reserving } }, some (.number use)) := by
    rw [State.runFrom_clean, State.runBody, kind]
    exact State.runLookup_waits (s := s.begun) decided full below
  rw [Completes.run (.inl ⟨_, _, rfl, rfl⟩) settled ready, State.carryOut_halts run (os := os) (qs := qs) split (by rw [key]; exact first), key]
  have quiet : State.HandedOn { s.begun with index := s.haltedIndex os qs op (.lookup l.slot l.ordinal) (.number use) } := handed
  exact congrArg Host.Outcome.next ((congrArg s.endEvent quiet.refreshAll).trans
    (s.endEvent_of_same (t := { s.begun with index := s.haltedIndex os qs op (.lookup l.slot l.ordinal) (.number use) }) rfl rfl))

/-- A lookup for which there is no number aborts its stream, or gives an ABORTING one's count back (R80). -/
theorem lookupExhausted {l : Lookup} {use : NumberUse} (settled : s.Settled) (handed : s.HandedOn)
    (ready : readyOp (.lookup l.slot l.ordinal) s.index.inflight = some op) (kind : op.kind = .lookup l) (split : s.index.inflight = os ++ op :: qs)
    (first : ∀ x ∈ os, x.kind.key ≠ .lookup l.slot l.ordinal) (decided : s.decideLookup l op.bucket = .number use)
    (full : s.index.counter = s.index.copy.reserved) (last : s.index.counter = 2 ^ 40) :
    let counted : EngineStats := { s.index.stats with lookups := min (s.index.stats.lookups + 1) (2 ^ 48 - 1) }
    ((s.slot l.slot).state.isOpen = true →
      ∃ t, exec (.lookupInsertComplete l.slot l.ordinal (Vector.replicate 16 .clean)) s = .next t ∧ (s.slot l.slot).OutOfNumbers (t.slot l.slot) ∧ t.mem = s.mem ∧
        t.index = { s.index with stats := counted, inflight := os ++ qs, withdrawal := s.index.withdrawal ++ (s.slot l.slot).provList } ∧
        ∀ j, j ≠ l.slot → t.slot j = s.slot j) ∧
    ((s.slot l.slot).state = .aborting →
      ∃ t, exec (.lookupInsertComplete l.slot l.ordinal (Vector.replicate 16 .clean)) s = .next t ∧ (t.slot l.slot).core = (s.slot l.slot).core.dropped ∧
        t.mem = s.mem ∧ t.index = { s.index with stats := counted, inflight := os ++ qs } ∧ ∀ j, j ≠ l.slot → t.slot j = s.slot j) := by
  intro counted
  have key : op.kind.key = .lookup l.slot l.ordinal := by rw [kind]; rfl
  have erased : s.index.inflight.eraseP (fun o => o.kind.key == .lookup l.slot l.ordinal) = os ++ qs := by rw [split]; exact eraseP_split first key
  have body := State.runLookup_exhausted (s := s.begun) decided full last
  generalize hv : s.begun.editStats LookupOutcome.numbers.count = v at body
  have slots (j : SlotNo) : v.slot j = s.slot j := by rw [← hv]; rfl
  have vindex : v.index = { s.index with stats := counted } := by rw [← hv]; rfl
  have vmem : v.mem = s.mem := by rw [← hv]; rfl
  refine ⟨fun isOpen => ?_, fun aborting => ?_⟩
  · have k := v.enterAborting_aborts l.slot .numbers (by rw [slots]; exact SlotState.isLive_of_isOpen isOpen)
    generalize v.enterAborting l.slot .numbers = a at *
    obtain ⟨rest, self, others⟩ := a.dropInflight_core l.slot
    generalize a.dropInflight l.slot = u at *
    obtain ⟨t, run, frame, core, same⟩ := settled.lookupCompletes handed ready kind body fun j ne => (others j ne).trans ((k.others j ne).trans (slots j))
    have out := k.outOfNumbers (core.trans self)
    rw [slots] at out
    refine ⟨t, run, out, ?_, ?_, same⟩
    · rw [frame, rest]
      exact k.same.2.2.2.2.2.trans vmem
    · rw [frame, rest]
      dsimp only
      rw [k.issued.1, vindex, slots]
      dsimp only
      rw [erased]
  · have closed : v.enterAborting l.slot .numbers = v := by
      rw [State.enterAborting]
      dsimp only
      rw [if_neg (by rw [slots, aborting]; nofun)]
    rw [closed] at body
    obtain ⟨rest, self, others⟩ := v.dropInflight_core l.slot
    generalize v.dropInflight l.slot = u at *
    obtain ⟨t, run, frame, core, same⟩ := settled.lookupCompletes handed ready kind body fun j ne => (others j ne).trans (slots j)
    refine ⟨t, run, core.trans (by rw [self, slots]), ?_, ?_, same⟩
    · rw [frame, rest]
      exact vmem
    · rw [frame, rest]
      dsimp only
      rw [vindex]
      dsimp only
      rw [erased]

end Sys2Proof.Machine

namespace Sys2Proof.Machine

set_option Elab.async false

variable {s t u v a x : State} {r : Nat} {p : PoolRecord} {os qs : List Op} {op : Op} {key : OpKey} {l : List (Waiter × Option ChunkCond)}

/-- The end of an event that has handed its conditions on: what it leaves of the state that the event has made (R132, R166). -/
structure State.Ended (x t : State) : Prop where
  frame : t = { x with slots := t.slots, notice := t.notice, port := t.port }
  core : ∀ j, (t.slot j).core = (x.slot j).core
  slot : ∀ j, (x.slot j).marks = (x.slot j).marksDue → t.slot j = x.slot j

theorem State.ended (s x : State) : x.Ended (s.endEvent x.refreshAll) := by
  have spec := x.refreshAll_spec
  have core := x.refreshAll_core
  have slots := x.refreshAll_slot
  generalize x.refreshAll = y at *
  have ends := s.endEvent_eq y
  generalize s.endEvent y = t at *
  have tslot (j : SlotNo) : t.slot j = y.slot j := by rw [ends]; rfl
  exact ⟨by rw [ends, spec], fun j => by rw [tslot, core], fun j h => by rw [tslot, slots j h]⟩

theorem State.reserving_congr (h : t.index = s.index) : t.reserving = s.reserving := by rw [State.reserving, State.reserving, h]

/-! ### Waiters that are discarded (R31, R107) -/

/-- Waiters that leave a list without an outcome leave the pending chunks alone. -/
theorem State.Serves.pending_of_none (h : s.Serves t r l) (none : ∀ x ∈ l, x.2 = none) (j : SlotNo) : (t.slot j).pending = (s.slot j).pending := by
  have served (c : Slot) : (c.served j l).pending = c.pending := by
    clear h
    induction l generalizing c with
    | nil => rfl
    | cons x l ih =>
      obtain ⟨first, rest⟩ := List.forall_mem_cons.1 none
      rw [Slot.served_cons, ih rest, first]
      split <;> rfl
  exact (congrArg Slot.pending (h.core j)).trans (served _)

/-- The counts that fall where the waiters of ABORTING streams are discarded. -/
theorem State.countP_ofAborting (s : State) (ws : List Waiter) (j : SlotNo) :
    ((ws.filter s.ofAborting).map fun w => ((w, none) : Waiter × Option ChunkCond)).countP (fun y => y.1.slot == j) =
      if (s.slot j).state = .aborting then ws.countP fun v => v.slot == j else 0 := by
  rw [List.countP_map, List.countP_filter]
  by_cases aborting : (s.slot j).state = .aborting
  · rw [if_pos aborting]
    refine List.countP_congr fun v _ => ?_
    simp only [Function.comp, Bool.and_eq_true, beq_iff_eq, and_iff_left_iff_imp]
    exact fun e => beq_iff_eq.2 (e ▸ aborting)
  · rw [if_neg aborting, List.countP_eq_zero]
    intro v _ h
    simp only [Function.comp, Bool.and_eq_true, beq_iff_eq] at h
    exact aborting (h.1 ▸ beq_iff_eq.1 h.2)

/-- What the discarding of the waiters of ABORTING streams leaves (R107). -/
structure State.Discarded (s d : State) (r : Nat) (p : PoolRecord) (ws : List Waiter) : Prop where
  frame : s.WaitersFrame d
  waiters : d.waitersOf r = ws
  record : d.record r = some { p with waiters := ws }
  records : ∀ q, q ≠ r → d.record q = s.record q
  inflight : ∀ j, (d.slot j).inflight = (s.slot j).inflight - if (s.slot j).state = .aborting then p.waiters.countP fun v => v.slot == j else 0
  pending : ∀ j, (d.slot j).pending = (s.slot j).pending
  others : ∀ j, (s.slot j).state ≠ .aborting → d.slot j = s.slot j

theorem State.discardAborting_discarded {ws : List Waiter} (record : s.record r = some p) (covers : s.Covers p.waiters)
    (left : p.waiters.filter (fun v => !s.ofAborting v) = ws) : s.Discarded (s.discardAborting r) r p ws := by
  obtain ⟨serves, waiters⟩ := State.discardAborting_spec record covers
  rw [left] at waiters
  generalize s.discardAborting r = d at *
  have drecord := serves.record p record
  have own : d.waitersOf r = p.waiters.filter fun v => !(((p.waiters.filter s.ofAborting).map fun w => ((w, none) : Waiter × Option ChunkCond)).map Prod.fst).contains v := by
    rw [State.waitersOf, drecord]
  refine ⟨serves.frame, waiters, by rw [drecord, ← own, waiters], serves.records, fun j => ?_, serves.pending_of_none fun x m => ?_, fun j open' => ?_⟩
  · rw [serves.inflight, s.countP_ofAborting]
  · obtain ⟨w, -, rfl⟩ := List.mem_map.1 m
    rfl
  · refine serves.others j fun x m e => ?_
    obtain ⟨w, own, rfl⟩ := List.mem_map.1 m
    exact open' (e ▸ beq_iff_eq.1 (List.mem_filter.1 own).2)

/-- With one waiter, of an open stream, there is none to discard. -/
theorem State.discardAborting_of_open {w : Waiter} (record : s.record r = some p) (waiters : p.waiters = [w]) (isOpen : (s.slot w.slot).state.isOpen = true) :
    s.discardAborting r = s ∧ s.waitersOf r = [w] ∧ s.Covers p.waiters ∧ p.waiters.filter (fun v => !s.ofAborting v) = [w] := by
  have not : (s.slot w.slot).state ≠ .aborting := fun h => by rw [h] at isOpen; cases isOpen
  have own : s.waitersOf r = [w] := by rw [State.waitersOf, record]; exact waiters
  refine ⟨?_, own, ?_, ?_⟩
  · rw [State.discardAborting, own, List.foldl_cons, List.foldl_nil, if_neg not]
  · intro v m aborting
    rw [waiters, List.mem_singleton] at m
    subst m
    exact absurd aborting not
  · rw [waiters, List.filter_cons_of_pos, List.filter_nil]
    simpa [State.ofAborting] using not

/-! ### A waiter with no number (R80, R111) -/

/-- What the exhausted numbers make of a waiter of an open stream: the stream aborted, and the waiter discarded. -/
structure State.WaiterOut (s u : State) (r : Nat) (p : PoolRecord) (w : Waiter) : Prop where
  slot : ∀ d : Slot, d.core = (u.slot w.slot).core → (s.slot w.slot).OutOfNumbers d
  index : u.index = { s.index with withdrawal := s.index.withdrawal ++ (s.slot w.slot).provList }
  mem : u.mem = s.mem
  record : u.record r = some { p with
    disp := if r ∈ (s.slot w.slot).provList then .withdrawing else p.disp, waiters := p.waiters.filter fun v => !([w].contains v) }
  records : ∀ q, q ≠ r → q ∉ (s.slot w.slot).provList → u.record q = s.record q
  others : ∀ j, j ≠ w.slot → u.slot j = s.slot j

theorem State.waiterExhausted_out {w : Waiter} (record : s.record r = some p) (isOpen : (s.slot w.slot).state.isOpen = true) :
    s.WaiterOut (s.waiterExhausted r w) r p w := by
  have k := s.enterAborting_aborts w.slot .numbers (SlotState.isLive_of_isOpen isOpen)
  unfold State.waiterExhausted
  generalize s.enterAborting w.slot .numbers = a at *
  have serves := a.discardWaiter_serves r w
  have arecord : a.record r = some { p with disp := if r ∈ (s.slot w.slot).provList then .withdrawing else p.disp } := by
    rw [k.records, record]
    split <;> rfl
  have core : ((a.discardWaiter r w).slot w.slot).core = (a.slot w.slot).core.dropped := by
    refine (serves.core w.slot).trans ?_
    rw [Slot.served_cons, if_pos rfl]
    rfl
  refine ⟨fun d e => k.outOfNumbers (e.trans core), serves.index_eq.trans k.issued.1, serves.mem_eq.trans k.same.2.2.2.2.2, serves.record _ arecord,
    fun q ne unlisted => (serves.records q ne).trans ((k.records q).trans (if_neg unlisted)), fun j ne => ?_⟩
  rw [serves.others j (fun y m e => ne (by rw [List.mem_singleton.1 m] at e; exact e.symm)), k.others j ne]

theorem State.waiterExhausted_canonical (canonical : s.Canonical) (w : Waiter) : (s.waiterExhausted r w).Canonical :=
  (State.discardWaiter_keeps _ r w).form ((s.enterAborting_keeps w.slot .numbers).form canonical)

/-! ### A WITHDRAW's walk with no number (R111) -/

theorem State.walk_waits {w : Waiter} {ws : List Waiter} (full : s.index.counter = s.index.copy.reserved) (below : s.index.counter < 2 ^ 40) :
    s.walk r (w :: ws) = (.halted w, { s with index := { s.index with writes := s.reserving } }) := by
  rw [State.walk, State.allocate_waits full below]

/-- A WITHDRAW's walk halts at the first waiter that is left. -/
theorem withdrawHalts {e : Entry} {w : Waiter} {ws : List Waiter} (settled : s.Settled) (handed : s.HandedOn)
    (ready : readyOp (.withdraw r) s.index.inflight = some op) (kind : op.kind = .withdraw r) (split : s.index.inflight = os ++ op :: qs)
    (first : ∀ x ∈ os, x.kind.key ≠ .withdraw r) (record : s.record r = some p) (kept : p.disp ≠ .lost) (entry : s.entry p.bucket p.way = some e)
    (left : p.waiters.filter (fun v => !s.ofAborting v) = w :: ws) (covers : s.Covers p.waiters)
    (full : s.index.counter = s.index.copy.reserved) (below : s.index.counter < 2 ^ 40) :
    ∃ t, exec (.withdrawComplete r (Vector.replicate 16 .clean)) s = .next t ∧ t.index = s.haltedIndex os qs op (.withdraw r) (.walk r w) ∧ t.mem = s.mem ∧
      t.record r = some { p with waiters := w :: ws } ∧ (∀ q, q ≠ r → t.record q = s.record q) ∧
      (∀ j, (t.slot j).inflight = (s.slot j).inflight - if (s.slot j).state = .aborting then p.waiters.countP (fun v => v.slot == j) else 0) ∧
      ∀ j, (s.slot j).state ≠ .aborting → t.slot j = s.slot j := by
  have key : op.kind.key = .withdraw r := by rw [kind]; rfl
  have discarded := State.discardAborting_discarded (s := s.begun) (r := r) record covers left
  have walks := State.runWithdraw_walks (s := s.begun) (r := r) record kept (e := e) entry covers
  rw [show (p.waiters.filter fun v => !s.begun.ofAborting v) = w :: ws from left] at walks
  generalize s.begun.discardAborting r = d at *
  obtain ⟨frame, -, drecord, records, inflight, -, others⟩ := discarded
  have frame : d = { s.begun with slots := d.slots, port := d.port, pool := d.pool, removals := d.removals } := frame
  have index : d.index = s.index := by rw [frame]; rfl
  have run : s.begun.runFrom op (eccList (Vector.replicate 16 .clean)) = ({ d with index := { s.index with writes := s.reserving } }, some (.walk r w)) := by
    rw [State.runFrom_clean, State.runBody, kind]
    refine walks.trans ?_
    rw [State.walk_waits (by rw [index]; exact full) (by rw [index]; exact below), State.reserving_congr index, index]
    rfl
  have exec_eq := (Completes.run (.inr (.inr (.inl ⟨r, rfl, rfl⟩))) settled ready (Vector.replicate 16 .clean)).trans
    (congrArg (fun z => Host.Outcome.next (s.endEvent z)) (State.carryOut_halts run (os := os) (qs := qs) split (by rw [key]; exact first)))
  rw [key] at exec_eq
  have ended := s.ended ({ d with index := s.haltedIndex os qs op (.withdraw r) (.walk r w) } : State)
  refine ⟨_, exec_eq, ?_⟩
  have slot (j : SlotNo) : State.slot { d with index := s.haltedIndex os qs op (.withdraw r) (.walk r w) } j = d.slot j := rfl
  have drecord' (q : Nat) : State.record { d with index := s.haltedIndex os qs op (.withdraw r) (.walk r w) } q = d.record q := rfl
  have trecord (q : Nat) : State.record (s.endEvent (State.refreshAll { d with index := s.haltedIndex os qs op (.withdraw r) (.walk r w) })) q = d.record q := by
    rw [← drecord' q, State.record, State.record, ended.frame]
  change State.index (s.endEvent (State.refreshAll { d with index := s.haltedIndex os qs op (.withdraw r) (.walk r w) })) = _ ∧ _
  refine ⟨by rw [ended.frame], ?_, (trecord r).trans drecord, fun q ne => (trecord q).trans (records q ne), fun j => ?_, fun j open' => ?_⟩
  · exact (congrArg State.mem ended.frame).trans (by rw [frame]; rfl)
  · exact (congrArg Slot.inflight (ended.core j) :).trans (inflight j)
  · refine (ended.slot j ?_).trans (others j open')
    rw [slot, others j open']
    exact handed j

end Sys2Proof.Machine

namespace Sys2Proof.Machine

set_option Elab.async false

variable {s t u v a x : State} {r : Nat} {p : PoolRecord} {os qs : List Op} {op : Op} {key : OpKey} {l : List (Waiter × Option ChunkCond)}

/-- A WITHDRAW whose one waiter meets the exhausted numbers empties its way (R110, R111). -/
theorem withdrawExhausted {e : Entry} {w : Waiter} (settled : s.Settled) (handed : s.HandedOn)
    (ready : readyOp (.withdraw r) s.index.inflight = some op) (kind : op.kind = .withdraw r) (split : s.index.inflight = os ++ op :: qs)
    (first : ∀ x ∈ os, x.kind.key ≠ .withdraw r) (record : s.record r = some p) (kept : p.disp ≠ .lost) (entry : s.entry p.bucket p.way = some e)
    (waiters : p.waiters = [w]) (isOpen : (s.slot w.slot).state.isOpen = true) (canonical : s.Canonical)
    (full : s.index.counter = s.index.copy.reserved) (last : s.index.counter = 2 ^ 40) :
    ∃ t, exec (.withdrawComplete r (Vector.replicate 16 .clean)) s = .next t ∧ (s.slot w.slot).OutOfNumbers (t.slot w.slot) ∧ t.entry p.bucket p.way = none ∧
      t.record r = none ∧ t.index = { s.index with
        withdrawal := s.index.withdrawal ++ (s.slot w.slot).provList, occupancy := s.index.occupancy - 1
        stats := { s.index.stats with withdrawals := min (s.index.stats.withdrawals + 1) (2 ^ 48 - 1) }, inflight := os ++ qs } ∧
      ∀ j, j ≠ w.slot → t.slot j = s.slot j := by
  have key : op.kind.key = .withdraw r := by rw [kind]; rfl
  obtain ⟨none, -, covers, left⟩ := State.discardAborting_of_open (s := s.begun) record waiters isOpen
  have walks := State.runWithdraw_walks (s := s.begun) (r := r) record kept (e := e) entry covers
  rw [left, none] at walks
  have out := State.waiterExhausted_out (s := s.begun) (r := r) record isOpen
  have canonical' := State.waiterExhausted_canonical (s := s.begun) (r := r) canonical w
  have walk : s.begun.walk r [w] = (.noOwner, s.begun.waiterExhausted r w) := by
    rw [State.walk, State.allocate_exhausted (s := s.begun) full last]
    rfl
  rw [walk] at walks
  generalize s.begun.waiterExhausted r w = u at *
  have body := (show s.begun.runBody op = s.begun.runWithdraw r by rw [State.runBody, kind]).trans (walks.trans (State.endWalk_noOwner out.record))
  obtain ⟨t, run, completed, -⟩ := settled.completes ready key body
  have mem : t.mem = { u.mem with ways := tableErase u.mem.ways (wayKey p.bucket p.way) } := by rw [completed.frame]
  have erased : s.index.inflight.eraseP (fun o => o.kind.key == .withdraw r) = os ++ qs := by rw [split]; exact eraseP_split first key
  refine ⟨t, run, out.slot _ (completed.core w.slot), ?_, ?_, ?_, fun j ne => completed.slot_of_same handed (out.others j ne)⟩
  · rw [State.entry, mem]
    exact tableGet_tableErase_self canonical'.1
  · rw [State.record, completed.frame]
    exact tableGet_tableErase_self canonical'.2.1
  · rw [completed.frame]
    dsimp only
    rw [out.index, ← erased]
    rfl

/-! ### The loss of an entry with no number (R111, R113) -/

/-- The entry that is destroyed, its record lost: where the waiters come to be dealt with. -/
structure State.AtLoss (s y : State) (b : Nat) (w : WayNo) (r : Nat) (p : PoolRecord) : Prop where
  mem : y.mem = { s.mem with ways := tableErase s.mem.ways (wayKey b w) }
  index : y.index = { s.index with
    error := true, stats := { s.index.stats with uncorrected := min (s.index.stats.uncorrected + 1) (2 ^ 32 - 1) }, occupancy := s.index.occupancy - 1 }
  record : y.record r = some { p with disp := .lost }
  records : ∀ q, q ≠ r → y.record q = s.record q
  slot : ∀ j, y.slot j = if p.disp = .live ∧ j = p.owner then (s.slot j).dropProv r else s.slot j

theorem State.destroyWay_atLoss {b : Nat} {w : WayNo} {e : Entry} (entry : s.entry b w = some e) (state : s.index.state ≠ .scanning) (r : Nat) (p : PoolRecord) :
    s.AtLoss ((s.destroyWay b w).loseRecord r p) b w r p := by
  have full : (s.destroyWay b w).mem = { s.mem with ways := tableErase s.mem.ways (wayKey b w) } ∧ (s.destroyWay b w).index = { s.index with
      error := true, stats := { s.index.stats with uncorrected := min (s.index.stats.uncorrected + 1) (2 ^ 32 - 1) }, occupancy := s.index.occupancy - 1 } := by
    rw [State.destroyWay_eq, State.joinLevel_eq, if_pos ⟨by rw [entry]; nofun, state⟩]
    exact ⟨rfl, rfl⟩
  obtain ⟨pool, slots, -⟩ := s.destroyWay_destroyed b w
  generalize s.destroyWay b w = x at *
  obtain ⟨frame, slot, record, records⟩ := x.loseRecord_spec r p
  have xslot (j : SlotNo) : x.slot j = s.slot j := by rw [State.slot, slots, State.slot]
  generalize x.loseRecord r p = y at *
  refine ⟨by rw [frame]; exact full.1, by rw [frame]; exact full.2, record, fun q ne => (records q ne).trans (by rw [State.record, pool, State.record]), fun j => ?_⟩
  rw [slot j, xslot]

/-- What a lost record leaves of a slot but for its owner's list. -/
theorem State.AtLoss.rest {b : Nat} {w : WayNo} (h : s.AtLoss x b w r p) (j : SlotNo) :
    x.slot j = { s.slot j with provList := (x.slot j).provList, provCount := (x.slot j).provCount } := by
  rw [h.slot j]
  split <;> rfl

theorem State.AtLoss.covers {b : Nat} {w : WayNo} {ws : List Waiter} (h : s.AtLoss x b w r p) (covers : s.Covers ws) : x.Covers ws := by
  intro v m
  rw [h.rest v.slot]
  exact covers v m

/-- An operation halts at the loss of an entry whose waiters need numbers. -/
theorem lossHalts {c : Vector Ecc 16 → Instr} {e : Entry} {w : WayNo} {i : SlotNo} {o : Nat} {v : Waiter} {ws : List Waiter} (settled : s.Settled) (handed : s.HandedOn)
    (ready : readyOp key s.index.inflight = some op) (completes : Completes key c) (own : op.kind.key = key) (split : s.index.inflight = os ++ op :: qs)
    (first : ∀ x ∈ os, x.kind.key ≠ key) (entry : s.entry op.bucket w = some e) (provisional : e.state = .provisional i o) (state : s.index.state ≠ .scanning)
    (found : s.recordAt op.bucket w = some (r, p)) (left : p.waiters.filter (fun v => !s.ofAborting v) = v :: ws) (covers : s.Covers p.waiters)
    (full : s.index.counter = s.index.copy.reserved) (below : s.index.counter < 2 ^ 40) :
    ∃ t, exec (c ((Vector.replicate 16 .clean).set w .uncorrectable)) s = .next t ∧
      t.index = { s.haltedIndex os qs op key (.loss r (p.disp == .live) v (cleanAbove w)) with
        error := true, stats := { s.index.stats with uncorrected := min (s.index.stats.uncorrected + 1) (2 ^ 32 - 1) }, occupancy := s.index.occupancy - 1 } ∧
      t.record r = some { p with disp := .lost, waiters := v :: ws } ∧ (∀ q, q ≠ r → t.record q = s.record q) ∧
      t.mem = { s.mem with ways := tableErase s.mem.ways (wayKey op.bucket w) } ∧ (∀ j, (t.slot j).pending = (s.slot j).pending) ∧
      ∀ j, (s.slot j).state ≠ .aborting → (p.disp = .live → j ≠ p.owner) → t.slot j = s.slot j := by
  have loss := State.destroyWay_atLoss (s := s.begun) entry state r p
  have halts (t : State) (v : Waiter) := State.checkWays_halts (s := s.begun) (t := t) (x := v) (State.provisionalAt_of_provisional (s := s.begun) entry provisional state)
    found (cleanAbove w)
  generalize (s.begun.destroyWay op.bucket w).loseRecord r p = y at *
  have same : y.ofAborting = s.ofAborting := State.ofAborting_congr fun j => by rw [loss.rest j]; rfl
  have discarded := State.discardAborting_discarded (s := y) (ws := v :: ws) loss.record (loss.covers covers) (by rw [same]; exact left)
  generalize y.discardAborting r = d at *
  obtain ⟨frame, waiters, drecord, records, -, pending, others⟩ := discarded
  have index : d.index = y.index := by rw [show d = { y with slots := d.slots, port := d.port, pool := d.pool, removals := d.removals } from frame]
  have mem : d.mem = y.mem := by rw [show d = { y with slots := d.slots, port := d.port, pool := d.pool, removals := d.removals } from frame]
  have counter : d.index.counter = s.index.counter := by rw [index, loss.index]; rfl
  have copy : d.index.copy = s.index.copy := by rw [index, loss.index]; rfl
  have reserving : d.reserving = s.reserving := by rw [State.reserving, State.reserving, copy, index, loss.index]; rfl
  have waits : d.lossWaiters r (d.waitersOf r) = ({ d with index := { d.index with writes := s.reserving } }, some v) := by
    rw [waiters, State.lossWaiters, State.allocate_waits (by rw [counter, copy]; exact full) (by rw [counter]; exact below), reserving]
  have run : s.begun.runFrom op (eccList ((Vector.replicate 16 .clean).set w .uncorrectable)) =
      ({ d with index := { d.index with writes := s.reserving } }, some (.loss r (p.disp == .live) v (cleanAbove w))) := by
    rw [State.runFrom, State.checkWays_one, halts _ _ waits]
  have exec_eq := (completes.run settled ready _).trans (congrArg (fun z => Host.Outcome.next (s.endEvent z))
    (State.carryOut_halts run (os := os) (qs := qs) (by rw [index, loss.index]; exact split) (by rw [own]; exact first)))
  rw [own] at exec_eq
  generalize hx : ({ d with index := { d.index with
    writes := s.reserving, inflight := os ++ { op with halt := some (.loss r (p.disp == .live) v (cleanAbove w)) } :: qs
    waiting := d.index.waiting ++ [key] } } : State) = x
  have exec_eq : exec (c ((Vector.replicate 16 .clean).set w .uncorrectable)) s = .next (s.endEvent x.refreshAll) := by rw [exec_eq, ← hx]
  have ended := s.ended x
  generalize s.endEvent x.refreshAll = t at *
  have xslot (j : SlotNo) : x.slot j = d.slot j := by rw [← hx]; rfl
  have trecord (q : Nat) : t.record q = d.record q := by rw [State.record, ended.frame, ← hx]; rfl
  refine ⟨t, exec_eq, ?_, (trecord r).trans drecord, fun q ne => ?_, ?_, fun j => ?_, fun j open' owner => ?_⟩
  · rw [ended.frame, ← hx]
    dsimp only
    rw [index, loss.index]
    rfl
  · rw [trecord, records q ne, loss.records q ne]; rfl
  · rw [ended.frame, ← hx]
    exact mem.trans loss.mem
  · refine (congrArg Slot.pending (ended.core j) :).trans ?_
    rw [show (x.slot j).core.pending = (x.slot j).pending from rfl, xslot, pending, loss.rest j]
    rfl
  · have same : x.slot j = s.slot j := by
      rw [xslot, others j (by rw [loss.rest j]; exact open'), loss.slot j, if_neg fun h => owner h.1 h.2]; rfl
    rw [ended.slot j (by rw [same]; exact handed j), same]

/-- An operation goes on at its bucket when the one waiter of an entry it found lost has met the exhausted numbers. -/
theorem lossExhausted {c : Vector Ecc 16 → Instr} {e : Entry} {w : WayNo} {i : SlotNo} {o : Nat} {v : Waiter} (settled : s.Settled)
    (ready : readyOp key s.index.inflight = some op) (completes : Completes key c) (entry : s.entry op.bucket w = some e) (provisional : e.state = .provisional i o)
    (state : s.index.state ≠ .scanning) (found : s.recordAt op.bucket w = some (r, p)) (waiters : p.waiters = [v]) (isOpen : (s.slot v.slot).state.isOpen = true)
    (unlisted : r ∉ (s.slot v.slot).provList) (canonical : s.Canonical) (full : s.index.counter = s.index.copy.reserved) (last : s.index.counter = 2 ^ 40) :
    ∃ u : State, exec (c ((Vector.replicate 16 .clean).set w .uncorrectable)) s = .next (s.endEvent (u.carryOut op (Vector.replicate 16 .clean))) ∧
      u.index = { s.index with
        error := true, stats := { s.index.stats with uncorrected := min (s.index.stats.uncorrected + 1) (2 ^ 32 - 1) }
        occupancy := s.index.occupancy - 1, withdrawal := s.index.withdrawal ++ (s.slot v.slot).provList } ∧
      u.mem = { s.mem with ways := tableErase s.mem.ways (wayKey op.bucket w) } ∧
      u.record r = (if p.disp = .live then none else some { p with disp := .lost, waiters := [] }) ∧
      (∀ q, q ≠ r → q ∉ (s.slot v.slot).provList → u.record q = s.record q) ∧ (s.slot v.slot).OutOfNumbers (u.slot v.slot) ∧
      ∀ j, j ≠ v.slot → (p.disp = .live → j ≠ p.owner) → u.slot j = s.slot j := by
  have loss := State.destroyWay_atLoss (s := s.begun) entry state r p
  have lost (t : State) := State.checkWays_lost (s := s.begun) (t := t) (State.provisionalAt_of_provisional (s := s.begun) entry provisional state)
    found (cleanAbove_clean w)
  have ycanonical : ((s.begun.destroyWay op.bucket w).loseRecord r p).Canonical := by
    obtain ⟨record, -⟩ := State.record_of_recordAt canonical found
    exact (State.loseRecord_keeps _ r p fun _ => canonical.2.2 _ (mem_of_tableGet record)).form ((s.begun.destroyWay_rests op.bucket w).form canonical)
  generalize (s.begun.destroyWay op.bucket w).loseRecord r p = y at *
  have unlisted' : r ∉ (y.slot v.slot).provList := by
    rw [loss.slot v.slot]
    split
    · exact fun m => unlisted (List.mem_filter.1 m).1
    · exact unlisted
  have yopen : (y.slot v.slot).state.isOpen = true := by rw [loss.rest]; exact isOpen
  have out := State.waiterExhausted_out (r := r) loss.record yopen
  have ucanonical := State.waiterExhausted_canonical (r := r) ycanonical v
  have dealt : (y.discardAborting r).lossWaiters r ((y.discardAborting r).waitersOf r) = (y.waiterExhausted r v, none) := by
    obtain ⟨none, own, -⟩ := State.discardAborting_of_open loss.record waiters yopen
    rw [none, own, State.lossWaiters, State.allocate_exhausted (by rw [loss.index]; exact full) (by rw [loss.index]; exact last)]
    rfl
  have lost := lost _ dealt
  generalize y.waiterExhausted r v = x at *
  have spec := x.endLoss_spec r (p.disp == .live)
  have uslot (j : SlotNo) : (x.endLoss r (p.disp == .live)).slot j = x.slot j := by rw [spec]; rfl
  have listed : (y.slot v.slot).provList = (s.slot v.slot).provList := by
    rw [loss.slot v.slot]
    split
    · exact List.filter_eq_self.2 fun q m => bne_iff_ne.2 fun e => unlisted (e ▸ m)
    · rfl
  have same := out.slot _ rfl
  refine ⟨x.endLoss r (p.disp == .live), ?_, ?_, ?_, ?_, fun q ne free => ?_, ?_, fun j ne owner => ?_⟩
  · rw [completes.run settled ready, State.carryOut_of_checked ((State.checkWays_one ..).trans lost)]
  · rw [spec]
    refine out.index.trans ?_
    rw [listed, loss.index]
    rfl
  · rw [spec]
    exact out.mem.trans loss.mem
  · rw [spec]
    by_cases live : p.disp = .live
    · rw [if_pos live, if_pos (beq_iff_eq.2 live)]
      exact tableGet_tableErase_self ucanonical.2.1
    · rw [if_neg live, if_neg (by simpa using live)]
      refine out.record.trans ?_
      rw [if_neg unlisted', waiters]
      simp
  · have other : (x.endLoss r (p.disp == .live)).record q = x.record q := by
      rw [spec]
      unfold State.record
      dsimp only
      split
      · exact tableGet_tableErase_of_ne ne
      · rfl
    rw [other, out.records q ne (by rw [listed]; exact free), loss.records q ne]
    rfl
  · rw [uslot]
    rw [loss.rest v.slot] at same
    exact ⟨same.reason, same.state, same.pending, same.feed, same.provList, same.inflight⟩
  · rw [uslot, out.others j ne, loss.slot j, if_neg fun h => owner h.1 h.2]
    rfl

end Sys2Proof.Machine

namespace Sys2Proof.Machine

set_option Elab.async false

/-- An ABORTING slot is ABORTED with the last of its operations. -/
theorem Slot.dropped_aborting {c : Slot} (aborting : c.state = .aborting) : c.core.dropped.state = if c.inflight ≤ 1 then .aborted else .aborting := by
  have last : c.inflight ≤ 1 ↔ c.inflight - 1 = 0 := by omega
  simp only [Slot.core, Slot.dropped, aborting, true_and, last]

/-- Settles O39, by what each of the three operations does at an allocation that waits and at one that is exhausted. -/
theorem allocationsMeetTheReserve : Obligations.AllocationsMeetTheReserve := by
  intro s key op os qs settled handed ready split first full clean counted halted
  refine ⟨fun l use key' kind uses => ?_, fun r p e w ws key' kind record kept entry left covers => ?_,
    fun c w e i o r p v ws completes entry provisional state found left covers => ?_⟩
  · subst key'
    have decided := State.decideLookup_number uses
    refine ⟨fun below => lookupHalts settled handed ready kind split first decided full below, fun last => ?_⟩
    obtain ⟨opened, aborting⟩ := lookupExhausted settled handed ready kind split first decided full last
    refine ⟨fun isOpen => ?_, fun isAborting => ?_⟩
    · obtain ⟨t, run, out, mem, index, others⟩ := opened isOpen
      exact ⟨t, run, out.reason, out.state, out.pending, out.feed, out.provList, out.inflight, mem, by rw [index], by rw [index], by rw [index], by rw [index], others⟩
    · obtain ⟨t, run, core, mem, index, others⟩ := aborting isAborting
      have inflight := congrArg Slot.inflight core
      have reason := congrArg Slot.reason core
      refine ⟨t, run, reason, (congrArg Slot.state core).trans ?_, inflight, mem, by rw [index], by rw [index], by rw [index], others⟩
      exact Slot.dropped_aborting isAborting
  · subst key'
    refine ⟨fun below => withdrawHalts settled handed ready kind split first record kept entry left covers full below, fun last waiters isOpen canonical => ?_⟩
    obtain ⟨t, run, out, empty, free, index, others⟩ :=
      withdrawExhausted settled handed ready kind split first record kept entry waiters isOpen canonical full last
    exact ⟨t, run, out.reason, out.state, out.pending, out.inflight, empty, free, by rw [index], by rw [index], by rw [index], by rw [index], by rw [index], others⟩
  · obtain ⟨-, -, -, -, own, -⟩ := readyOp_split ready
    refine ⟨fun below => lossHalts settled handed ready completes own split first entry provisional state found left covers full below,
      fun last waiters isOpen unlisted canonical => ?_⟩
    obtain ⟨u, run, index, mem, record, records, out, others⟩ :=
      lossExhausted settled ready completes entry provisional state found waiters isOpen unlisted canonical full last
    exact ⟨u, run, index, mem, record, records, out.reason, out.state, out.pending, out.feed, out.provList, out.inflight, others⟩

end Sys2Proof.Machine

namespace Sys2Proof.Machine

set_option Elab.async false

variable {s t u : State} {w : DescWrite} {ws : List DescWrite}

/-! ### DESCRIPTOR_WRITE_COMPLETE, but for what waited (R79, R83, R87, R143, R174) -/

/-- A descriptor write that is found whole. -/
theorem State.Settled.descriptorMade (settled : s.Settled) (sound : s.index.writeFailed = false) (writes : s.index.writes = w :: ws) :
    exec (.descriptorWriteComplete .clean) s = .next (s.endEvent (s.begun.writeDone w ws)) := by
  have writes' : s.begun.index.writes = w :: ws := writes
  have sound' : s.begun.index.writeFailed = false := sound
  change execDescriptorWriteComplete .clean s = _
  simp only [execDescriptorWriteComplete, settled.eq, writes', sound', State.endEvent_begun]
  rfl

/-- A correctable descriptor is counted and then treated alike. -/
theorem State.Settled.descriptorCorrected (settled : s.Settled) (sound : s.index.writeFailed = false) (writes : s.index.writes = w :: ws) :
    exec (.descriptorWriteComplete .correctable) s = exec (.descriptorWriteComplete .clean)
      { s with index := { s.index with stats := { s.index.stats with corrected := min (s.index.stats.corrected + 1) (2 ^ 32 - 1) } } } := by
  have settled' : State.Settled { s with index := { s.index with stats := { s.index.stats with corrected := min (s.index.stats.corrected + 1) (2 ^ 32 - 1) } } } :=
    settled
  have writes' : s.begun.index.writes = w :: ws := writes
  have sound' : s.begun.index.writeFailed = false := sound
  rw [settled'.descriptorMade sound writes]
  change execDescriptorWriteComplete .correctable s = _
  simp only [execDescriptorWriteComplete, settled.eq, writes', sound', State.endEvent_begun]
  rfl

/-- A read-back that finds the descriptor uncorrectable. -/
theorem State.Settled.descriptorLost (settled : s.Settled) (sound : s.index.writeFailed = false) (writes : s.index.writes = w :: ws)
    (working : s.ctl.engine ≠ .faulted) :
    ∃ t, exec (.descriptorWriteComplete .uncorrectable) s = .next t ∧
      t.ctl = { s.ctl with engine := .faulted, faultCause := .indexDescriptor, starting := false } ∧ t.time = { s.time with running := false } ∧
      t.sweep = { flight := none, remembered := false } ∧ (∀ n : LaneNo, (t.lanes.get n).turn = none) ∧
      t.index = { s.index with writeFailed := true } ∧ t.port.posted = s.port.posted ∧ t.slots = s.slots ∧ t.notice = s.notice ∧
      ∀ ecc, exec (.descriptorWriteComplete ecc) t = .fault .noDescriptorWrite := by
  have run : exec (.descriptorWriteComplete .uncorrectable) s = .next (s.begun.writeLost w) := by
    have writes' : s.begun.index.writes = w :: ws := writes
    have sound' : s.begun.index.writeFailed = false := sound
    change execDescriptorWriteComplete .uncorrectable s = _
    simp only [execDescriptorWriteComplete, settled.eq, writes', sound']
    rfl
  obtain ⟨rest, turns⟩ := State.enterFaulted_spec (s := { s.begun with mem := { s.mem with desc := w.desc }, index := { s.index with writeFailed := true } })
    .indexDescriptor working
  have run : exec (.descriptorWriteComplete .uncorrectable) s = .next (State.enterFaulted
    { s.begun with mem := { s.mem with desc := w.desc }, index := { s.index with writeFailed := true } } .indexDescriptor) := run
  generalize State.enterFaulted _ _ = t at *
  have index : t.index = { s.index with writeFailed := true } := by rw [rest]
  have slots : t.slots = s.slots := by rw [rest]; rfl
  refine ⟨t, run, by rw [rest]; rfl, by rw [rest]; rfl, by rw [rest], turns, index, by rw [rest]; rfl, slots, by rw [rest]; rfl, fun ecc => ?_⟩
  have settled' : t.Settled := fun i => by rw [State.slot, slots]; exact settled i
  have failed : t.begun.index.writeFailed = true := by rw [show t.begun.index = t.index from rfl, index]
  change execDescriptorWriteComplete ecc t = _
  simp only [execDescriptorWriteComplete, settled'.eq, failed, if_true]

/-! ### What waited for a reservation (R77, R78, R111) -/

/-- The state with a reservation made, what waited for it about to go on. -/
def State.reserved (s : State) (w : DescWrite) (ws : List DescWrite) : State := { s.begun with
  mem := { s.mem with desc := w.desc }
  index := { s.index with writes := ws, waiting := [], copy := { s.index.copy with reserved := w.desc.reserved } } }

/-- A reservation with nothing waiting for it. -/
theorem State.Settled.reservationMade (settled : s.Settled) (handed : s.HandedOn) (sound : s.index.writeFailed = false) (writes : s.index.writes = w :: ws)
    (reserves : w.use = .reserve) (none : s.index.waiting = []) : exec (.descriptorWriteComplete .clean) s = .next { s.begun with
      mem := { s.mem with desc := w.desc }, index := { s.index with writes := ws, copy := { s.index.copy with reserved := w.desc.reserved } } } := by
  have quiet : (s.reserved w ws).HandedOn := handed
  have done : s.begun.writeDone w ws = (s.reserved w ws).refreshAll := by
    simp only [State.writeDone, reserves, State.resumeAll]
    rw [show s.begun.index.waiting = [] from none]
    rfl
  rw [settled.descriptorMade sound writes, done, quiet.refreshAll]
  refine congrArg Host.Outcome.next ((s.endEvent_of_same (t := s.reserved w ws) rfl rfl).trans ?_)
  rw [State.reserved, ← none]
  rfl

/-- A reservation that one halted operation waits for: it goes on with the counter's number. -/
theorem State.Settled.resumes {key : OpKey} {op : Op} (settled : s.Settled) (sound : s.index.writeFailed = false) (writes : s.index.writes = w :: ws)
    (reserves : w.use = .reserve) (alone : s.index.waiting = [key]) (found : s.index.inflight.find? (fun o => o.kind.key == key) = some op)
    (numbers : s.index.counter < w.desc.reserved) :
    exec (.descriptorWriteComplete .clean) s =
      .next (s.endEvent (State.settleOp key ((s.reserved w ws).numbered.goOn op (.number s.index.counter))).refreshAll) := by
  have done : s.begun.writeDone w ws = (State.settleOp key ((s.reserved w ws).numbered.goOn op (.number s.index.counter))).refreshAll := by
    simp only [State.writeDone, reserves, State.resumeAll]
    rw [show s.begun.index.waiting = [key] from alone]
    have given : (s.reserved w ws).allocate = (.number s.index.counter, (s.reserved w ws).numbered) := State.allocate_of_lt (s := s.reserved w ws) numbers rfl
    have all : (s.reserved w ws).allocateAll [key] = ([(key, .number s.index.counter)], (s.reserved w ws).numbered) := by
      rw [State.allocateAll, given]
      rfl
    have resumed : (s.reserved w ws).numbered.resume key (.number s.index.counter) = State.settleOp key ((s.reserved w ws).numbered.goOn op (.number s.index.counter)) := by
      rw [State.resume, show (s.reserved w ws).numbered.index.inflight = s.index.inflight from rfl, found]
    change (((s.reserved w ws).allocateAll [key]).1.foldl (fun s p => s.resume p.1 p.2) ((s.reserved w ws).allocateAll [key]).2).refreshAll = _
    rw [all]
    exact congrArg State.refreshAll resumed
  rw [settled.descriptorMade sound writes, done]

/-! ### What a descriptor write answers (R87, R143) -/

/-- A SET_EPOCH is answered with its value. -/
theorem State.Settled.epochMade {cell : ReqNo} {value : BitVec 32} {tag : Tag} (settled : s.Settled) (sound : s.index.writeFailed = false)
    (writes : s.index.writes = w :: ws) (use : w.use = .epoch cell value) (may : s.mayWrite = true) (inflight : (s.requests.get cell).inflight = some tag) :
    ∃ t, exec (.descriptorWriteComplete .clean) s = .next t ∧ s.Answered t cell tag [.reqResult cell (.epoch value)] .done ∧
      t = { s with
        mem := { s.mem with desc := w.desc }, index := { s.index with writes := ws }, requests := t.requests, port := t.port
        notice := (s.raiseLevel s.header.requestLevel).notice } := by
  obtain ⟨t, ended, answered, frame⟩ := State.answers (m := { s.mem with desc := w.desc }) (x := { s.index with writes := ws }) may inflight .done
    (some (.epoch value))
  refine ⟨t, ?_, answered, frame⟩
  rw [settled.descriptorMade sound writes, ← ended]
  simp only [State.writeDone, use]
  rfl

/-- A FORMAT's last write makes the index READY, and it is answered with the new generation. -/
theorem State.Settled.formatMade {j : FormatJob} {tag : Tag} (settled : s.Settled) (sound : s.index.writeFailed = false)
    (writes : s.index.writes = w :: ws) (use : w.use = .formatDone) (job : s.index.format = some j) (may : s.mayWrite = true)
    (inflight : (s.requests.get j.cell).inflight = some tag) :
    ∃ t, exec (.descriptorWriteComplete .clean) s = .next t ∧ s.Answered t j.cell tag [.reqResult j.cell (.generation w.desc.generation)] .done ∧
      t = { s with
        mem := { s.mem with desc := w.desc }
        index := { s.index with
          writes := ws, state := .ready, counter := j.counterStart, occupancy := 0, fill := .normal, fillCount := 0, format := none }
        requests := t.requests, port := t.port, notice := (s.raiseLevel s.header.requestLevel).notice } := by
  obtain ⟨t, ended, answered, frame⟩ := State.answers (m := { s.mem with desc := w.desc }) (x := { s.index with
      writes := ws, state := .ready, counter := j.counterStart, occupancy := 0, fill := .normal, fillCount := 0, format := none }) may inflight .done
    (some (.generation w.desc.generation))
  refine ⟨t, ?_, answered, frame⟩
  rw [settled.descriptorMade sound writes, ← ended]
  simp only [State.writeDone, use, show s.begun.index.format = some j from job]
  rfl

end Sys2Proof.Machine

namespace Sys2Proof.Machine

set_option Elab.async false

variable {s t u v : State} {w : DescWrite} {ws : List DescWrite} {l : Lookup} {op : Op} {use : NumberUse}

/-! ### A lookup that waited (R73, R74, R75, R76, R77) -/

/-- An operation that waited alone and completes. -/
theorem State.Settled.resumesTo {key : OpKey} (settled : s.Settled) (sound : s.index.writeFailed = false) (writes : s.index.writes = w :: ws)
    (reserves : w.use = .reserve) (alone : s.index.waiting = [key]) (found : s.index.inflight.find? (fun o => o.kind.key == key) = some op)
    (numbers : s.index.counter < w.desc.reserved) (goes : (s.reserved w ws).numbered.goOn op (.number s.index.counter) = (u, none)) :
    ∃ t, exec (.descriptorWriteComplete .clean) s = .next t ∧ s.Completed t u key := by
  refine ⟨_, settled.resumes sound writes reserves alone found numbers, ?_⟩
  rw [goes]
  have ended := s.ended (State.settleOp key (u, none))
  exact ⟨ended.frame, ended.core, ended.slot⟩

theorem State.goOn_lookup (kind : op.kind = .lookup l) (halt : op.halt = some (.number use)) (n : Nat) :
    s.goOn op (.number n) = (s.lookupNumber l op.bucket use (.number n), none) := by
  unfold State.goOn
  rw [halt]
  dsimp only
  rw [if_neg nofun, kind]

/-- What every lookup that waited alone leaves: the reservation made, its operation over, and its outcome taken. -/
structure State.LookupTaken (s t : State) (w : DescWrite) (ws : List DescWrite) (l : Lookup) (use : NumberUse) (cond : ChunkCond) (counts : EngineStats) : Prop where
  run : exec (.descriptorWriteComplete .clean) s = .next t
  desc : t.mem.desc = w.desc
  writes : t.index.writes = ws
  waiting : t.index.waiting = []
  copy : t.index.copy = { s.index.copy with reserved := w.desc.reserved }
  counter : t.index.counter = s.index.counter + 1
  inflight : t.index.inflight = s.index.inflight.eraseP fun o => o.kind.key == .lookup l.slot l.ordinal
  stats : t.index.stats = counts
  error : t.index.error = (s.index.error || decide (use = .conflict))
  taken : (s.slot l.slot).state.isOpen = true →
    (t.slot l.slot).pending = (s.slot l.slot).pending.map fun p => if p.ordinal = l.ordinal then { p with cond := cond } else p
  dropped : (s.slot l.slot).state = .aborting → (t.slot l.slot).pending = (s.slot l.slot).pending ∧
    (t.slot l.slot).state = if (s.slot l.slot).inflight ≤ 1 then .aborted else .aborting
  count : (t.slot l.slot).inflight = (s.slot l.slot).inflight - 1
  others : ∀ j, j ≠ l.slot → t.slot j = s.slot j

/-- What one that has no entry to place leaves as it was. -/
structure State.Unplaced (s t : State) (l : Lookup) : Prop where
  ways : t.mem.ways = s.mem.ways
  pool : t.pool = s.pool
  occupancy : t.index.occupancy = s.index.occupancy
  withdrawal : t.index.withdrawal = s.index.withdrawal
  provList : (t.slot l.slot).provList = (s.slot l.slot).provList
  provCount : (t.slot l.slot).provCount = (s.slot l.slot).provCount

theorem State.recordTaken_mem (s : State) (l : Lookup) (r : Nat) : (s.recordTaken l r).mem = s.mem := by
  unfold State.recordTaken State.issueWithdraw
  split
  · rfl
  · obtain ⟨pool, e⟩ := (s.editSlot l.slot fun c => { c with provCount := c.provCount - 1 }).editRecord_eq r fun p => { p with disp := .withdrawing }
    rw [e]
    rfl

section

variable (settled : s.Settled) (handed : s.HandedOn) (sound : s.index.writeFailed = false) (writes : s.index.writes = w :: ws)
  (reserves : w.use = .reserve) (alone : s.index.waiting = [.lookup l.slot l.ordinal])
  (found : s.index.inflight.find? (fun o => o.kind.key == .lookup l.slot l.ordinal) = some op) (kind : op.kind = .lookup l)
  (halt : op.halt = some (.number use)) (numbers : s.index.counter < w.desc.reserved)

include settled handed sound writes reserves alone found kind halt numbers

/-- A lookup that waited gives its stream a resolved chunk, from a state `v` of the reservation made. -/
theorem State.lookupResumes {vd : Verdict} {k : Cause} {x : IndexUnit}
    (goes : (s.reserved w ws).numbered.lookupNumber l op.bucket use (.number s.index.counter) = v.takeResolved l vd s.index.counter k)
    (desc : v.mem.desc = w.desc) (index : v.index = { (s.reserved w ws).numbered.index with
      stats := x.stats, error := s.index.error || decide (use = .conflict), occupancy := x.occupancy, withdrawal := x.withdrawal })
    (own : (v.slot l.slot) = { s.slot l.slot with provList := (v.slot l.slot).provList, provCount := (v.slot l.slot).provCount })
    (others : ∀ j, j ≠ l.slot → v.slot j = s.slot j) :
    ∃ t, s.LookupTaken t w ws l use (.resolved vd s.index.counter k) x.stats ∧ t.mem = v.mem ∧ t.pool = v.pool ∧
      t.index.occupancy = x.occupancy ∧ t.index.withdrawal = x.withdrawal ∧ (t.slot l.slot).provList = (v.slot l.slot).provList ∧
      (t.slot l.slot).provCount = (v.slot l.slot).provCount := by
  obtain ⟨rest, self, same⟩ := v.takeResolved_core l vd s.index.counter k
  obtain ⟨t, run, completed⟩ := settled.resumesTo sound writes reserves alone found numbers ((State.goOn_lookup kind halt _).trans (congrArg (·, none) goes))
  generalize v.takeResolved l vd s.index.counter k = u at *
  have core := (completed.core l.slot).trans self
  obtain ⟨inflight, -, list, count, taken, dropped⟩ := Slot.taken_spec core
  rw [own] at inflight taken dropped
  have frame : t = { v with
      index := { v.index with inflight := v.index.inflight.eraseP fun o => o.kind.key == .lookup l.slot l.ordinal }, slots := t.slots, notice := t.notice
      port := t.port } := by rw [completed.frame, rest]
  refine ⟨t, ⟨run, ?_, ?_, ?_, ?_, ?_, ?_, ?_, ?_, taken, dropped, inflight, fun j ne => completed.slot_of_same handed ((same j ne).trans (others j ne))⟩,
    by rw [frame], by rw [frame], ?_, ?_, list, count⟩
  · rw [frame]; exact desc
  all_goals rw [frame, index]
  all_goals rfl

/-- One whose number is given to a chunk with no entry of its own (R74, R75). -/
theorem State.lookupUnplaced {vd : Verdict} {k : Cause} {counts : EngineStats}
    (goes : (s.reserved w ws).numbered.lookupNumber l op.bucket use (.number s.index.counter) = v.takeResolved l vd s.index.counter k)
    (frame : v = { (s.reserved w ws).numbered with
      index := { (s.reserved w ws).numbered.index with stats := counts, error := s.index.error || decide (use = .conflict) }, notice := v.notice }) :
    ∃ t, s.LookupTaken t w ws l use (.resolved vd s.index.counter k) counts ∧ s.Unplaced t l := by
  have slots (j : SlotNo) : v.slot j = s.slot j := by rw [frame]; rfl
  obtain ⟨t, taken, mem, pool, occupancy, withdrawal, list, count⟩ := State.lookupResumes settled handed sound writes reserves alone found kind halt numbers
    (x := { s.index with stats := counts }) goes (by rw [frame]; rfl) (by rw [frame]; rfl) (by rw [slots]) fun j _ => slots j
  rw [slots] at list count
  exact ⟨t, taken, by rw [mem, frame]; rfl, by rw [pool, frame]; rfl, occupancy, withdrawal, list, count⟩

/-- A CONFLICT sets the ERROR condition when its number is allocated. -/
theorem State.conflictResumes (conflict : use = .conflict) : ∃ t, s.LookupTaken t w ws l use (.resolved .conflict s.index.counter .none)
    ((LookupOutcome.conflict s.index.counter).count s.index.stats) ∧ s.Unplaced t l := by
  have spec := State.setError_spec ((s.reserved w ws).numbered.editStats (LookupOutcome.conflict s.index.counter).count)
  refine State.lookupUnplaced settled handed sound writes reserves alone found kind halt numbers (vd := .conflict) (k := .none) (by rw [conflict]; rfl) ?_
  rw [conflict, show (s.index.error || decide (NumberUse.conflict = .conflict)) = true from Bool.or_true _]
  exact spec

/-- The other lookups without an entry are UNINDEXED with a cause. -/
theorem State.unindexedResumes {k : Cause} (other : use ≠ .conflict)
    (goes : (s.reserved w ws).numbered.lookupNumber l op.bucket use (.number s.index.counter) =
      (s.reserved w ws).numbered.endLookup l (.unindexed s.index.counter k)) :
    ∃ t, s.LookupTaken t w ws l use (.resolved .unindexed s.index.counter k)
      ((LookupOutcome.unindexed s.index.counter k).count s.index.stats) ∧ s.Unplaced t l := by
  refine State.lookupUnplaced settled handed sound writes reserves alone found kind halt numbers (vd := .unindexed) (k := k)
    (v := (s.reserved w ws).numbered.editStats (LookupOutcome.unindexed s.index.counter k).count) goes ?_
  rw [show (s.index.error || decide (use = .conflict)) = s.index.error by rw [decide_eq_false other, Bool.or_false]]
  rfl

/-- A lookup whose number is given to a new entry (R74, R94, R95, R106). -/
theorem State.insertionResumes {y : WayNo} (insert : use = .insert) (alive : (s.slot l.slot).state.isOpen = true ∨ (s.slot l.slot).state = .aborting)
    (empty : s.entry op.bucket y = none) (lowest : ∀ x, x < y → s.entry op.bucket x ≠ none) (free : leastFree s.pool 0 < 16384)
    (room : (s.slot l.slot).provCount < (s.slot l.slot).cls.provisionalLimit) :
    ∃ t, s.LookupTaken t w ws l use (.resolved .new s.index.counter .none) ((LookupOutcome.new s.index.counter (leastFree s.pool 0)).count s.index.stats) ∧
      t.mem = ((s.reserved w ws).toTakeNew l op.bucket y).mem ∧ t.pool = ((s.reserved w ws).toTakeNew l op.bucket y).pool ∧
      t.index.occupancy = s.index.occupancy + 1 ∧
      t.index.withdrawal = (if (s.slot l.slot).state.isOpen then s.index.withdrawal else s.index.withdrawal ++ [leastFree s.pool 0]) ∧
      (t.slot l.slot).provList = (((s.reserved w ws).toTakeNew l op.bucket y).slot l.slot).provList ∧
      (t.slot l.slot).provCount = (((s.reserved w ws).toTakeNew l op.bucket y).slot l.slot).provCount := by
  have way : (s.reserved w ws).numbered.emptyWayOf op.bucket = some y := State.emptyWayOf_eq_some (s := (s.reserved w ws).numbered) empty lowest
  have granted := State.grant_of_room (s := (s.reserved w ws).numbered) (l := l) (b := op.bucket) (w := y) free room
  have goes : (s.reserved w ws).numbered.lookupNumber l op.bucket use (.number s.index.counter) =
      ((s.reserved w ws).toTakeNew l op.bucket y).takeResolved l .new s.index.counter .none := by
    rw [insert]
    simp only [State.lookupNumber, way, granted]
    rfl
  obtain ⟨index, self, others, -⟩ := (s.reserved w ws).toTakeNew_spec l op.bucket y alive
  have desc : ((s.reserved w ws).toTakeNew l op.bucket y).mem.desc = w.desc := by
    rw [State.toTakeNew, State.recordTaken_mem]
    rfl
  generalize (s.reserved w ws).toTakeNew l op.bucket y = v at *
  refine State.lookupResumes settled handed sound writes reserves alone found kind halt numbers goes desc (index.trans ?_) (self.trans ?_) others
    (x := { s.index with
      stats := (LookupOutcome.new s.index.counter (leastFree s.pool 0)).count s.index.stats, occupancy := s.index.occupancy + 1
      withdrawal := if (s.slot l.slot).state.isOpen then s.index.withdrawal else s.index.withdrawal ++ [leastFree s.pool 0] })
  · rw [insert, show (s.index.error || decide (NumberUse.insert = .conflict)) = s.index.error from Bool.or_false _]
    rfl
  · rw [self]
    split <;> rfl

end

end Sys2Proof.Machine

namespace Sys2Proof.Machine

set_option Elab.async false

variable {s t u v x : State} {w : DescWrite} {ws : List DescWrite} {op : Op} {r : Nat} {p : PoolRecord} {e : Entry} {h : Waiter} {as rest : List Waiter}

/-! ### Waiters that a walk passes (R107, R109) -/

/-- A waiter that does not become the owner leaves its list. -/
theorem State.examine_passes {c : Waiter} (n : Nat)
    (full : (s.slot c.slot).state.isOpen = true → (s.slot c.slot).cls.provisionalLimit ≤ (s.slot c.slot).provCount) :
    ∃ x, s.examine r c (.number n) = (false, x) ∧
      s.Serves x r [(c, if (s.slot c.slot).state.isOpen then some (.resolved .unindexed n .provisionalLimit) else none)] := by
  unfold State.examine
  dsimp only
  by_cases isOpen : (s.slot c.slot).state.isOpen = true
  · rw [if_pos isOpen, if_neg (by simp [isOpen]), if_neg (Nat.not_lt.2 (full isOpen))]
    exact ⟨_, rfl, s.resolveWaiter_serves r c .unindexed n .provisionalLimit⟩
  · rw [if_neg isOpen, if_pos (by simpa using isOpen)]
    exact ⟨_, rfl, s.discardWaiter_serves r c⟩

/-- The first waiter of an open stream below its limit becomes the owner. -/
theorem State.examine_owner {c : Waiter} (n : Nat) (record : s.record r = some p) (entry : s.entry p.bucket p.way = some e)
    (isOpen : (s.slot c.slot).state.isOpen = true) (room : (s.slot c.slot).provCount < (s.slot c.slot).cls.provisionalLimit) :
    s.examine r c (.number n) = (true, s.takeover r p e c n) := by
  unfold State.examine
  dsimp only
  rw [if_neg (by simp [isOpen]), if_pos room, record]
  dsimp only
  rw [entry]

/-- A walk that comes to `rest` behind waiters none of which becomes the owner, each taking a number of its own. -/
theorem State.walk_gives (r : Nat) (as rest : List Waiter) : ∀ {s : State},
    (∀ c ∈ as, (s.slot c.slot).state.isOpen = true → (s.slot c.slot).cls.provisionalLimit ≤ (s.slot c.slot).provCount) →
    s.index.counter + as.length ≤ s.index.copy.reserved →
    ∃ x, s.walk r (as ++ rest) = x.walk r rest ∧
      State.Serves { s with index := { s.index with counter := s.index.counter + as.length } } x r (s.unindexed .provisionalLimit s.index.counter as) := by
  induction as with
  | nil => exact fun {s} _ _ => ⟨s, rfl, .nil s r⟩
  | cons c as ih =>
    intro s full numbers
    rw [List.length_cons] at numbers
    obtain ⟨x, examined, serves⟩ := s.numbered.examine_passes (r := r) s.index.counter (full c List.mem_cons_self)
    have step : s.walk r (c :: as ++ rest) = x.walk r (as ++ rest) := by
      rw [List.cons_append, State.walk, State.allocate_of_lt (by omega) rfl]
      dsimp only
      rw [show ({ s with index := { s.index with counter := s.index.counter + 1 } } : State) = s.numbered from rfl, examined]
    have index : x.index = s.numbered.index := serves.index_eq
    have full' (d : Waiter) (mem : d ∈ as) (isOpen : (x.slot d.slot).state.isOpen = true) : (x.slot d.slot).cls.provisionalLimit ≤ (x.slot d.slot).provCount := by
      obtain ⟨-, -, cls, count, -⟩ := serves.kept d.slot
      rw [cls, count]
      exact full d (List.mem_cons_of_mem _ mem) ((serves.isOpen_eq d.slot).symm.trans isOpen)
    obtain ⟨t, walk, rest⟩ := ih full' (by rw [index]; exact (show s.index.counter + 1 + as.length ≤ s.index.copy.reserved by omega))
    exact ⟨t, step.trans walk, .unindexed serves rest⟩

/-- The pending chunks of a stream that is not open take nothing. -/
theorem State.Serves.pending_of_closed {l : List (Waiter × Option ChunkCond)} (serves : s.Serves t r l) {j : SlotNo} (closed : (s.slot j).state.isOpen = false) :
    (t.slot j).pending = (s.slot j).pending := by
  have served (c : Slot) (closed : c.state.isOpen = false) : (c.served j l).pending = c.pending := by
    clear serves
    induction l generalizing c with
    | nil => rfl
    | cons x l ih =>
      rw [Slot.served_cons]
      split
      · obtain ⟨pending, state⟩ := c.serve_of_closed x.1.ordinal x.2 closed
        refine (ih _ ?_).trans pending
        rw [state]
        split
        · rfl
        · exact closed
      · exact ih c closed
  exact (congrArg Slot.pending (serves.core j) :).trans (served _ closed)

/-! ### A walk that waited (R108, R109, R110, R111) -/

/-- A walk goes on as one that begins at the waiters that stand on the list, the waiter it halted at being the first of them, or gone. -/
theorem State.goOn_walks {base : Nat} (halt : op.halt = some (.walk r h)) (record : s.record r = some p) (entry : s.entry p.bucket p.way = some e)
    (nodup : p.waiters.Nodup) (stands : p.waiters.head? = some h ∧ base = s.index.counter ∨ h ∉ p.waiters ∧ base = s.index.counter + 1)
    (numbers : s.index.counter < s.index.copy.reserved) :
    s.numbered.goOn op (.number s.index.counter) = State.endWalk r (State.walk { s with index := { s.index with counter := base } } r p.waiters) := by
  have own : s.numbered.waitersOf r = p.waiters := by rw [State.waitersOf, show s.numbered.record r = some p from record]
  unfold State.goOn State.stillWaits
  rw [halt]
  dsimp only
  rw [if_neg nofun, own]
  rcases stands with ⟨first, rfl⟩ | ⟨gone, rfl⟩
  · obtain ⟨tl, split⟩ := List.head?_eq_some_iff.1 first
    rw [split] at nodup ⊢
    rw [if_pos (by simp), State.walk, show ({ s with index := { s.index with counter := s.index.counter } } : State) = s from rfl,
      State.allocate_of_lt numbers rfl, show ({ s with index := { s.index with counter := s.index.counter + 1 } } : State) = s.numbered from rfl]
    dsimp only
    by_cases full : (s.slot h.slot).state.isOpen = true → (s.slot h.slot).cls.provisionalLimit ≤ (s.slot h.slot).provCount
    · obtain ⟨x, examined, serves⟩ := s.numbered.examine_passes (r := r) s.index.counter full
      have left : x.waitersOf r = tl := by
        obtain ⟨new, -⟩ := List.nodup_cons.1 nodup
        rw [State.waitersOf, serves.record p record, split, List.map_cons, List.map_nil, List.filter_cons_of_neg (by simp)]
        refine List.filter_eq_self.2 fun c mem => ?_
        have ne : c ≠ h := fun same => new (same ▸ mem)
        simpa using ne
      rw [examined]
      dsimp only
      rw [left]
    · obtain ⟨isOpen, room⟩ := Classical.not_imp.1 full
      rw [State.examine_owner (s := s.numbered) s.index.counter record entry isOpen (Nat.lt_of_not_le room)]
  · rw [if_neg (by simpa using gone)]
    rfl
/-- The number that a waiter passed over takes, by its place among those that the walk passes (R109). -/
def passedAt (as : List Waiter) (base : Nat) (j : SlotNo) (x : PendingChunk) : PendingChunk :=
  if as.contains { slot := j, ordinal := x.ordinal } then
    { x with cond := .resolved .unindexed (base + as.idxOf { slot := j, ordinal := x.ordinal }) .provisionalLimit }
  else x

/-- What every walk that waited leaves, its record's list being `left`. -/
structure State.WalkTaken (s t : State) (w : DescWrite) (r : Nat) (p : PoolRecord) (as left : List Waiter) : Prop where
  run : exec (.descriptorWriteComplete .clean) s = .next t
  desc : t.mem.desc = w.desc
  entries : ∀ b y, wayKey b y ≠ wayKey p.bucket p.way → t.entry b y = s.entry b y
  records : ∀ q, q ≠ r → t.record q = s.record q
  inflight : ∀ j, (t.slot j).inflight = (s.slot j).inflight - (p.waiters.countP (fun x => x.slot == j) - left.countP fun x => x.slot == j)
  aborting : ∀ j, (s.slot j).state = .aborting → (t.slot j).pending = (s.slot j).pending ∧
    ((∃ x ∈ as, x.slot = j) → (t.slot j).state = if (t.slot j).inflight = 0 then .aborted else .aborting)

/-- What the waiters of `as` leave of the slots, each having taken a number. -/
structure State.Passed (s x : State) (as : List Waiter) (base : Nat) : Prop where
  inflight : ∀ j, (x.slot j).inflight = (s.slot j).inflight - as.countP fun x => x.slot == j
  isOpen : ∀ j, (x.slot j).state.isOpen = (s.slot j).state.isOpen
  pending : ∀ j, (s.slot j).state.isOpen = true → (x.slot j).pending = (s.slot j).pending.map (passedAt as base j)
  closed : ∀ j, (s.slot j).state.isOpen = false → (x.slot j).pending = (s.slot j).pending
  aborting : ∀ j, (s.slot j).state = .aborting → (∃ x ∈ as, x.slot = j) → (x.slot j).state = if (x.slot j).inflight = 0 then .aborted else .aborting
  others : ∀ j, (∀ x ∈ as, x.slot ≠ j) → x.slot j = s.slot j

theorem State.Serves.passed {base : Nat} (serves : s.Serves x r (s.unindexed .provisionalLimit base as)) (nodup : as.Nodup) : s.Passed x as base := by
  have member (c : Waiter) (m : c ∈ as) : ∃ y ∈ s.unindexed .provisionalLimit base as, y.1 = c := by
    rw [← s.unindexed_fst .provisionalLimit base as] at m
    exact List.mem_map.1 m
  have own (y : Waiter × Option ChunkCond) (m : y ∈ s.unindexed .provisionalLimit base as) : y.1 ∈ as := by
    rw [← s.unindexed_fst .provisionalLimit base as]
    exact List.mem_map_of_mem m
  refine ⟨fun j => ?_, serves.isOpen_eq, fun j isOpen => ?_, fun j => serves.pending_of_closed, fun j aborting ⟨c, m, e⟩ => ?_,
    fun j none => serves.others j fun y m => none _ (own y m)⟩
  · rw [serves.inflight, State.unindexed_countP]
  · refine (serves.of_open isOpen).2.trans (List.map_congr_left fun y _ => ?_)
    rw [s.condServed_unindexed y.ordinal .provisionalLimit base y.cond isOpen nodup, passedAt]
    split <;> rfl
  · obtain ⟨y, m', rfl⟩ := member c m
    exact serves.of_aborting aborting ⟨y, m', e⟩

end Sys2Proof.Machine

namespace Sys2Proof.Machine

set_option Elab.async false

variable {s t u v x : State} {w : DescWrite} {ws : List DescWrite} {op : Op} {r base : Nat} {p : PoolRecord} {e : Entry} {h : Waiter} {as rest : List Waiter}

/-- The waiters of a list that have been passed are taken out of it. -/
theorem filter_passed (nodup : (as ++ rest).Nodup) : (as ++ rest).filter (fun c => !as.contains c) = rest := by
  simpa using filter_left (f := fun _ => false) nodup (by simp)

/-- A waiter passed over takes its number into the condition of its chunk alone. -/
theorem passedAt_rest (as : List Waiter) (base : Nat) (j : SlotNo) (x : PendingChunk) :
    (passedAt as base j x).ordinal = x.ordinal ∧ ∀ k, { passedAt as base j x with cond := k } = { x with cond := k } := by
  unfold passedAt
  split
  · exact ⟨rfl, fun _ => rfl⟩
  · exact ⟨rfl, fun _ => rfl⟩

section

variable (settled : s.Settled) (handed : s.HandedOn) (sound : s.index.writeFailed = false) (writes : s.index.writes = w :: ws)
  (reserves : w.use = .reserve) (alone : s.index.waiting = [.withdraw r])
  (found : s.index.inflight.find? (fun o => o.kind.key == .withdraw r) = some op) (halt : op.halt = some (.walk r h))
  (record : s.record r = some p) (entry : s.entry p.bucket p.way = some e) (nodup : p.waiters.Nodup) (split : p.waiters = as ++ rest)
  (stands : p.waiters.head? = some h ∧ base = s.index.counter ∨ h ∉ p.waiters ∧ base = s.index.counter + 1)
  (limit : ∀ c ∈ as, (s.slot c.slot).state = .aborting ∨
    (s.slot c.slot).state.isOpen = true ∧ (s.slot c.slot).cls.provisionalLimit ≤ (s.slot c.slot).provCount)
  (numbers : s.index.counter < w.desc.reserved) (enough : base + as.length ≤ w.desc.reserved)

include halt record entry nodup split stands limit numbers enough in
/-- The walk comes to `rest`, the waiters before it having taken numbers. -/
theorem State.walkResumes : ∃ x, (s.reserved w ws).numbered.goOn op (.number s.index.counter) = State.endWalk r (x.walk r rest) ∧
    State.Serves { s.reserved w ws with index := { (s.reserved w ws).index with counter := base + as.length } } x r (s.unindexed .provisionalLimit base as) := by
  have goes := State.goOn_walks (s := s.reserved w ws) (base := base) halt record entry nodup stands numbers
  have full (c : Waiter) (m : c ∈ as) (isOpen : (s.slot c.slot).state.isOpen = true) : (s.slot c.slot).cls.provisionalLimit ≤ (s.slot c.slot).provCount := by
    rcases limit c m with aborting | ⟨-, full⟩
    · rw [aborting] at isOpen
      cases isOpen
    · exact full
  obtain ⟨x, walk, serves⟩ := State.walk_gives r as rest (s := { s.reserved w ws with index := { (s.reserved w ws).index with counter := base } }) full enough
  rw [split] at goes
  exact ⟨x, goes.trans (congrArg (State.endWalk r) walk), serves⟩

include settled handed sound writes reserves alone found halt record entry nodup split stands limit numbers enough

/-- A walk that comes to the end of the list (R110). -/
theorem State.walkEnds (none : rest = []) (canonical : s.Canonical) :
    ∃ t, s.WalkTaken t w r p as [] ∧ t.entry p.bucket p.way = Option.none ∧ t.record r = Option.none ∧
      t.index = { s.index with
        writes := ws, waiting := [], copy := { s.index.copy with reserved := w.desc.reserved }, counter := base + as.length, occupancy := s.index.occupancy - 1
        inflight := s.index.inflight.eraseP fun o => o.kind.key == .withdraw r
        stats := { s.index.stats with withdrawals := min (s.index.stats.withdrawals + 1) (2 ^ 48 - 1) } } ∧
      (∀ j, (s.slot j).state.isOpen = true → (t.slot j).pending = (s.slot j).pending.map (passedAt as base j)) ∧
      ∀ j, (∀ x ∈ as, x.slot ≠ j) → t.slot j = s.slot j := by
  obtain ⟨x, goes, serves⟩ := State.walkResumes halt record entry nodup split stands limit numbers enough (ws := ws)
  subst none
  have waiters : p.waiters = as := split.trans (List.append_nil as)
  have passed := serves.passed (waiters ▸ nodup)
  obtain ⟨-, erased⟩ := serves.pool canonical.2.1 (Option.isSome_iff_exists.2 ⟨p, record⟩)
  obtain ⟨t, run, completed⟩ := settled.resumesTo sound writes reserves alone found numbers (goes.trans (State.endWalk_noOwner (serves.record p record)))
  have tcore (j : SlotNo) : (t.slot j).core = (x.slot j).core := completed.core j
  have pool : t.pool = tableErase s.pool r := by rw [completed.frame]; exact erased
  have ways : t.mem = { x.mem with ways := tableErase x.mem.ways (wayKey p.bucket p.way) } := by rw [completed.frame]
  rw [serves.mem_eq] at ways
  refine ⟨t, ⟨run, by rw [ways]; rfl, fun b y ne => ?_, fun q ne => ?_, fun j => ?_, fun j aborting => ⟨?_, fun own => ?_⟩⟩, ?_, ?_, ?_, fun j isOpen => ?_,
    fun j none => ?_⟩
  · rw [State.entry, ways]
    exact tableGet_tableErase_of_ne ne
  · rw [State.record, pool]
    exact tableGet_tableErase_of_ne ne
  · rw [waiters]
    exact (congrArg Slot.inflight (tcore j) :).trans (passed.inflight j)
  · exact (congrArg Slot.pending (tcore j) :).trans (passed.closed j (show (s.slot j).state.isOpen = false by rw [aborting]; rfl))
  · have inflight : (t.slot j).inflight = (x.slot j).inflight := (congrArg Slot.inflight (tcore j) :)
    rw [inflight]
    exact (congrArg Slot.state (tcore j) :).trans (passed.aborting j aborting own)
  · rw [State.entry, ways]
    exact tableGet_tableErase_self canonical.1
  · rw [State.record, pool]
    exact tableGet_tableErase_self canonical.2.1
  · rw [completed.frame, serves.index_eq]
    rfl
  · exact (congrArg Slot.pending (tcore j) :).trans (passed.pending j isOpen)
  · exact completed.slot_of_same handed (passed.others j none)

/-- A walk that comes to a waiter of an open stream below its limit (R108). -/
theorem State.walkTakesOver {c : Waiter} {cs : List Waiter} {n : Nat} (behind : rest = c :: cs) (isOpen : (s.slot c.slot).state.isOpen = true)
    (room : (s.slot c.slot).provCount < (s.slot c.slot).cls.provisionalLimit) (number : n = base + as.length) (lt : n < w.desc.reserved) :
    ∃ t, s.WalkTaken t w r p as (cs.filter fun x => x.slot != c.slot) ∧
      t.entry p.bucket p.way = some { e with state := .provisional c.slot c.ordinal, number := n, lastHit := s.index.copy.epoch } ∧
      t.record r = some { p with owner := c.slot, ordinal := c.ordinal, disp := .live, waiters := cs.filter fun x => x.slot != c.slot } ∧
      t.index = { s.index with
        writes := ws, waiting := [], copy := { s.index.copy with reserved := w.desc.reserved }, counter := n + 1
        inflight := s.index.inflight.eraseP fun o => o.kind.key == .withdraw r
        stats := { s.index.stats with
          withdrawals := min (s.index.stats.withdrawals + 1) (2 ^ 48 - 1), takeovers := min (s.index.stats.takeovers + 1) (2 ^ 48 - 1) } } ∧
      (t.slot c.slot).provCount = (s.slot c.slot).provCount + 1 ∧
      (∃ xs ys, (s.slot c.slot).provList = xs ++ ys ∧ (t.slot c.slot).provList = xs ++ r :: ys ∧
        (∀ q ∈ xs, q ≠ r → ∀ o, s.record q = some o → o.ordinal < c.ordinal) ∧
        ∀ q o, ys.head? = some q → q ≠ r → s.record q = some o → c.ordinal ≤ o.ordinal) ∧
      (∀ j, (s.slot j).state.isOpen = true → (t.slot j).pending = (s.slot j).pending.map fun x =>
        if j = c.slot ∧ x.ordinal = c.ordinal then { x with cond := .resolved .new n .none }
        else if j = c.slot ∧ cs.contains { slot := c.slot, ordinal := x.ordinal } then { x with cond := .resolved .dup n .none }
        else passedAt as base j x) ∧
      ∀ j, j ≠ c.slot → (∀ x ∈ as, x.slot ≠ j) → t.slot j = s.slot j := by
  obtain ⟨x, goes, serves⟩ := State.walkResumes halt record entry nodup split stands limit numbers enough (ws := ws)
  subst behind
  have nodup' : (as ++ c :: cs).Nodup := split ▸ nodup
  obtain ⟨nodupAs, nodupCs, disjoint⟩ := List.nodup_append.1 nodup'
  obtain ⟨new, -⟩ := List.nodup_cons.1 nodupCs
  have passed := serves.passed nodupAs
  have xrecord := serves.record p record
  rw [State.unindexed_fst, split, filter_passed nodup'] at xrecord
  have xindex : x.index = { (s.reserved w ws).index with counter := n } := by rw [serves.index_eq, number]
  have xmem : x.mem = { s.mem with desc := w.desc } := serves.mem_eq
  have xentry : x.entry p.bucket p.way = some e := by rw [State.entry, xmem]; exact entry
  obtain ⟨-, -, cls, count, list⟩ := serves.kept c.slot
  have walk := goes.trans (congrArg (State.endWalk r) (State.walk_owner (ws := cs) xrecord xentry ((passed.isOpen c.slot).trans isOpen)
    (by rw [cls, count]; exact room) (by rw [xindex]; exact lt)))
  have takes := State.takeover_spec (s := x.numbered) xrecord rfl new e x.index.counter
  obtain ⟨frame, mem, own, records, ⟨ps, self, xs, ys, before, joined, low, high⟩, others⟩ := State.passedOn_spec (s := x.numbered) xrecord e c x.index.counter
  generalize x.numbered.takeover r { p with waiters := c :: cs } e c x.index.counter = z at *
  generalize x.numbered.passedOn r { p with waiters := c :: cs } e c x.index.counter = y at *
  rw [show x.index.counter = n by rw [xindex]] at *
  obtain ⟨t, run, completed⟩ := settled.resumesTo (u := z.countWithdrawal) sound writes reserves alone found numbers walk
  have tcore (j : SlotNo) : (t.slot j).core = (z.slot j).core := completed.core j
  have tinflight (j : SlotNo) : (t.slot j).inflight = (z.slot j).inflight := (congrArg Slot.inflight (tcore j) :)
  have yslot (j : SlotNo) : (y.slot j).inflight = (x.slot j).inflight ∧ (y.slot j).pending = (x.slot j).pending ∧ (y.slot j).state = (x.slot j).state := by
    by_cases same : j = c.slot
    · subst same
      rw [self]
      exact ⟨rfl, rfl, rfl⟩
    · rw [others j same]
      exact ⟨rfl, rfl, rfl⟩
  have tmem : t.mem = (x.numbered.writeEntry p.bucket p.way
      { e with state := .provisional c.slot c.ordinal, number := n, lastHit := x.index.copy.epoch }).mem := by
    rw [completed.frame]
    exact takes.mem_eq.trans mem
  have tentry (b : Nat) (v : WayNo) : t.entry b v = (x.numbered.writeEntry p.bucket p.way
      { e with state := .provisional c.slot c.ordinal, number := n, lastHit := x.index.copy.epoch }).entry b v := by
    rw [State.entry, tmem]; rfl
  have trecord (q : Nat) : t.record q = z.record q := by rw [State.record, completed.frame]; rfl
  have away (j : SlotNo) (ne : j ≠ c.slot) : z.slot j = x.slot j :=
    (takes.others j fun y m e => ne (e.symm.trans (slot_of_passing m))).trans (others j ne)
  refine ⟨t, ⟨run, ?_, fun b v ne => ?_, fun q ne => ?_, fun j => ?_, fun j aborting => ?_⟩, ?_, ?_, ?_, ?_, ?_, fun j isOpen' => ?_, fun j ne none => ?_⟩
  · rw [tmem]
    exact congrArg IndexMemory.desc xmem
  · rw [tentry, State.entry_writeEntry_of_ne _ _ ne]
    exact (congrArg (fun m : IndexMemory => tableGet m.ways (wayKey b v)) xmem :)
  · rw [trecord, takes.records q ne]
    exact (records q ne).trans (serves.records q ne)
  · have now := takes.inflight j
    rw [passing_countP, List.countP_cons] at now
    have later := List.countP_eq_countP_filter_add cs (fun v => v.slot == j) fun v => v.slot == c.slot
    have same : cs.countP (fun v => v.slot == j) = (cs.filter fun v => v.slot == c.slot).countP (fun v => v.slot == j) +
      (cs.filter fun v => v.slot != c.slot).countP (fun v => v.slot == j) := later
    have kept : (State.slot (y.editStats fun t => { t with takeovers := sat48 (t.takeovers + 1) }) j).inflight = (s.slot j).inflight - as.countP fun x => x.slot == j :=
      (yslot j).1.trans (passed.inflight j)
    rw [tinflight, now, kept, split, List.countP_append, List.countP_cons, same]
    omega
  · have ne : j ≠ c.slot := fun same => by
      rw [← same, aborting] at isOpen
      cases isOpen
    rw [tinflight, show (t.slot j).state = (z.slot j).state from (congrArg Slot.state (tcore j) :),
      show (t.slot j).pending = (z.slot j).pending from (congrArg Slot.pending (tcore j) :), away j ne]
    exact ⟨passed.closed j (show (s.slot j).state.isOpen = false by rw [aborting]; rfl), passed.aborting j aborting⟩
  · rw [tentry, State.entry_writeEntry_self, xindex]
    rfl
  · rw [trecord, takes.record _ own, passing_fst, List.filter_cons_of_neg (by simp)]
    refine congrArg (fun vs => some ({ p with owner := c.slot, ordinal := c.ordinal, disp := .live, waiters := vs } : PoolRecord))
      (List.filter_congr fun v mem => ?_)
    have ne : v ≠ c := fun e => new (e ▸ mem)
    rw [Bool.eq_iff_iff]
    simp [mem, ne]
  · rw [completed.frame]
    dsimp only
    rw [State.countWithdrawal, State.editStats, takes.index_eq, State.editStats, frame, State.numbered, xindex]
    rfl
  · obtain ⟨-, -, -, kept, -⟩ := takes.kept c.slot
    refine (congrArg Slot.provCount (tcore c.slot) :).trans (kept.trans ((congrArg Slot.provCount self).trans ?_))
    exact congrArg (· + 1) count
  · obtain ⟨-, -, -, -, kept⟩ := takes.kept c.slot
    have joins : (t.slot c.slot).provList = ps := (congrArg Slot.provList (tcore c.slot) :).trans (kept.trans (congrArg Slot.provList self))
    refine ⟨xs, ys, list.symm.trans before, joins.trans joined, fun q mem ne o record => ?_, fun q o head ne record => ?_⟩
    · exact low q mem ne o ((serves.records q ne).trans record)
    · exact high q o head ne ((serves.records q ne).trans record)
  · have yopen : (y.slot j).state.isOpen = true := by rw [(yslot j).2.2]; exact (passed.isOpen j).trans isOpen'
    rw [show (t.slot j).pending = (z.slot j).pending from (congrArg Slot.pending (tcore j) :)]
    refine (takes.of_open (j := j) yopen).2.trans ?_
    rw [show (State.slot (y.editStats _) j).pending = (y.slot j).pending from rfl, (yslot j).2.1, passed.pending j isOpen']
    refine (List.map_map ..).trans (List.map_congr_left fun a _ => ?_)
    obtain ⟨ordinal, rest⟩ := passedAt_rest as base j a
    simp only [Function.comp]
    generalize passedAt as base j a = b at *
    rw [condServed_passing j b.ordinal n b.cond new]
    by_cases owner : j = c.slot ∧ a.ordinal = c.ordinal
    · rw [if_pos owner, if_pos (by rw [ordinal]; exact owner)]
      exact rest _
    · rw [if_neg owner, if_neg (by rw [ordinal]; exact owner)]
      by_cases later : j = c.slot ∧ cs.contains { slot := c.slot, ordinal := a.ordinal } = true
      · rw [if_pos later, if_pos (by rw [ordinal]; exact later)]
        exact rest _
      · rw [if_neg later, if_neg (by rw [ordinal]; exact later)]
  · exact completed.slot_of_same handed ((away j ne).trans (passed.others j none))

end

end Sys2Proof.Machine

namespace Sys2Proof.Machine

set_option Elab.async false

variable {s t u x : State} {w : DescWrite} {ws : List DescWrite} {op : Op} {key : OpKey} {r : Nat} {p : PoolRecord} {c : Waiter} {cs : List Waiter}

/-! ### A loss that waited (R111, R113) -/

/-- A halted loss goes on: its waiters take numbers in list order, and its operation goes on at its bucket. -/
theorem State.goOn_loss {live : Bool} {rest : List (WayNo × Ecc)} (halt : op.halt = some (.loss r live c rest)) (clean : ∀ y ∈ rest, y.2 = .clean)
    (record : s.record r = some p) (waiters : p.waiters = c :: cs) (nodup : p.waiters.Nodup)
    (numbers : s.index.counter + p.waiters.length ≤ s.index.copy.reserved) :
    ∃ t, s.numbered.goOn op (.number s.index.counter) = (t.endLoss r live).runBody op ∧
      State.Serves { s with index := { s.index with counter := s.index.counter + p.waiters.length } } t r (s.unindexed .bucketFull s.index.counter p.waiters) := by
  rw [waiters] at nodup numbers
  obtain ⟨new, -⟩ := List.nodup_cons.1 nodup
  have own : s.numbered.waitersOf r = c :: cs := by rw [State.waitersOf, show s.numbered.record r = some p from record]; exact waiters
  have serves := s.numbered.lossGive_serves r c s.index.counter
  have index : (s.numbered.lossGive r c (.number s.index.counter)).index = s.numbered.index := serves.index_eq
  have left : (s.numbered.lossGive r c (.number s.index.counter)).waitersOf r = cs := by
    rw [State.waitersOf, serves.record p record, waiters, List.map_cons, List.map_nil, List.filter_cons_of_neg (by simp)]
    refine List.filter_eq_self.2 fun d mem => ?_
    have ne : d ≠ c := fun same => new (same ▸ mem)
    simpa using ne
  rw [List.length_cons] at numbers
  obtain ⟨t, run, served⟩ := State.lossWaiters_serves r cs (s := s.numbered.lossGive r c (.number s.index.counter))
    (by rw [index]; exact (show s.index.counter + 1 + cs.length ≤ s.index.copy.reserved by omega))
  refine ⟨t, ?_, by rw [waiters]; exact .unindexed serves served⟩
  unfold State.goOn State.stillWaits
  rw [halt]
  dsimp only
  rw [if_neg nofun, own, if_pos (by simp), left, run]
  dsimp only
  rw [State.runFrom, State.checkWays_of_clean _ _ _ clean]

/-- A loss that waited alone has dealt with its waiters, and its operation goes on at its bucket. -/
theorem State.Settled.lossResumes {live : Bool} {rest : List (WayNo × Ecc)} (settled : s.Settled) (sound : s.index.writeFailed = false)
    (writes : s.index.writes = w :: ws) (reserves : w.use = .reserve) (alone : s.index.waiting = [key])
    (found : s.index.inflight.find? (fun o => o.kind.key == key) = some op) (halt : op.halt = some (.loss r live c rest)) (clean : ∀ y ∈ rest, y.2 = .clean)
    (record : s.record r = some p) (waiters : p.waiters = c :: cs) (nodup : p.waiters.Nodup) (opened : ∀ y ∈ cs, (s.slot y.slot).state.isOpen = true)
    (numbers : s.index.counter + p.waiters.length ≤ w.desc.reserved) (canonical : s.Canonical) :
    ∃ u : State, exec (.descriptorWriteComplete .clean) s = .next (s.endEvent (State.settleOp key (u.runBody op)).refreshAll) ∧
      u.mem = { s.mem with desc := w.desc } ∧
      u.index = { s.index with
        writes := ws, waiting := [], counter := s.index.counter + p.waiters.length, copy := { s.index.copy with reserved := w.desc.reserved } } ∧
      u.record r = (if live = true then none else some { p with waiters := [] }) ∧ (∀ q, q ≠ r → u.record q = s.record q) ∧
      u.removals = s.removals.filter (fun m => !p.waiters.contains m.waiter) ∧
      (∀ j, (s.slot j).state.isOpen = true → (u.slot j).pending = (s.slot j).pending.map fun x =>
        if p.waiters.contains { slot := j, ordinal := x.ordinal } then
          { x with cond := .resolved .unindexed (s.index.counter + p.waiters.idxOf { slot := j, ordinal := x.ordinal }) .bucketFull }
        else x) ∧
      (∀ j, (u.slot j).inflight = (s.slot j).inflight - p.waiters.countP fun x => x.slot == j) ∧
      ((s.slot c.slot).state = .aborting → (u.slot c.slot).pending = (s.slot c.slot).pending ∧
        (u.slot c.slot).state = if (s.slot c.slot).inflight ≤ 1 then .aborted else .aborting) ∧
      ∀ j, (∀ x ∈ p.waiters, x.slot ≠ j) → u.slot j = s.slot j := by
  have first : s.index.counter < w.desc.reserved := by rw [waiters, List.length_cons] at numbers; omega
  obtain ⟨t, goes, serves⟩ := State.goOn_loss (s := s.reserved w ws) halt clean record waiters nodup numbers
  have fst := (s.reserved w ws).unindexed_fst .bucketFull (s.reserved w ws).index.counter p.waiters
  have count (j : SlotNo) := (s.reserved w ws).unindexed_countP .bucketFull (s.reserved w ws).index.counter p.waiters j
  have spec := t.endLoss_spec r live
  have uslot (j : SlotNo) : (t.endLoss r live).slot j = t.slot j := by rw [spec]; rfl
  have trecord := serves.record p record
  rw [fst, List.filter_eq_nil_iff.2 (by simp)] at trecord
  obtain ⟨twf, -⟩ := serves.pool canonical.2.1 (Option.isSome_iff_exists.2 ⟨p, record⟩)
  have inflight (j : SlotNo) : (t.slot j).inflight = (s.slot j).inflight - p.waiters.countP fun x => x.slot == j := by
    rw [serves.inflight, count]
    rfl
  refine ⟨t.endLoss r live, ?_, ?_, ?_, ?_, fun q ne => ?_, ?_, fun j isOpen => ?_, fun j => ?_, fun aborting => ?_, fun j none => ?_⟩
  · rw [settled.resumes sound writes reserves alone found first, show s.index.counter = (s.reserved w ws).index.counter from rfl, goes]
  · rw [spec]
    exact serves.mem_eq
  · rw [spec]
    exact serves.index_eq
  · rw [spec]
    cases live with
    | true => exact tableGet_tableErase_self twf
    | false => exact trecord
  · rw [spec]
    refine Eq.trans ?_ (serves.records q ne)
    cases live with
    | true => exact tableGet_tableErase_of_ne ne
    | false => rfl
  · rw [spec]
    refine serves.removals.trans ?_
    rw [fst]
    rfl
  · rw [uslot]
    refine (serves.of_open isOpen).2.trans (List.map_congr_left fun y _ => ?_)
    rw [(s.reserved w ws).condServed_unindexed y.ordinal .bucketFull _ y.cond isOpen nodup]
    split <;> rfl
  · rw [uslot, inflight]
  · rw [uslot]
    have closed : (s.slot c.slot).state.isOpen = false := by rw [aborting]; rfl
    have once : p.waiters.countP (fun y => y.slot == c.slot) = 1 := by
      rw [waiters, List.countP_cons_of_pos (by simp), List.countP_eq_zero.2]
      intro y mem same
      rw [← beq_iff_eq.1 same, opened y mem] at closed
      cases closed
    refine ⟨serves.pending_of_closed closed, (serves.of_aborting aborting ?_).trans ?_⟩
    · have mem : c ∈ ((s.reserved w ws).unindexed .bucketFull (s.reserved w ws).index.counter p.waiters).map Prod.fst := by rw [fst, waiters]; simp
      obtain ⟨y, mem, e⟩ := List.mem_map.1 mem
      exact ⟨y, mem, by rw [e]⟩
    · have last : (s.slot c.slot).inflight - 1 = 0 ↔ (s.slot c.slot).inflight ≤ 1 := by omega
      simp only [inflight, once, last]
  · rw [uslot]
    refine serves.others j fun y mem => none y.1 ?_
    rw [← fst]
    exact List.mem_map_of_mem mem

end Sys2Proof.Machine

namespace Sys2Proof.Machine

set_option Elab.async false

/-- Settles O47: each use of a descriptor write by its lemma, a lookup that waited by `State.LookupTaken`, a walk by `State.WalkTaken`. -/
theorem descriptorWriteCompletes : Obligations.DescriptorWriteCompletes := by
  refine ⟨fun s w ws settled handed sound writes => ⟨settled.descriptorCorrected sound writes, fun use => ?_,
    fun reserves none => settled.reservationMade handed sound writes reserves none,
    fun l op use reserves alone found kind halt numbers alive => ?_,
    fun r p e op h as rest base reserves alone found halt record entry nodup split stands limit numbers enough => ?_,
    fun key op r live p c cs rest reserves alone found halt clean record waiters nodup _ opened numbers canonical =>
      settled.lossResumes sound writes reserves alone found halt clean record waiters nodup opened numbers canonical,
    fun cell value tag use may inflight => settled.epochMade sound writes use may inflight,
    fun j tag use job may inflight => settled.formatMade sound writes use job may inflight⟩,
    fun s w ws settled sound writes working => settled.descriptorLost sound writes working⟩
  · have done : s.begun.writeDone w ws = { s.begun with mem := { s.mem with desc := w.desc }, index := { s.index with writes := ws } } := by
      simp only [State.writeDone, use]
      rfl
    rw [settled.descriptorMade sound writes, done]
    exact congrArg Host.Outcome.next (s.endEvent_of_same rfl rfl)
  · intro stats taken unplaced
    have takes {t : State} {cond : ChunkCond} {counts : EngineStats} (h : s.LookupTaken t w ws l use cond counts) : taken t cond counts :=
      ⟨h.run, h.desc, h.writes, h.waiting, h.copy, h.counter, h.inflight, h.stats, h.error, h.taken, h.dropped, h.count, h.others⟩
    have leaves {cond : ChunkCond} {counts : EngineStats} : (∃ t, s.LookupTaken t w ws l use cond counts ∧ s.Unplaced t l) → unplaced cond counts :=
      fun ⟨t, h, k⟩ => ⟨t, takes h, k.ways, k.pool, k.occupancy, k.withdrawal, k.provList, k.provCount⟩
    have unindexed (k : Cause) (other : use ≠ .conflict) (goes : (s.reserved w ws).numbered.lookupNumber l op.bucket use (.number s.index.counter) =
        (s.reserved w ws).numbered.endLookup l (.unindexed s.index.counter k)) :=
      leaves (State.unindexedResumes settled handed sound writes reserves alone found kind halt numbers other goes)
    refine ⟨fun conflict => leaves (State.conflictResumes settled handed sound writes reserves alone found kind halt numbers conflict), fun full => ?_,
      fun yields => ?_, fun y insert canonical empty lowest => ⟨fun refused => ?_, fun room fewer => ?_⟩⟩
    · rcases full with rfl | ⟨rfl, full⟩
      · exact unindexed .bucketFull nofun rfl
      · refine unindexed .bucketFull nofun ?_
        rw [State.lookupNumber, (State.emptyWayOf_eq_none (s.reserved w ws).numbered op.bucket).2 full]
    · subst yields
      exact unindexed .fillYield nofun rfl
    · subst insert
      have way : (s.reserved w ws).numbered.emptyWayOf op.bucket = some y := State.emptyWayOf_eq_some (s := (s.reserved w ws).numbered) empty lowest
      have no := State.grant_of_no_room (s := (s.reserved w ws).numbered) (l := l) (b := op.bucket) (w := y)
        (refused.imp_right fun (all : s.pool.length = 16384) => mt canonical.leastFree_lt.1 (by omega))
      exact unindexed .provisionalLimit nofun (by simp only [State.lookupNumber, way, no])
    · have free : leastFree s.pool 0 < 16384 := canonical.leastFree_lt.2 fewer
      have unused : s.record (leastFree s.pool 0) = none := (tableGet_leastFree canonical.2.1 fun _ _ => Nat.zero_le _).1
      obtain ⟨t, h, mem, pool, occupancy, withdrawal, list, count⟩ :=
        State.insertionResumes settled handed sound writes reserves alone found kind halt numbers insert alive empty lowest free room
      obtain ⟨-, self, -, record, records, entry, entries⟩ := (s.reserved w ws).toTakeNew_spec l op.bucket y alive
      obtain ⟨as, bs, split, joined, before, after⟩ := (s.reserved w ws).joinProvList_inserted l op.bucket y unused (s.slot l.slot).provList
      rw [show (s.reserved w ws).slot l.slot = s.slot l.slot from rfl, joined] at self
      generalize (s.reserved w ws).toTakeNew l op.bucket y = v at *
      have trecord (q : Nat) : t.record q = v.record q := by rw [State.record, State.record, pool]
      have tentry (b : Nat) (x : WayNo) : t.entry b x = v.entry b x := by rw [State.entry, State.entry, mem]
      refine ⟨t, leastFree s.pool 0, takes h, free, unused, (trecord _).trans record, fun q ne => (trecord q).trans (records q ne), fun isOpen => ?_,
        fun aborting => ?_, (tentry _ _).trans entry, fun b x ne => (tentry b x).trans (entries b x ne), occupancy⟩
      · rw [if_pos isOpen] at self withdrawal
        exact ⟨count.trans (by rw [self]), withdrawal, as, bs, split, list.trans (congrArg Slot.provList self), before, after⟩
      · have closed : ¬(s.slot l.slot).state.isOpen = true := by rw [aborting]; exact Bool.false_ne_true
        rw [if_neg closed] at self withdrawal
        exact ⟨count.trans (by rw [self]), list.trans (by rw [self]), withdrawal⟩
  · intro stats others passed walked
    have walks {t : State} {left : List Waiter} (h : s.WalkTaken t w r p as left) : walked t left :=
      ⟨h.run, h.desc, h.entries, h.records, h.inflight, h.aborting⟩
    refine ⟨fun none canonical => ?_, ?_⟩
    · obtain ⟨t, h, gone⟩ :=
        State.walkEnds settled handed sound writes reserves alone found halt record entry nodup split stands limit numbers enough none canonical
      exact ⟨t, walks h, gone⟩
    · rintro c cs left i n behind rfl isOpen room number lt rfl
      obtain ⟨t, h, owned⟩ :=
        State.walkTakesOver settled handed sound writes reserves alone found halt record entry nodup split stands limit numbers enough behind isOpen room number lt
      exact ⟨t, walks h, owned⟩

end Sys2Proof.Machine

namespace Sys2Proof.Machine

set_option Elab.async false

/-! ### The rules of the Notice Unit (R132, R162 to R165) -/

theorem mem_joinDescending {x l : Nat} {ls : List Nat} : x ∈ joinDescending l ls ↔ x = l ∨ x ∈ ls := by
  induction ls with
  | nil => simp [joinDescending]
  | cons h t ih =>
    unfold joinDescending
    split
    · rename_i e; simp [e]
    · split
      · exact List.mem_cons
      · rw [List.mem_cons, ih, List.mem_cons, or_left_comm]

/-- A level that joins keeps the list highest first, each level once (R165). -/
theorem joinDescending_falls {l : Nat} {ls : List Nat} (falls : ls.Pairwise (· > ·)) : (joinDescending l ls).Pairwise (· > ·) := by
  induction ls with
  | nil => exact List.pairwise_singleton _ _
  | cons h t ih =>
    obtain ⟨below, rest⟩ := List.pairwise_cons.1 falls
    unfold joinDescending
    split
    · exact falls
    · rename_i other
      split
      · rename_i above
        exact List.pairwise_cons.2 ⟨fun x m => (List.mem_cons.1 m).elim (· ▸ above) fun m => (below x m).trans above, falls⟩
      · exact List.pairwise_cons.2 ⟨fun x m => (mem_joinDescending.1 m).elim (fun e => by omega) (below x), ih rest⟩

variable (s : State)

/-- Level 0 is not recorded; any other joins (R162, R165). -/
theorem State.mem_joinLevel {l x : Nat} : x ∈ (s.joinLevel l).notice.levels ↔ x ∈ s.notice.levels ∨ x = l ∧ l ≠ 0 := by
  unfold State.joinLevel
  split
  · rename_i e; simp [e]
  · rename_i e
    rw [mem_joinDescending, or_comm]
    simp [e]

theorem State.mem_joinLevels {ls : List Nat} {x : Nat} : x ∈ (ls.foldl State.joinLevel s).notice.levels ↔ x ∈ s.notice.levels ∨ x ∈ ls ∧ x ≠ 0 := by
  induction ls generalizing s with
  | nil => simp
  | cons l ls ih =>
    rw [List.foldl_cons, ih, s.mem_joinLevel, List.mem_cons, or_and_right, or_assoc]
    refine or_congr_right (or_congr_left (and_congr_right fun e => ?_))
    rw [e]

/-- Levels that join change the pending level set alone. -/
theorem State.joinLevels_eq (ls : List Nat) :
    ls.foldl State.joinLevel s = { s with notice := { s.notice with levels := (ls.foldl State.joinLevel s).notice.levels } } := by
  induction ls generalizing s with
  | nil => rfl
  | cons l ls ih =>
    obtain ⟨ks, e⟩ := s.joinLevel_levels l
    rw [List.foldl_cons, ih, e]

/-- A condition set that is written, and its slot's flag of the Ready Map behind it (R163, R164). -/
theorem State.writeMarks_spec (i : SlotNo) (m : Marks) :
    s.writeMarks i m = { s with
      slots := s.slots.set i { s.slot i with marks := m }, notice := { s.notice with ready := s.notice.ready.set i m.any }
      port := (s.writeMarks i m).port } ∧
    (s.mayWrite = true → s.Writes (s.writeMarks i m) (HostWrite.slotMarks i m ::
      if s.notice.ready.get i = m.any then [] else [.readyWord (i.val / 32) (readyWord (s.notice.ready.set i m.any) (i.val / 32))])) ∧
    (s.mayWrite = false → (s.writeMarks i m).port = s.port) := by
  have written := State.post_writes (s.editSlot i fun c => { c with marks := m }) [.slotMarks i m]
  have silent := State.post_of_silent (s.editSlot i fun c => { c with marks := m }) [.slotMarks i m]
  have frame := (s.editSlot_slotsAndPort i fun c => { c with marks := m }).trans (State.post_slotsAndPort _ [.slotMarks i m])
  have slots : ((s.editSlot i fun c => { c with marks := m }).post [.slotMarks i m]).slots = s.slots.set i { s.slot i with marks := m } :=
    State.post_slots _ _
  unfold State.writeMarks State.setReady
  generalize (s.editSlot i fun c => { c with marks := m }).post [.slotMarks i m] = u at *
  have notice : u.notice = s.notice := by rw [frame]
  have may := frame.mayWrite
  rw [notice]
  dsimp only
  by_cases same : s.notice.ready.get i = m.any
  · have kept : s.notice.ready.set i m.any = s.notice.ready := same ▸ Vector.set_getElem_self i.isLt
    rw [if_pos same, if_pos same, kept, ← slots]
    exact ⟨frame, written, fun off => by rw [silent off]; rfl⟩
  · rw [if_neg same, if_neg same]
    generalize hv : ({ u with notice := { s.notice with ready := s.notice.ready.set i m.any } } : State) = v
    have vmay : v.mayWrite = s.mayWrite := by rw [← hv]; exact may
    refine ⟨?_, fun on => ?_, fun off => ?_⟩
    · rw [v.post_slotsAndPort _, State.post_slots, ← hv, slots, frame]
    · have more := v.post_writes [.readyWord (i.val / 32) (readyWord (s.notice.ready.set i m.any) (i.val / 32))] (vmay.trans on)
      have area : u.ctl.area = s.ctl.area := by rw [frame]
      subst hv
      exact State.Writes.trans (written on) more area
    · have port : u.port = s.port := by rw [silent off]; rfl
      rw [State.post_of_silent _ _ (vmay.trans off), ← hv]
      exact port

/-- Where the marks due are the marks held, nothing is handed on (R163). -/
theorem State.refresh_of_same {i : SlotNo} (h : (s.slot i).marks = (s.slot i).marksDue) : s.refresh i = s := if_pos h

/-- Where they differ, the set is written and the levels of the conditions that rise join (R163, R164, R165). -/
theorem State.refresh_of_ne {i : SlotNo} (h : (s.slot i).marks ≠ (s.slot i).marksDue) :
    s.refresh i = ((s.slot i).risen (s.slot i).marks (s.slot i).marksDue).foldl State.joinLevel (s.writeMarks i (s.slot i).marksDue) := if_neg h

/-! ### The table of R132 -/

theorem Slot.recipeTrue_iff (c : Slot) : c.recipeTrue = true ↔ c.state ≠ .free ∧ (c.cls.recipeThreshold ≤ c.written - c.taken ∨
    (c.state = .settling ∨ c.state = .closed ∨ c.state = .aborted) ∧ c.taken < c.written) := by
  unfold Slot.recipeTrue
  cases h : c.state <;> simp

theorem Slot.watchTrue_iff (c : Slot) : c.watchTrue = true ↔ c.state ≠ .free ∧ c.watch ≠ 0 ∧ c.watch ≤ c.safe := by
  unfold Slot.watchTrue
  cases h : c.state <;> simp

theorem Slot.stateTrue_iff (c : Slot) : c.stateTrue = true ↔ c.state = .closed ∨ c.state = .aborted := by
  simp [Slot.stateTrue]

/-- The marks due are those of the conditions that are true, but for the conditions of level 0 (R132, R162, R163). -/
theorem Slot.marksDue_eq {c : Slot} {m : Marks} (recipe : m.recipe = true ↔ c.recipeTrue = true ∧ c.cls.recipeLevel ≠ 0)
    (watch : m.watch = true ↔ c.watchTrue = true ∧ c.cls.watchLevel ≠ 0) (state : m.state = true ↔ c.stateTrue = true ∧ c.cls.stateLevel ≠ 0) :
    c.marksDue = m := by
  obtain ⟨r, w, t⟩ := m
  simp only [Slot.marksDue, Marks.mk.injEq]
  refine ⟨Bool.eq_iff_iff.2 ?_, Bool.eq_iff_iff.2 ?_, Bool.eq_iff_iff.2 ?_⟩
  · simpa [and_comm] using recipe.symm
  · simpa [and_comm] using watch.symm
  · simpa [and_comm] using state.symm

/-- The levels that join are those of the conditions that go from false to true (R165). -/
theorem Slot.mem_risen {c : Slot} {before after : Marks} {l : Nat} : l ∈ c.risen before after ↔
    after.recipe = true ∧ before.recipe = false ∧ l = c.cls.recipeLevel ∨ after.watch = true ∧ before.watch = false ∧ l = c.cls.watchLevel ∨
      after.state = true ∧ before.state = false ∧ l = c.cls.stateLevel := by
  have one (p q : Bool) (k : Nat) : (l ∈ if (p && !q) = true then [k] else []) ↔ p = true ∧ q = false ∧ l = k := by
    cases p <;> cases q <;> simp
  simp only [Slot.risen, List.mem_append, one, or_assoc]

/-- A condition that is recorded has a level, so the level of one that rises is not 0 (R162). -/
theorem Slot.risen_ne_zero {c : Slot} {before : Marks} {l : Nat} (h : l ∈ c.risen before c.marksDue) : l ≠ 0 := by
  rcases Slot.mem_risen.1 h with ⟨on, -, rfl⟩ | ⟨on, -, rfl⟩ | ⟨on, -, rfl⟩
  all_goals
    simp only [Slot.marksDue, Bool.and_eq_true, bne_iff_ne] at on
    exact on.1

/-- Settles O12: the table of R132 gives the marks due; what handing them on does is what `State.writeMarks_spec` says, with the levels that `Slot.mem_risen` says. -/
theorem conditionsAreHandedOn : Obligations.ConditionsAreHandedOn := by
  rintro s t i c recipe watch state m rfl rfl recipeIff watchIff stateIff recipeMark watchMark stateMark
  have due : (s.slot i).marksDue = m := Slot.marksDue_eq
    (by rw [recipeMark, recipeIff, Slot.recipeTrue_iff]) (by rw [watchMark, watchIff, Slot.watchTrue_iff])
    (by rw [stateMark, stateIff, Slot.stateTrue_iff])
  refine ⟨fun same => s.refresh_of_same (same.trans due.symm), fun differ => ?_⟩
  obtain ⟨frame, self, others⟩ := s.refresh_spec i
  rw [due] at self
  have risen := s.refresh_of_ne (i := i) (by rw [due]; exact differ)
  have rises {l : Nat} (h : l ∈ (s.slot i).risen (s.slot i).marks m) : l ≠ 0 := Slot.risen_ne_zero (by rw [due]; exact h)
  rw [due] at risen
  obtain ⟨marked, writes, silent⟩ := s.writeMarks_spec i m
  generalize hu : s.writeMarks i m = u at *
  have joins := u.joinLevels_eq ((s.slot i).risen (s.slot i).marks m)
  have member {l : Nat} := u.mem_joinLevels (ls := (s.slot i).risen (s.slot i).marks m) (x := l)
  rw [← risen] at joins member
  have ready : (s.refresh i).notice.ready = s.notice.ready.set i m.any := by rw [joins, marked]
  have port : (s.refresh i).port = u.port := by rw [joins]
  refine ⟨?_, self, others, ?_, fun j ne => ?_, fun l => ?_, fun on => ?_, fun off => port.trans (silent off)⟩
  · rw [joins, marked]
  · rw [ready]; exact get_set_self _ _ _
  · rw [ready]; exact get_set_of_ne _ _ ne
  · have levels : u.notice.levels = s.notice.levels := by rw [marked]
    rw [member, levels, ← Slot.mem_risen]
    exact or_congr_right (and_iff_left_of_imp rises)
  · have written := writes on
    rw [ready]
    exact ⟨by rw [port]; exact written.1, by rw [port]; exact written.2⟩

end Sys2Proof.Machine

namespace Sys2Proof.Machine

set_option Elab.async false

/-! ### What an event leaves to be handed on (R132, R163, R164, R165) -/

/-- The laws of the notices that stand in the midst of an event too: those of the flags, the classes and the pending level set (R13, R162, R164, R165). -/
structure State.Marked (s : State) : Prop where
  ready : ∀ i, s.notice.ready.get i = (s.slot i).marks.any
  threshold : ∀ i, (s.slot i).state ≠ .free → 1 ≤ (s.slot i).cls.recipeThreshold
  classes : ∀ n c, s.classes.get n = some c → 1 ≤ c.recipeThreshold
  levels : s.notice.levels.Pairwise (· > ·) ∧ 0 ∉ s.notice.levels

/-- A slot holds the marks due. -/
def Slot.Handed (c : Slot) : Prop := c.marks = c.marksDue

/-- A change of a context that keeps its condition set and its class, and leaves a FREE slot FREE. -/
structure Slot.Alters (c d : Slot) : Prop where
  marks : d.marks = c.marks
  cls : d.cls = c.cls
  held : d.state ≠ .free → c.state ≠ .free

/-- One that leaves the marks due as they were, too. -/
structure Slot.Stands (c d : Slot) : Prop extends c.Alters d where
  due : d.marksDue = c.marksDue

theorem Slot.Stands.of_same {c d : Slot} (marks : d.marks = c.marks := by rfl) (cls : d.cls = c.cls := by rfl) (state : d.state = c.state := by rfl)
    (written : d.written = c.written := by rfl) (taken : d.taken = c.taken := by rfl) (watch : d.watch = c.watch := by rfl)
    (safe : d.safe = c.safe := by rfl) : c.Stands d :=
  ⟨⟨marks, cls, by rw [state]; exact id⟩, by simp only [Slot.marksDue, Slot.recipeTrue, Slot.watchTrue, Slot.stateTrue, cls, state, written, taken, watch, safe]⟩

theorem Slot.Stands.refl (c : Slot) : c.Stands c := .of_same

/-- The conditions of an open slot do not depend on which of ACTIVE, HELD and STALLED it is (R132). -/
theorem Slot.Stands.of_open {c : Slot} {st : SlotState} (was : c.state.isOpen = true) (is : st.isOpen = true) : c.Stands { c with state := st } := by
  refine ⟨⟨rfl, rfl, fun _ => SlotState.ne_free_of_isOpen was⟩, ?_⟩
  have due (st : SlotState) (o : st.isOpen = true) : ({ c with state := st } : Slot).marksDue = ({ c with state := .active } : Slot).marksDue := by
    cases st with
    | active | held | stalled => rfl
    | free | settling | closed | aborting | aborted => cases o
  exact (due st is).trans (due c.state was).symm

theorem Slot.Alters.handed {c d : Slot} (h : c.Alters d) (due : d.marksDue = c.marksDue) (k : c.Handed) : d.Handed := by
  rw [Slot.Handed, h.marks, due]; exact k

/-- A change, in the midst of an event, that leaves the conditions of at most the slots `D` to be handed on.
Levels may have joined; the Serving Level and the engine state are kept, by which the end of the event decides what is sent. -/
structure State.Alters (s : State) (D : Set SlotNo) (t : State) : Prop where
  engine : t.ctl.engine = s.ctl.engine
  serving : t.notice.serving = s.notice.serving
  marked : s.Marked → t.Marked
  handed : ∀ i, i ∉ D → (s.slot i).Handed → (t.slot i).Handed

variable {s t u : State} {D E : Set SlotNo}

theorem State.Alters.refl (s : State) (D : Set SlotNo) : s.Alters D s := ⟨rfl, rfl, id, fun _ _ => id⟩

theorem State.Alters.trans (h : s.Alters D t) (k : t.Alters D u) : s.Alters D u :=
  ⟨k.engine.trans h.engine, k.serving.trans h.serving, k.marked ∘ h.marked, fun i out => k.handed i out ∘ h.handed i out⟩

theorem State.Alters.ite {p : Prop} [Decidable p] (h : p → s.Alters D t) (k : ¬p → s.Alters D u) : s.Alters D (if p then t else u) := by
  split
  · exact h ‹_›
  · exact k ‹_›

theorem State.Alters.foldl {α : Type} {f : State → α → State} (h : ∀ (s : State) (a : α), s.Alters D (f s a)) (l : List α) (s : State) :
    s.Alters D (l.foldl f s) := by
  induction l generalizing s with
  | nil => exact .refl s D
  | cons a l ih => exact (h s a).trans (ih _)

/-- A change of the contexts, the notices and the classes standing. -/
theorem State.Alters.of_slots (slots : ∀ i, (s.slot i).Alters (t.slot i)) (due : ∀ i, i ∉ D → (t.slot i).marksDue = (s.slot i).marksDue)
    (engine : t.ctl.engine = s.ctl.engine := by rfl) (notice : t.notice = s.notice := by rfl) (classes : t.classes = s.classes := by rfl) : s.Alters D t where
  engine := engine
  serving := by rw [notice]
  marked := fun m => by
    refine ⟨fun i => ?_, fun i held => ?_, ?_, ?_⟩
    · rw [notice, (slots i).marks]; exact m.ready i
    · rw [(slots i).cls]; exact m.threshold i ((slots i).held held)
    · rw [classes]; exact m.classes
    · rw [notice]; exact m.levels
  handed := fun i out => (slots i).handed (due i out)

/-- A change of blocks of which the laws of the notices do not speak. -/
theorem State.Alters.of_same (engine : t.ctl.engine = s.ctl.engine := by rfl) (notice : t.notice = s.notice := by rfl) (classes : t.classes = s.classes := by rfl)
    (slots : t.slots = s.slots := by rfl) : s.Alters D t := by
  have slot (i : SlotNo) : t.slot i = s.slot i := by rw [State.slot, State.slot, slots]
  exact .of_slots (fun i => by rw [slot]; exact (Slot.Stands.refl _).toAlters) (fun i _ => by rw [slot]) engine notice classes

/-- A change of one context. -/
theorem State.Alters.of_slot {i : SlotNo} (self : (s.slot i).Alters (t.slot i)) (due : i ∈ D ∨ (t.slot i).marksDue = (s.slot i).marksDue)
    (others : ∀ j, j ≠ i → t.slot j = s.slot j) (engine : t.ctl.engine = s.ctl.engine := by rfl) (notice : t.notice = s.notice := by rfl)
    (classes : t.classes = s.classes := by rfl) : s.Alters D t := by
  refine .of_slots (fun j => ?_) (fun j out => ?_) engine notice classes
  · by_cases e : j = i
    · exact e ▸ self
    · rw [others j e]; exact (Slot.Stands.refl _).toAlters
  · by_cases e : j = i
    · subst e; exact due.resolve_left out
    · rw [others j e]

/-- A change of one context, with writes. -/
theorem State.Alters.of_slotAndPort {i : SlotNo} (rest : s.SlotsAndPort t) (self : (s.slot i).Alters (t.slot i))
    (due : i ∈ D ∨ (t.slot i).marksDue = (s.slot i).marksDue) (others : ∀ j, j ≠ i → t.slot j = s.slot j) : s.Alters D t :=
  .of_slot self due others (by rw [rest]) (by rw [rest]) (by rw [rest])

variable (s)

theorem State.editSlot_alters {i : SlotNo} {f : Slot → Slot} (m : i ∈ D) (h : (s.slot i).Alters (f (s.slot i))) : s.Alters D (s.editSlot i f) :=
  .of_slot (by simpa using h) (.inl m) fun j e => by simp [e]

theorem State.editSlot_stands {i : SlotNo} {f : Slot → Slot} (h : (s.slot i).Stands (f (s.slot i))) : s.Alters D (s.editSlot i f) :=
  .of_slot (i := i) (by simpa using h.toAlters) (.inr (by simpa using h.due)) fun j e => by simp [e]

theorem State.post_alters (ws : List HostWrite) : s.Alters D (s.post ws) := .ite (fun _ => .of_same) fun _ => .refl s D

/-! ### The Notice Unit -/

theorem State.joinLevel_alters (l : Nat) : s.Alters D (s.joinLevel l) := by
  obtain ⟨ls, e⟩ := s.joinLevel_levels l
  refine ⟨by rw [e], by rw [e], fun m => ⟨by rw [e]; exact m.ready, by rw [e]; exact m.threshold, by rw [e]; exact m.classes, ?_, ?_⟩, fun i _ => by rw [e]; exact id⟩
  · unfold State.joinLevel
    split
    · exact m.levels.1
    · exact joinDescending_falls m.levels.1
  · rw [s.mem_joinLevel]
    exact fun h => h.elim m.levels.2 fun ⟨z, nz⟩ => nz z.symm

theorem State.joinLevels_alters (ls : List Nat) : s.Alters D (ls.foldl State.joinLevel s) := .foldl (fun s l => s.joinLevel_alters l) ls s

/-- A condition set that is written leaves the flags of the Ready Map lawful (R163, R164). -/
theorem State.writeMarks_alters {i : SlotNo} {m : Marks} (due : i ∈ D ∨ m = (s.slot i).marksDue) : s.Alters D (s.writeMarks i m) := by
  obtain ⟨frame, -⟩ := s.writeMarks_spec i m
  generalize s.writeMarks i m = t at frame
  have self : t.slot i = { s.slot i with marks := m } := by rw [frame]; exact get_set_self _ _ _
  have others (j : SlotNo) (e : j ≠ i) : t.slot j = s.slot j := by rw [frame]; exact get_set_of_ne _ _ e
  refine ⟨by rw [frame], by rw [frame], fun k => ⟨fun j => ?_, fun j held => ?_, by rw [frame]; exact k.classes, by rw [frame]; exact k.levels⟩, fun j out h => ?_⟩
  · by_cases e : j = i
    · rw [e, self, frame]; exact get_set_self _ _ _
    · rw [others j e, frame]; exact (get_set_of_ne _ _ e).trans (k.ready j)
  · by_cases e : j = i
    · rw [e, self] at held ⊢; exact k.threshold i held
    · rw [others j e] at held ⊢; exact k.threshold j held
  · by_cases e : j = i
    · subst e; rw [self]; exact due.resolve_left out
    · rw [others j e]; exact h

theorem State.refresh_alters (i : SlotNo) : s.Alters D (s.refresh i) := by
  unfold State.refresh
  exact .ite (fun _ => .refl s D) fun _ => (s.writeMarks_alters (.inr rfl)).trans (State.joinLevels_alters _ _)

/-- A slot whose conditions have been handed on holds the marks due. -/
theorem State.refresh_handed (i : SlotNo) : ((s.refresh i).slot i).Handed := by
  rw [(s.refresh_spec i).2.1]; rfl

variable {s}

/-- Where the conditions of one slot are left to be handed on, handing them on leaves none. -/
theorem State.Alters.refresh {i : SlotNo} (h : s.Alters {i} t) : s.Alters ∅ (t.refresh i) := by
  obtain ⟨engine, serving, marked, handed⟩ := h.trans (t.refresh_alters i)
  refine ⟨engine, serving, marked, fun j _ => ?_⟩
  by_cases e : j = i
  · exact fun _ => e ▸ t.refresh_handed i
  · exact handed j e

/-- A slot whose conditions have changed is one of those listed. -/
theorem mem_changedFrom {cs : List Slot} {n k : Nat} {c : Slot} (at' : cs[k]? = some c) (changed : ¬c.Handed) : Fin.ofNat 1024 (n + k) ∈ changedFrom cs n := by
  induction cs generalizing n k with
  | nil => simp at at'
  | cons d cs ih =>
    unfold changedFrom
    cases k with
    | zero =>
      obtain rfl : d = c := by simpa using at'
      rw [if_neg (show ¬d.marks = d.marksDue from changed)]
      exact List.mem_cons_self
    | succ k =>
      have later := ih (n := n + 1) (k := k) (by simpa using at')
      rw [show n + 1 + k = n + (k + 1) by omega] at later
      split
      · exact later
      · exact List.mem_cons_of_mem _ later

/-- A slot stays handed on, and one of the slots handed on becomes so. -/
theorem State.refreshes_handed (l : List SlotNo) (s : State) (i : SlotNo) (h : i ∈ l ∨ (s.slot i).Handed) : ((l.foldl State.refresh s).slot i).Handed := by
  induction l generalizing s with
  | nil => exact h.resolve_left List.not_mem_nil
  | cons j l ih =>
    refine ih (s.refresh j) ?_
    by_cases e : i = j
    · exact .inr (e ▸ s.refresh_handed j)
    · rw [(s.refresh_spec j).2.2 i e]
      exact h.imp_left fun m => (List.mem_cons.1 m).resolve_left e

/-- Once the conditions of every slot that has changed are handed on, none is left (R132, R163). -/
theorem State.refreshAll_handedOn (s : State) : s.refreshAll.HandedOn := by
  intro i
  refine State.refreshes_handed _ s i ?_
  by_cases h : (s.slot i).Handed
  · exact .inr h
  · left
    have listed := mem_changedFrom (cs := s.slots.toList) (n := 0) (k := i.val) (c := s.slot i) (by simp [State.slot, Vector.get]) h
    rw [Nat.zero_add] at listed
    simpa using listed

theorem State.Alters.refreshAll (h : s.Alters D t) : s.Alters E t.refreshAll := by
  have k : t.Alters D t.refreshAll := .foldl (fun s i => s.refresh_alters i) _ t
  obtain ⟨engine, serving, marked, -⟩ := h.trans k
  exact ⟨engine, serving, marked, fun i _ _ => t.refreshAll_handedOn i⟩

/-! ### The end of an event (R165, R166) -/

theorem State.NoticesOk.marked (h : s.NoticesOk) : s.Marked := ⟨h.ready, h.threshold, h.classes, h.levels⟩

theorem State.Marked.noticesOk (h : s.Marked) (handed : s.HandedOn)
    (sent : s.ctl.engine = .running → ∀ l ∈ s.notice.levels, l ≤ s.notice.serving) : s.NoticesOk :=
  ⟨handed, h.ready, h.threshold, h.classes, h.levels, sent⟩

/-- The laws of the notices where the contexts, the notices, the classes and the engine state stand. -/
theorem State.NoticesOk.of_same (h : s.NoticesOk) (slots : t.slots = s.slots := by rfl) (notice : t.notice = s.notice := by rfl)
    (classes : t.classes = s.classes := by rfl) (engine : t.ctl.engine = .running → s.ctl.engine = .running := by exact id) : t.NoticesOk := by
  have slot (i : SlotNo) : t.slot i = s.slot i := by rw [State.slot, State.slot, slots]
  refine ⟨fun i => ?_, fun i => ?_, fun i => ?_, ?_, ?_, fun running => ?_⟩
  · rw [slot]; exact h.handed_on i
  · rw [slot, notice]; exact h.ready i
  · rw [slot]; exact h.threshold i
  · rw [classes]; exact h.classes
  · rw [notice]; exact h.levels
  · rw [notice]; exact h.sent (engine running)

/-- After the test for a due message no pending level is above the Serving Level in RUNNING (R166). -/
theorem State.Marked.testDue (h : s.Marked) (handed : s.HandedOn) : s.testDue.NoticesOk := by
  unfold State.testDue
  split
  · rename_i empty
    exact h.noticesOk handed fun _ l m => by rw [empty] at m; cases m
  · rename_i l ls levels
    obtain ⟨falls, positive⟩ := h.levels
    rw [levels] at falls positive
    obtain ⟨below, rest⟩ := List.pairwise_cons.1 falls
    split
    · have posted (w : List HostWrite) : (s.post w).slots = s.slots ∧ (s.post w).classes = s.classes ∧ (s.post w).notice = s.notice :=
        ⟨s.post_slots w, s.post_classes w, s.post_notice w⟩
      dsimp only
      generalize hu : s.post [.notice s.header.noticeAddress s.header.noticeWord] = u
      obtain ⟨slots, classes, notice⟩ := hu ▸ posted _
      have slot (i : SlotNo) : u.slot i = s.slot i := by rw [State.slot, State.slot, slots]
      refine ⟨fun i => ?_, fun i => ?_, fun i => ?_, ?_, ⟨rest, fun m => positive (List.mem_cons_of_mem _ m)⟩, fun _ k m => (below k m).le⟩
      · exact (slot i).symm ▸ handed i
      · rw [notice]; exact (slot i).symm ▸ h.ready i
      · exact (slot i).symm ▸ h.threshold i
      · exact classes.symm ▸ h.classes
    · rename_i silent
      refine h.noticesOk handed fun running k m => ?_
      have top : l ≤ s.notice.serving := not_lt.1 fun above => silent ⟨running, above⟩
      rw [levels] at m
      exact (List.mem_cons.1 m).elim (fun e => e ▸ top) fun m => (below k m).le.trans top

/-- Work that leaves no condition to be handed on leaves every one handed on, where every one was. -/
theorem State.Alters.handedOn (h : s.Alters ∅ t) (handed : s.HandedOn) : t.HandedOn := fun i => h.handed i (Set.notMem_empty i) (handed i)

/-- Such work keeps the laws of the notices where it adds no level, -/
theorem State.Alters.still (h : s.Alters ∅ t) (levels : t.notice.levels = s.notice.levels) (ok : s.NoticesOk) : t.NoticesOk :=
  (h.marked ok.marked).noticesOk (h.handedOn ok.handed_on) fun running => by
    rw [levels, h.serving]; exact ok.sent (h.engine ▸ running)

/-- and otherwise with the test for a due message after it (R166). -/
theorem State.Alters.notify (h : s.Alters ∅ t) (ok : s.NoticesOk) : (s.notify t).NoticesOk := by
  unfold State.notify
  split
  · rename_i same
    exact h.still same ok
  · exact (h.marked ok.marked).testDue (h.handedOn ok.handed_on)

theorem State.Alters.endEvent (h : s.Alters ∅ t) (ok : s.NoticesOk) : (s.endEvent t).NoticesOk := (h.notify ok).of_same

end Sys2Proof.Machine

namespace Sys2Proof.Machine

set_option Elab.async false

variable (s : State) {D : Set SlotNo}

/-! ### What is left to be handed on: the slots (chapter 2) -/

theorem State.writeConsumed_alters (i : SlotNo) : s.Alters D (s.writeConsumed i) :=
  .ite (fun _ => (s.editSlot_stands .of_same).trans (State.post_alters _ _)) fun _ => .refl s D

/-- A change of state other than to an open one may change the conditions of its slot (R132). -/
theorem State.setSlotState_alters {i : SlotNo} {st : SlotState} (m : i ∈ D) (held : st ≠ .free → (s.slot i).state ≠ .free) : s.Alters D (s.setSlotState i st) :=
  ((s.editSlot_alters m ⟨rfl, rfl, held⟩).trans (State.writeConsumed_alters _ i)).trans (State.post_alters _ _)

/-- What R26 decides for an open slot changes none of its conditions. -/
theorem State.decideState_alters (i : SlotNo) : s.Alters D (s.decideState i) :=
  .ite (fun h => ((s.editSlot_stands (.of_open h.1 (Slot.decided_isOpen _))).trans (State.writeConsumed_alters _ i)).trans (State.post_alters _ _))
    fun _ => .refl s D

theorem State.tryClose_alters {i : SlotNo} (m : i ∈ D) : s.Alters D (s.tryClose i) := by
  refine .ite (fun h => (s.post_alters _).trans (State.setSlotState_alters _ m fun _ => ?_)) fun _ => .refl s D
  rw [State.slot_post, h.1]
  exact SlotState.noConfusion

theorem State.trySettle_alters {i : SlotNo} (m : i ∈ D) : s.Alters D (s.trySettle i) :=
  .ite (fun h => (s.setSlotState_alters m fun _ => SlotState.ne_free_of_isOpen h.1).trans (State.tryClose_alters _ m)) fun _ => .refl s D

theorem State.tryAborted_alters {i : SlotNo} (m : i ∈ D) : s.Alters D (s.tryAborted i) := by
  refine .ite (fun h => (s.post_alters _).trans (State.setSlotState_alters _ m fun _ => ?_)) fun _ => .refl s D
  rw [State.slot_post, h.1]
  exact SlotState.noConfusion

theorem State.dropInflight_alters {i : SlotNo} (m : i ∈ D) : s.Alters D (s.dropInflight i) :=
  (s.editSlot_stands .of_same).trans (State.tryAborted_alters _ m)

theorem State.joinRun_alters (i : SlotNo) : s.Alters D (s.joinRun i) := .ite (fun _ => .of_same) fun _ => .refl s D

theorem SlotState.ne_free_of_isLive {st : SlotState} (h : st.isLive = true) : st ≠ .free := by rintro rfl; cases h

theorem State.enterAborting_alters {i : SlotNo} (m : i ∈ D) (r : AbortReason) : s.Alters D (s.enterAborting i r) := by
  by_cases live : (s.slot i).state.isLive = true
  · have k := s.enterAborting_aborts i r live
    obtain ⟨-, -, self, notice, -, -⟩ := s.enterAborting_shows i r live
    obtain ⟨-, ctl, -, -, classes, -⟩ := k.same
    exact .of_slot ⟨by rw [self]; rfl, by rw [self]; rfl, fun _ => SlotState.ne_free_of_isLive live⟩ (.inl m) k.others (by rw [ctl]) notice classes
  · unfold State.enterAborting
    rw [if_neg live]
    exact .refl s D

/-- An abort as an event of its own hands on what it changes (R30, R132, R166). -/
theorem State.abortStream_noticesOk (i : SlotNo) (r : AbortReason) (ok : s.NoticesOk) : (s.abortStream i r).NoticesOk :=
  (State.Alters.refresh (s.enterAborting_alters (Set.mem_singleton i) r)).endEvent ok

/-- So does what a command begins with: each expiry that is due (R42). -/
theorem State.settled_noticesOk (ok : s.NoticesOk) : s.settled.NoticesOk := by
  unfold State.settled
  generalize s.dueSlots = l
  suffices h : (l.foldl (fun s i => s.abortStream i .idle) s).NoticesOk from h.of_same
  induction l generalizing s with
  | nil => exact ok
  | cons i l ih => exact ih _ (s.abortStream_noticesOk i .idle ok)

theorem State.editRecord_alters (r : Nat) (f : PoolRecord → PoolRecord) : s.Alters D (s.editRecord r f) := by
  obtain ⟨pool, e⟩ := s.editRecord_eq r f
  rw [e]
  exact .of_same

theorem State.issueWithdraw_alters (r : Nat) : s.Alters D (s.issueWithdraw r) := (s.editRecord_alters r _).trans .of_same

theorem State.dropWaiter_alters (r : Nat) (w : Waiter) : s.Alters D (s.dropWaiter r w) := (s.editRecord_alters r _).trans .of_same

theorem State.resolveChunk_alters (i : SlotNo) (o : Nat) (v : Verdict) (n : Nat) (c : Cause) : s.Alters D (s.resolveChunk i o v n c) :=
  (s.editSlot_stands .of_same).trans (State.decideState_alters _ i)

theorem State.discardWaiter_alters {w : Waiter} (m : w.slot ∈ D) (r : Nat) : s.Alters D (s.discardWaiter r w) :=
  (s.dropWaiter_alters r w).trans (State.dropInflight_alters _ m)

/-! ### What is left to be handed on: answers and turns -/

theorem State.answerCell_alters (i : SlotNo) (n : CellNo) (tag : Tag) (st : CellStatus) : s.Alters D (s.answerCell i n tag st) :=
  (s.editSlot_stands .of_same).trans (State.post_alters _ _)

theorem State.answer_alters (c : ReqNo) (st : Status) (r : Option ReqResult) : s.Alters D (s.answer c st r) := by
  unfold State.answer
  refine .ite (fun _ => ?_) fun _ => .refl s D
  split
  · exact .trans (.trans .of_same (State.post_alters _ _)) (State.joinLevel_alters _ _)
  · exact .refl s D

theorem State.endTurn_alters (n : LaneNo) : s.Alters D (s.endTurn n) := by
  unfold State.endTurn
  split
  · exact .refl s D
  · exact .trans .of_same (State.joinRun_alters _ _)

/-! ### What is left to be handed on: the chunker, the Intake Unit and the lanes (chapters 1 and 3)

A byte taken changes no condition of its slot: R132 reads neither the Consumed Offset nor the pending chunks. -/

theorem State.cutChunk_alters (i : SlotNo) : s.Alters D (s.cutChunk i) :=
  .trans (t := { s with lookups := s.lookups ++ [lookupOf i (s.slot i).openChunk] }) .of_same
    ((State.editSlot_stands _ .of_same).trans (State.decideState_alters _ i))

theorem State.markFinished_alters (i : SlotNo) : s.Alters D (s.markFinished i) := .ite (fun _ => s.editSlot_stands .of_same) fun _ => .refl s D

theorem State.endStream_alters (i : SlotNo) : s.Alters D (s.endStream i) :=
  .trans (.ite (fun _ => s.cutChunk_alters i) fun _ => .refl s D) (State.markFinished_alters _ i)

theorem State.chunkByte_alters (i : SlotNo) (b : Byte) : s.Alters D (s.chunkByte i b) :=
  (s.editSlot_stands .of_same).trans (.trans (.ite (fun _ => State.cutChunk_alters _ i) fun _ => .refl _ D) (State.endStream_alters _ i))

theorem State.answerLeaving_alters (i : SlotNo) (gs : List Segment) : s.Alters D (s.answerLeaving i gs) := by
  induction gs generalizing s with
  | nil => exact .refl s D
  | cons g gs ih => exact ((s.editSlot_stands .of_same).trans (State.answerCell_alters _ i _ _ _)).trans (ih _)

theorem State.leaveSegments_alters (i : SlotNo) : s.Alters D (s.leaveSegments i) :=
  (s.editSlot_stands .of_same).trans (State.answerLeaving_alters _ i _)

theorem State.takeByte_alters (n : LaneNo) (t : Turn) (cell : CellNo) (b : Byte) : s.Alters D (s.takeByte n t cell b) := by
  unfold State.takeByte
  have chunked := s.chunkByte_alters (D := D) t.slot b
  dsimp only
  generalize s.chunkByte t.slot b = u at chunked ⊢
  have fed : u.Alters D (u.editSlot t.slot fun c => { c with feed := c.feed.map fun g => if g.cell = cell then { g with count := g.count + 1 } else g }) :=
    u.editSlot_stands .of_same
  generalize u.editSlot t.slot _ = v at fed
  exact (chunked.trans (fed.trans (v.leaveSegments_alters _))).trans .of_same

theorem State.takeBytes_alters (n : LaneNo) (cell : CellNo) (bs : List Byte) : s.Alters D (s.takeBytes n cell bs) := by
  induction bs generalizing s with
  | nil => exact .refl s D
  | cons b bs ih =>
    unfold State.takeBytes
    split
    · exact .refl s D
    · exact .ite (fun _ => (s.takeByte_alters n _ cell b).trans (ih _)) fun _ => .refl s D

theorem State.continueTurn_alters (n : LaneNo) : s.Alters D (s.continueTurn n) := by
  unfold State.continueTurn
  split
  · exact .refl s D
  · rename_i t _
    refine .ite (fun _ => s.endTurn_alters n) fun _ => (s.endStream_alters t.slot).trans ?_
    refine .ite (fun _ => State.endTurn_alters _ n) fun _ => ?_
    split
    · exact .of_same
    · exact State.endTurn_alters _ n

variable {i : SlotNo}

theorem State.joinSegment_alters (m : i ∈ D) (g : Segment) : s.Alters D (s.joinSegment i g) := by
  have joined : s.Alters D (s.editSlot i fun c =>
      { c with feed := joinFeed g c.feed, cells := c.cells.set g.cell { c.cells.get g.cell with queued := some g.tag } }) := s.editSlot_stands .of_same
  exact (joined.trans (State.joinRun_alters _ i)).trans (.ite (fun _ => State.enterAborting_alters _ m _) fun _ => .refl _ D)

theorem State.takeSegment_alters (m : i ∈ D) (g : Segment) : s.Alters D (s.takeSegment i g) := by
  unfold State.takeSegment
  refine .ite (fun _ => s.answerCell_alters i _ _ _) fun _ => .ite (fun _ => s.answerCell_alters i _ _ _) fun _ => .ite (fun _ => ?_) fun _ => ?_
  · exact (s.editSlot_stands .of_same).trans (State.answerCell_alters _ i _ _ _)
  · split
    · exact .ite (fun _ => s.enterAborting_alters m _) fun _ => s.joinSegment_alters m g
    · exact s.joinSegment_alters m g

theorem State.takeCells_alters (m : i ∈ D) (half : List Byte) : s.Alters D (s.takeCells i half) :=
  .foldl (fun s _ => .ite (fun _ => .refl s D) fun _ => s.takeSegment_alters m _) _ s

/-! ### What is left to be handed on: recipes, host halves and requests (chapters 2, 6 and 8) -/

/-- Handing its conditions on at its end, an emission leaves none (R119). -/
theorem State.emit_alters (p : PendingChunk) (v : Verdict) (n : Nat) (k : Cause) : s.Alters ∅ (s.emit i p v n k) := by
  unfold State.emit
  dsimp only
  refine State.Alters.refresh ?_
  refine .trans (.trans (.trans (.trans (.trans (s.post_alters _) (State.editSlot_alters _ (Set.mem_singleton i) ⟨rfl, rfl, id⟩)) (State.post_alters _ _))
    (State.decideState_alters _ i)) (State.joinRun_alters _ i)) (State.trySettle_alters _ (Set.mem_singleton i))

theorem State.issueFirm_alters (i : SlotNo) (r : Nat) : s.Alters D (s.issueFirm i r) := by
  have edited : s.Alters D (s.editSlot i fun c => { c.dropProv r with inflight := c.inflight + 1 }) := s.editSlot_stands .of_same
  exact (edited.trans (State.editRecord_alters _ r fun p => { p with disp := .firming })).trans .of_same

theorem State.holdStored_alters (m : i ∈ D) (read : Nat) : s.Alters D (s.holdStored i read) := by
  unfold State.holdStored
  refine .ite (fun _ => .refl s D) fun _ => ?_
  dsimp only
  generalize holdValue read (s.slot i).stored (s.slot i).written = t
  have stored : s.Alters D (s.editSlot i fun c => { c with stored := t }) := s.editSlot_stands .of_same
  generalize s.editSlot i (fun c => { c with stored := t }) = u at stored
  have firmed := stored.trans (.foldl (fun (s : State) r => s.issueFirm_alters i r) (u.firmDue i t) u)
  generalize (u.firmDue i t).foldl (State.issueFirm i) u = v at firmed
  have safe : v.Alters D (v.editSlot i fun c => { c with safe := c.safeAt t, extents := c.extents.dropWhile fun e => decide (e.ordinal < t) }) :=
    v.editSlot_alters m ⟨rfl, rfl, id⟩
  exact ((firmed.trans safe).trans (State.post_alters _ _)).trans (State.tryClose_alters _ m)

theorem State.holdTaken_alters (m : i ∈ D) (read : Nat) : s.Alters D (s.holdTaken i read) :=
  .ite (fun _ => .refl s D) fun _ => (s.editSlot_alters m ⟨rfl, rfl, id⟩).trans (State.decideState_alters _ i)

/-- A host half changes the conditions of its slot, and hands them on at its end (R40, R132). -/
theorem State.takeHostHalf_alters (half : List Byte) : s.Alters ∅ (s.takeHostHalf i half) := by
  have m := Set.mem_singleton i
  unfold State.takeHostHalf
  dsimp only
  refine State.Alters.refresh ?_
  refine State.Alters.trans ?_ (.ite (fun _ => State.takeCells_alters _ m half) fun _ => .refl _ _)
  refine .trans (.trans (.trans ?_ (State.holdStored_alters _ m _)) (State.holdTaken_alters _ m _)) (State.editSlot_alters _ m ⟨rfl, rfl, id⟩)
  refine State.Alters.trans (.ite (fun _ => .refl s _) fun _ => ?_) (.ite (fun _ => State.editSlot_stands _ .of_same) fun _ => .refl _ _)
  exact (s.editSlot_stands .of_same).trans (State.post_alters _ _)

theorem State.closeStream_alters (f : Nat) : s.Alters ∅ (s.closeStream i f) := by
  unfold State.closeStream
  refine State.Alters.trans (State.Alters.refresh ?_) (State.joinRun_alters _ i)
  exact (((s.editSlot_stands .of_same).trans (State.post_alters _ _)).trans (State.markFinished_alters _ i)).trans
    (State.trySettle_alters _ (Set.mem_singleton i))

/-- A FREE slot has no condition, so the marks a RELEASE writes are those due (R39, R132, R163). -/
theorem State.releaseSlot_alters : s.Alters ∅ (s.releaseSlot i) := by
  rw [s.releaseSlot_eq]
  obtain ⟨rest, self, others, -⟩ := s.releasedHalf_spec i
  have released : s.Alters {i} (s.releasedHalf i) :=
    .of_slotAndPort rest (by rw [self]; exact ⟨rfl, rfl, fun h => absurd rfl h⟩) (.inl (Set.mem_singleton i)) others
  have off : Marks.off = ((s.releasedHalf i).slot i).marksDue := by
    rw [self]
    simp [Slot.marksDue, Slot.released, Slot.recipeTrue, Slot.watchTrue, Slot.stateTrue, Marks.off]
  obtain ⟨engine, serving, marked, handed⟩ := released.trans (State.writeMarks_alters _ (.inr off))
  refine ⟨engine, serving, marked, fun j _ => ?_⟩
  by_cases e : j = i
  · intro _
    have written : ((s.releasedHalf i).writeMarks i .off).slot i = { (s.releasedHalf i).slot i with marks := .off } := by
      rw [((s.releasedHalf i).writeMarks_spec i .off).1]
      exact get_set_self _ _ _
    rw [e, written]
    exact off
  · exact handed j e

/-- An opened stream has no condition yet, its Recipe Threshold being 1 or more; and neither had the FREE slot (R13, R35, R132). -/
theorem State.openSlot_alters {cls : ChunkClass} (start addr size : Nat) (half : List Byte) (free : (s.slot i).state = .free) (valid : 1 ≤ cls.recipeThreshold)
    (handed : s.HandedOn) : s.Alters ∅ (s.openSlot i (.opened cls start addr size half)) := by
  have none : (s.slot i).marks = .off := by
    rw [handed i]
    simp [Slot.marksDue, Slot.recipeTrue, Slot.watchTrue, Slot.stateTrue, Marks.off, free]
  have due : (Slot.opened cls start addr size half).Handed := by
    simp [Slot.Handed, Slot.marksDue, Slot.opened, Slot.recipeTrue, Slot.watchTrue, Slot.stateTrue, Marks.off, Nat.ne_of_gt valid]
  refine State.Alters.trans ?_ (State.post_alters _ _)
  refine ⟨rfl, rfl, fun k => ⟨fun j => ?_, fun j h => ?_, k.classes, k.levels⟩, fun j _ h => ?_⟩
  all_goals by_cases e : j = i
  · rw [e, State.slot_setSlot_self]
    exact (k.ready i).trans (by rw [none]; rfl)
  · rw [State.slot_setSlot_of_ne _ _ _ _ e]; exact k.ready j
  · rw [e, State.slot_setSlot_self]; exact valid
  · rw [State.slot_setSlot_of_ne _ _ _ _ e] at h ⊢; exact k.threshold j h
  · rw [e, State.slot_setSlot_self]; exact due
  · rw [State.slot_setSlot_of_ne _ _ _ _ e]; exact h

end Sys2Proof.Machine

namespace Sys2Proof.Machine

set_option Elab.async false

variable (s : State)

/-! ### What is left to be handed on: the Index Unit and the Provisional Pool (chapters 4, 5 and 7)

An operation may change the conditions of any slot: they are handed on when it has been carried out, all of them (R132). -/

theorem State.dropInflight_alters_any (i : SlotNo) : s.Alters .univ (s.dropInflight i) := s.dropInflight_alters (Set.mem_univ i)

theorem State.discardWaiter_alters_any (r : Nat) (w : Waiter) : s.Alters .univ (s.discardWaiter r w) := s.discardWaiter_alters (Set.mem_univ w.slot) r

theorem State.setError_alters : s.Alters .univ s.setError := .ite (fun _ => .refl s _) fun _ => .trans .of_same (State.joinLevel_alters _ _)

theorem State.resolveWaiter_alters (r : Nat) (w : Waiter) (v : Verdict) (n : Nat) (c : Cause) : s.Alters .univ (s.resolveWaiter r w v n c) :=
  ((s.dropWaiter_alters r w).trans (.ite (fun _ => State.resolveChunk_alters _ _ _ _ _ _) fun _ => .refl _ _)).trans (State.dropInflight_alters_any _ _)

theorem State.allocate_alters : s.Alters .univ s.allocate.2 := by
  rw [s.allocate_spec]
  exact .of_same

theorem State.waiterExhausted_alters (r : Nat) (w : Waiter) : s.Alters .univ (s.waiterExhausted r w) :=
  (s.enterAborting_alters (Set.mem_univ _) _).trans (State.discardWaiter_alters_any _ _ _)

theorem State.lossGive_alters (r : Nat) (w : Waiter) (a : Alloc) : s.Alters .univ (s.lossGive r w a) := by
  cases a with
  | number n => exact .ite (fun _ => s.resolveWaiter_alters _ _ _ _ _) fun _ => s.discardWaiter_alters_any _ _
  | exhausted => exact s.waiterExhausted_alters r w
  | wait => exact .refl s _

theorem State.lossWaiters_alters (r : Nat) (ws : List Waiter) : s.Alters .univ (s.lossWaiters r ws).1 := by
  induction ws generalizing s with
  | nil => exact .refl s _
  | cons w ws ih =>
    unfold State.lossWaiters
    have h := s.allocate_alters
    split
    · rename_i e; rw [e] at h; exact h
    · rename_i e; rw [e] at h; exact (h.trans (State.lossGive_alters _ _ _ _)).trans (ih _)

theorem State.discardAborting_alters (r : Nat) : s.Alters .univ (s.discardAborting r) :=
  .foldl (fun s w => .ite (fun _ => s.discardWaiter_alters_any r w) fun _ => .refl s _) _ s

theorem State.loseRecord_alters (r : Nat) (p : PoolRecord) : s.Alters .univ (s.loseRecord r p) := by
  have lost (t : State) : t.Alters .univ (t.setRecord r { p with disp := .lost }) := .of_same
  exact .trans (.ite (fun _ => s.editSlot_stands .of_same) fun _ => .refl s _) (lost _)

theorem State.endLoss_alters (r : Nat) (b : Bool) : s.Alters .univ (s.endLoss r b) := .ite (fun _ => .of_same) fun _ => .refl s _

theorem State.destroyWay_alters (b : Nat) (w : WayNo) : s.Alters .univ (s.destroyWay b w) := by
  unfold State.destroyWay
  have h : s.Alters .univ ((s.emptyWay b w).editStats fun t => { t with uncorrected := sat32 (t.uncorrected + 1) }).setError :=
    .trans .of_same (State.setError_alters _)
  exact .ite (fun _ => h.trans .of_same) fun _ => h

theorem State.checkWays_alters (b : Nat) (ws : List (WayNo × Ecc)) : s.Alters .univ (s.checkWays b ws).1 := by
  induction ws generalizing s with
  | nil => exact .refl s _
  | cons a ws ih =>
    obtain ⟨w, e⟩ := a
    unfold State.checkWays
    cases e with
    | clean => exact ih s
    | correctable => exact .trans .of_same (ih _)
    | uncorrectable =>
      refine (s.destroyWay_alters b w).trans ?_
      dsimp only
      split
      · rename_i r p _ _
        refine ((State.loseRecord_alters _ r p).trans (State.discardAborting_alters _ r)).trans ?_
        have l := State.lossWaiters_alters (((s.destroyWay b w).loseRecord r p).discardAborting r) r
          ((((s.destroyWay b w).loseRecord r p).discardAborting r).waitersOf r)
        split
        · rename_i e; rw [e] at l; exact (l.trans (State.endLoss_alters _ _ _)).trans (ih _)
        · rename_i e; rw [e] at l; exact l
      · exact ih _

/-! ### LOOKUP_INSERT (R72 to R75, R94, R95, R99) -/

theorem State.takeResolved_alters (l : Lookup) (v : Verdict) (n : Nat) (c : Cause) : s.Alters .univ (s.takeResolved l v n c) :=
  .trans (.ite (fun _ => s.resolveChunk_alters _ _ _ _ _) fun _ => .refl s _) (State.dropInflight_alters_any _ _)

theorem State.takeOutcome_alters (l : Lookup) (o : LookupOutcome) : s.Alters .univ (s.takeOutcome l o) := by
  cases o with
  | dup n => exact s.takeResolved_alters _ _ _ _
  | conflict n => exact s.takeResolved_alters _ _ _ _
  | unindexed n c => exact s.takeResolved_alters _ _ _ _
  | new n r =>
    refine State.Alters.trans (.ite (fun _ => ?_) fun _ => ?_) (State.takeResolved_alters _ _ _ _ _)
    · exact s.editSlot_stands .of_same
    · exact (s.editSlot_stands .of_same).trans (State.issueWithdraw_alters _ r)
  | held r =>
    exact .ite (fun _ => (s.editRecord_alters r _).trans ((State.editSlot_stands _ .of_same).trans (State.decideState_alters _ _)))
      fun _ => s.dropInflight_alters_any _
  | numbers => exact (s.enterAborting_alters (Set.mem_univ _) _).trans (State.dropInflight_alters_any _ _)

theorem State.endLookup_alters (l : Lookup) (o : LookupOutcome) : s.Alters .univ (s.endLookup l o) := by
  unfold State.endLookup
  refine State.Alters.trans (t := s.editStats o.count) .of_same ?_
  dsimp only
  split
  · exact (State.setError_alters _).trans (State.takeOutcome_alters _ _ _)
  all_goals exact State.takeOutcome_alters _ _ _

theorem State.grant_alters {l : Lookup} {b : Nat} {w : WayNo} {r : Nat} {t : State} (e : s.grant l b w = some (r, t)) : s.Alters .univ t := by
  unfold State.grant at e
  dsimp only at e
  split at e <;> cases e
  exact .trans .of_same (State.editSlot_stands _ .of_same)

theorem State.lookupNumber_alters (l : Lookup) (b : Nat) (u : NumberUse) (a : Alloc) : s.Alters .univ (s.lookupNumber l b u a) := by
  unfold State.lookupNumber
  split
  · exact .refl s _
  · exact s.endLookup_alters _ _
  · split
    · exact s.endLookup_alters _ _
    · exact s.endLookup_alters _ _
    · exact s.endLookup_alters _ _
    · split
      · exact s.endLookup_alters _ _
      · split
        · exact s.endLookup_alters _ _
        · rename_i e
          exact (s.grant_alters e).trans (.trans .of_same (State.endLookup_alters _ _ _))

theorem State.runLookup_alters (l : Lookup) (b : Nat) : s.Alters .univ (s.runLookup l b).1 := by
  unfold State.runLookup
  split
  · exact .trans .of_same (State.endLookup_alters _ _ _)
  · have h := s.allocate_alters
    split
    · rename_i e; rw [e] at h; exact h
    · rename_i e; rw [e] at h; exact h.trans (State.lookupNumber_alters _ _ _ _ _)

/-! ### FIRM, WITHDRAW, SEED, RETIRE and SCAN (R91, R103, R107 to R111, R139, R141) -/

theorem State.endFirm_alters (i : SlotNo) : s.Alters .univ (s.endFirm i) := (s.dropInflight_alters_any i).trans (State.tryClose_alters _ (Set.mem_univ i))

theorem State.resolveAll_alters (r n : Nat) (v : Verdict) (c : Cause) (ws : List Waiter) :
    s.Alters .univ (ws.foldl (fun s w => s.resolveWaiter r w v n c) s) :=
  .foldl (fun s w => s.resolveWaiter_alters r w v n c) ws s

theorem State.runFirm_alters (r : Nat) : s.Alters .univ (s.runFirm r) := by
  unfold State.runFirm
  split
  · exact .refl s _
  · split
    · exact .trans .of_same (State.endFirm_alters _ _)
    · exact .refl s _
    · rename_i p _ _ _ e _ _
      dsimp only
      have written : s.Alters .univ ((s.writeEntry p.bucket p.way { e with state := .firm }).editStats fun t => { t with firms := sat48 (t.firms + 1) }) :=
        .of_same
      generalize (s.writeEntry p.bucket p.way { e with state := .firm }).editStats _ = t at written
      have resolved := written.trans (t.resolveAll_alters r e.number .dup .none p.waiters)
      generalize p.waiters.foldl _ t = u at resolved
      exact resolved.trans (.trans .of_same (State.endFirm_alters _ _))

theorem State.takeover_alters (r : Nat) (p : PoolRecord) (e : Entry) (w : Waiter) (n : Nat) : s.Alters .univ (s.takeover r p e w n) := by
  unfold State.takeover
  have written : s.Alters .univ (s.writeEntry p.bucket p.way { e with state := .provisional w.slot w.ordinal, number := n, lastHit := s.index.copy.epoch }) :=
    .of_same
  generalize s.writeEntry p.bucket p.way _ = t at written
  have passed := written.trans (t.editRecord_alters r fun q => { q with owner := w.slot, ordinal := w.ordinal, disp := .live })
  dsimp only
  generalize t.editRecord r _ = u at passed ⊢
  have listed : u.Alters .univ (u.editSlot w.slot fun c => { c with provList := u.joinProvList r w.ordinal c.provList, provCount := c.provCount + 1 }) :=
    u.editSlot_stands .of_same
  generalize u.editSlot w.slot _ = v at listed ⊢
  have resolved := v.resolveWaiter_alters r w .new n .none
  generalize v.resolveWaiter r w .new n .none = x at resolved ⊢
  have counted : x.Alters .univ (x.editStats fun t => { t with takeovers := sat48 (t.takeovers + 1) }) := .of_same
  generalize x.editStats _ = y at counted ⊢
  exact ((passed.trans listed).trans (resolved.trans counted)).trans (y.resolveAll_alters r n .dup .none _)

theorem State.examine_alters (r : Nat) (w : Waiter) (a : Alloc) : s.Alters .univ (s.examine r w a).2 := by
  unfold State.examine
  split
  · exact .refl s _
  · exact s.waiterExhausted_alters r w
  · dsimp only
    split
    · exact s.discardWaiter_alters_any r w
    · split
      · split
        · exact .refl s _
        · split
          · exact s.resolveWaiter_alters _ _ _ _ _
          · exact s.takeover_alters _ _ _ _ _
      · exact s.resolveWaiter_alters _ _ _ _ _

theorem State.walk_alters (r : Nat) (ws : List Waiter) : s.Alters .univ (s.walk r ws).2 := by
  induction ws generalizing s with
  | nil => exact .refl s _
  | cons w ws ih =>
    unfold State.walk
    have h := s.allocate_alters
    split
    · rename_i e; rw [e] at h; exact h
    · rename_i a t _ e
      rw [e] at h
      have k := State.examine_alters t r w a
      split
      · rename_i f; rw [f] at k; exact h.trans k
      · rename_i f; rw [f] at k; exact (h.trans k).trans (ih _)

theorem State.endUnowned_alters (r : Nat) : s.Alters .univ (s.endUnowned r) := by
  unfold State.endUnowned
  split
  · exact .refl s _
  · exact .of_same

theorem State.endWalk_alters (r : Nat) (x : WalkEnd × State) (h : s.Alters .univ x.2) : s.Alters .univ (State.endWalk r x).1 := by
  obtain ⟨e, t⟩ := x
  cases e with
  | owner => exact State.Alters.trans (t := t) h .of_same
  | noOwner => exact (State.Alters.trans (t := t) h (t.endUnowned_alters r)).trans .of_same
  | halted w => exact h

theorem State.runWithdraw_alters (r : Nat) : s.Alters .univ (s.runWithdraw r).1 := by
  unfold State.runWithdraw
  split
  · exact .refl s _
  · dsimp only
    split
    · exact .of_same
    split
    · exact .refl s _
    · exact s.endWalk_alters r _ ((s.discardAborting_alters r).trans (State.walk_alters _ r _))

/-- A SEED hands on what the check has changed, and answers (R139, R163). -/
theorem State.runSeed_alters (o : SeedOp) (b : Nat) : s.Alters .univ (s.runSeed o b) := by
  unfold State.runSeed
  refine State.Alters.trans (State.Alters.refreshAll (.refl s .univ)) ?_
  generalize s.refreshAll = s
  dsimp only
  split
  · split
    · exact s.answer_alters _ _ _
    · split
      · exact .trans .of_same (State.answer_alters _ _ _ _)
      · exact s.answer_alters _ _ _
  · split
    · exact s.answer_alters _ _ _
    · exact .trans .of_same (State.answer_alters _ _ _ _)

theorem State.runRetire_alters (o : RetireOp) (b : Nat) : s.Alters .univ (s.runRetire o b) := by
  unfold State.runRetire
  refine State.Alters.trans (State.Alters.refreshAll (.refl s .univ)) ?_
  generalize s.refreshAll = s
  dsimp only
  split
  · exact s.answer_alters _ _ _
  · split
    · exact s.answer_alters _ _ _
    · split
      · exact s.answer_alters _ _ _
      · split
        · exact s.answer_alters _ _ _
        · exact .trans .of_same (State.answer_alters _ _ _ _)

theorem State.scanWay_alters (b : Nat) (w : WayNo) : s.Alters .univ (s.scanWay b w) := by
  unfold State.scanWay
  split
  · exact .refl s _
  · split <;> exact .of_same

theorem State.runScan_alters (b : Nat) : s.Alters .univ (s.runScan b) := by
  unfold State.runScan
  have h := State.Alters.foldl (fun s w => s.scanWay_alters b w) (List.finRange 16) s
  dsimp only
  generalize List.foldl (fun s w => s.scanWay b w) s (List.finRange 16) = t at h
  exact h.trans .of_same

/-! ### Running and going on (R70, R78, R111) -/

theorem State.runBody_alters (op : Op) : s.Alters .univ (s.runBody op).1 := by
  unfold State.runBody
  split
  · exact s.runLookup_alters _ _
  · exact s.runFirm_alters _
  · exact s.runWithdraw_alters _
  · exact s.runSeed_alters _ _
  · exact s.runRetire_alters _ _
  · exact s.runScan_alters _

theorem State.runFrom_alters (op : Op) (ws : List (WayNo × Ecc)) : s.Alters .univ (s.runFrom op ws).1 := by
  unfold State.runFrom
  have h := s.checkWays_alters op.bucket ws
  split
  · rename_i e; rw [e] at h; exact h.trans (State.runBody_alters _ op)
  · rename_i e; rw [e] at h; exact h

theorem State.settleOp_alters (k : OpKey) (x : RunEnd) (h : s.Alters .univ x.1) : s.Alters .univ (State.settleOp k x) := by
  obtain ⟨t, e⟩ := x
  cases e <;> exact State.Alters.trans (t := t) h .of_same

theorem State.goOn_alters (op : Op) (a : Alloc) : s.Alters .univ (s.goOn op a).1 := by
  unfold State.goOn
  split
  · exact .refl s _
  · split
    · exact .refl s _
    · split
      · split
        · exact s.lookupNumber_alters _ _ _ _
        all_goals exact .refl s _
      · rename_i r w _
        split
        · have k := s.examine_alters r w a
          split
          · rename_i f; rw [f] at k; exact s.endWalk_alters r _ k
          · rename_i f; rw [f] at k; exact s.endWalk_alters r _ (k.trans (State.walk_alters _ r _))
        · exact s.endWalk_alters r _ (s.walk_alters r _)
      · rename_i r live w rest _
        dsimp only
        have given : s.Alters .univ (if s.stillWaits r w then s.lossGive r w a else s) := .ite (fun _ => s.lossGive_alters r w a) fun _ => .refl s _
        generalize (if s.stillWaits r w then s.lossGive r w a else s) = t at given
        have k := State.lossWaiters_alters t r (t.waitersOf r)
        split
        · rename_i f; rw [f] at k; exact ((given.trans k).trans (State.endLoss_alters _ _ _)).trans (State.runFrom_alters _ _ _)
        · rename_i f; rw [f] at k; exact given.trans k

theorem State.allocateAll_alters (ks : List OpKey) : s.Alters .univ (s.allocateAll ks).2 := by
  induction ks generalizing s with
  | nil => exact .refl s _
  | cons k ks ih => exact s.allocate_alters.trans (ih _)

theorem State.resume_alters (k : OpKey) (a : Alloc) : s.Alters .univ (s.resume k a) := by
  unfold State.resume
  split
  · exact .refl s _
  · exact State.settleOp_alters s _ _ (s.goOn_alters _ _)

/-- An operation that is carried out hands on all the conditions it has changed (R132, R163). -/
theorem State.carryOut_alters (op : Op) (ecc : Vector Ecc 16) : s.Alters ∅ (s.carryOut op ecc) :=
  State.Alters.refreshAll (State.settleOp_alters s _ _ (s.runFrom_alters _ _))

/-- So do the operations that a reservation lets go on (R78; log entry 37). -/
theorem State.resumeAll_alters : s.Alters ∅ s.resumeAll := by
  unfold State.resumeAll
  dsimp only
  refine State.Alters.refreshAll (D := .univ) (State.Alters.trans ?_ (.foldl (fun (s : State) (p : OpKey × Alloc) => s.resume_alters p.1 p.2) _ _))
  exact .trans .of_same (State.allocateAll_alters _ _)

end Sys2Proof.Machine

namespace Sys2Proof.Machine

set_option Elab.async false

/-! ### What a command keeps of the counters and the notices

An event works on the contexts and hands on what it has changed; at its end the test for a due message is made.
`State.Works` is the first, `State.Minds` the event as a whole, and `State.Lasts` a command, an OPEN among them, which gives a FREE slot the counters of a new stream. -/

/-- The work of an event: it keeps the laws of each slot's counters, and leaves no condition to be handed on. -/
structure State.Works (s t : State) : Prop where
  counts : ∀ i, (s.slot i).Keeps (t.slot i)
  alters : s.Alters ∅ t

/-- What an event keeps: the laws of each slot's counters, lowering neither Safe Offset nor Recipe Written, and the laws of the notices. -/
structure State.Minds (s t : State) : Prop where
  counts : ∀ i, (s.slot i).Keeps (t.slot i)
  notices : s.NoticesOk → t.NoticesOk

/-- What a command keeps, of the slots that are not FREE before it and of the notices. -/
structure State.Lasts (s t : State) : Prop where
  counts : s.CountsOk → t.CountsOk
  rises : s.CountsOk → ∀ i, (s.slot i).state ≠ .free → (s.slot i).safe ≤ (t.slot i).safe ∧ (s.slot i).written ≤ (t.slot i).written
  notices : s.NoticesOk → t.NoticesOk

variable {s t u : State}

theorem State.Works.of_keeps (k : s.Keeps t) (h : s.Alters ∅ t) : s.Works t := ⟨k.slots, h⟩

theorem State.Works.trans (h : s.Works t) (k : t.Works u) : s.Works u := ⟨fun i => (h.counts i).trans (k.counts i), h.alters.trans k.alters⟩

/-- A change of blocks of which neither law speaks. -/
theorem State.Works.of_same (slots : t.slots = s.slots := by rfl) (notice : t.notice = s.notice := by rfl) (classes : t.classes = s.classes := by rfl)
    (engine : t.ctl.engine = s.ctl.engine := by rfl) : s.Works t :=
  ⟨fun i => by rw [State.slot, State.slot, slots]; exact .refl _, .of_same engine notice classes slots⟩

theorem State.Works.refl (s : State) : s.Works s := .of_same

/-- A change of every context that no law of the counters or the notices reads. -/
theorem State.Works.of_slots (keeps : ∀ i, (s.slot i).Keeps (t.slot i)) (stands : ∀ i, (s.slot i).Stands (t.slot i))
    (notice : t.notice = s.notice := by rfl) (classes : t.classes = s.classes := by rfl) (engine : t.ctl.engine = s.ctl.engine := by rfl) : s.Works t :=
  ⟨keeps, .of_slots (fun i => (stands i).toAlters) (fun i _ => (stands i).due) engine notice classes⟩

theorem State.Minds.refl (s : State) : s.Minds s := ⟨fun _ => .refl _, id⟩

theorem State.Minds.trans (h : s.Minds t) (k : t.Minds u) : s.Minds u := ⟨fun i => (h.counts i).trans (k.counts i), k.notices ∘ h.notices⟩

/-- A change of blocks of which neither law speaks, or of the engine state to another than RUNNING. -/
theorem State.Minds.of_same (slots : t.slots = s.slots := by rfl) (notice : t.notice = s.notice := by rfl) (classes : t.classes = s.classes := by rfl)
    (engine : t.ctl.engine = .running → s.ctl.engine = .running := by exact id) : s.Minds t :=
  ⟨fun i => by rw [State.slot, State.slot, slots]; exact .refl _, fun ok => ok.of_same slots notice classes engine⟩

/-- The work of an event that adds no level. -/
theorem State.Works.still (h : s.Works t) (levels : t.notice.levels = s.notice.levels := by rfl) : s.Minds t := ⟨h.counts, h.alters.still levels⟩

theorem State.slot_endEvent (s t : State) (i : SlotNo) : (s.endEvent t).slot i = t.slot i := by
  rw [s.endEvent_eq t]
  rfl

/-- An event ends with the test for a due message (R166). -/
theorem State.Works.endEvent (h : s.Works t) : s.Minds (s.endEvent t) := ⟨fun i => by rw [State.slot_endEvent]; exact h.counts i, h.alters.endEvent⟩

theorem State.Minds.lasts (h : s.Minds t) : s.Lasts t :=
  ⟨fun k i => (h.counts i).counts (k i), fun k i _ => ⟨(h.counts i).safe (k i), (h.counts i).written⟩, h.notices⟩

/-- What a command begins with: its due expiries (R42). -/
theorem State.settled_minds (s : State) : s.Minds s.settled := ⟨s.settled_keeps.slots, s.settled_noticesOk⟩

theorem State.Minds.after_settled (h : s.settled.Minds t) : s.Lasts t := (s.settled_minds.trans h).lasts

theorem State.begun_minds (s : State) : s.Minds s.begun := .of_same

theorem State.abortStream_minds (s : State) (i : SlotNo) (r : AbortReason) : s.Minds (s.abortStream i r) :=
  ⟨(s.abortStream_keeps i r).slots, s.abortStream_noticesOk i r⟩

/-! ### The requests of a sweep (chapters 2, 4 and 7) -/

/-- The next request leaves the sweep, and nothing else changes. -/
theorem State.nextRequest_eq {cell : ReqNo} {r : Request} (e : s.nextRequest cell = some (r, t)) : ∃ phase, t = { s with sweep := { s.sweep with flight := phase } } := by
  unfold State.nextRequest at e
  split at e
  · split at e <;> cases e
    exact ⟨_, rfl⟩
  all_goals cases e

theorem State.nextRequest_works {cell : ReqNo} {r : Request} (e : s.nextRequest cell = some (r, t)) : s.Works t := by
  obtain ⟨phase, rfl⟩ := State.nextRequest_eq e
  exact .of_same

theorem State.answer_works (s : State) (cell : ReqNo) (st : Status) (r : Option ReqResult) : s.Works (s.answer cell st r) :=
  .of_keeps (s.answer_keeps cell st r) (s.answer_alters cell st r)

/-- A request that is one event with its answer (R157, R166). -/
theorem State.Minds.answer {v : State} {cell : ReqNo} {r : Request} (e : s.nextRequest cell = some (r, u)) (h : u.Works v) {st : Status} {res : Option ReqResult} :
    s.Minds (s.endEvent (v.answer cell st res)) := ((State.nextRequest_works e).trans (h.trans (v.answer_works cell st res))).endEvent

/-- A request that is not answered at once, and adds no level. -/
theorem State.Minds.request {v : State} {cell : ReqNo} {r : Request} (e : s.nextRequest cell = some (r, u)) (h : u.Works v)
    (levels : v.notice.levels = u.notice.levels := by rfl) : s.Minds v := by
  have taken := State.nextRequest_works e
  obtain ⟨phase, rfl⟩ := State.nextRequest_eq e
  exact (taken.trans h).still levels

/-- A FORMAT sets the fill watch to NORMAL, which raises no condition (R82, R86). -/
theorem State.acceptFormat_works (s : State) (cell : ReqNo) (k n : Nat) (e : BitVec 32) :
    s.Works (s.acceptFormat cell k n e) ∧ (s.acceptFormat cell k n e).notice = s.notice := by
  rw [State.acceptFormat, State.setFill_of_kept 0 (.inr rfl)]
  exact ⟨.of_same, rfl⟩

theorem execFormat_lasts (cell : ReqNo) (e : execFormat cell s = .next t) : s.Lasts t := by
  unfold execFormat at e
  refine State.Minds.after_settled ?_
  generalize s.settled = s at *
  dsimp only at e
  split at e
  · rename_i next
    split at e <;> cases e
    · exact .answer next (.refl _)
    · obtain ⟨accepted, notice⟩ := State.acceptFormat_works _ cell _ _ _
      exact .request next accepted (by rw [notice])
  · cases e

/-- A class that passes the checks of R13 has a Recipe Threshold of 1 or more. -/
theorem ClassRequest.threshold_of_checked {c : ClassRequest} {n : Fin 8} {cls : ChunkClass} (h : c.checked = some (n, cls)) : 1 ≤ cls.recipeThreshold := by
  unfold ClassRequest.checked at h
  split at h
  · cases h
  · split at h
    · split at h <;> cases h
      rename_i ok
      exact ok.2.2.2.2.1.1
    · cases h

/-- A class is replaced by one whose Recipe Threshold is 1 or more (R13). -/
theorem State.setClass_works (s : State) (n : Fin 8) {cls : ChunkClass} (valid : 1 ≤ cls.recipeThreshold) :
    s.Works { s with classes := s.classes.set n (some cls) } := by
  refine ⟨fun _ => .refl _, rfl, rfl, fun k => ⟨k.ready, k.threshold, fun m c h => ?_, k.levels⟩, fun _ _ => id⟩
  by_cases same : m = n
  · subst same
    rw [get_set_self] at h
    cases h
    exact valid
  · rw [get_set_of_ne _ _ same] at h
    exact k.classes m c h

theorem execSetClass_lasts (cell : ReqNo) (e : execSetClass cell s = .next t) : s.Lasts t := by
  unfold execSetClass at e
  refine State.Minds.after_settled ?_
  generalize s.settled = s at *
  dsimp only at e
  split at e
  · rename_i next
    split at e <;> cases e
    · rename_i checked
      exact .answer next (State.setClass_works _ _ (ClassRequest.threshold_of_checked checked))
    · exact .answer next (.refl _)
  · cases e

theorem execClose_lasts (cell : ReqNo) (e : execClose cell s = .next t) : s.Lasts t := by
  unfold execClose at e
  refine State.Minds.after_settled ?_
  generalize s.settled = s at *
  dsimp only at e
  split at e
  · rename_i next
    split at e
    · cases e; exact .answer next (.refl _)
    · split at e
      · cases e; exact .answer next (.refl _)
      · obtain rfl := Host.Outcome.next.inj e
        exact .answer next (.of_keeps (State.closeStream_keeps _ _ _) (State.closeStream_alters _ _))
  · cases e

theorem execAbort_lasts (cell : ReqNo) (e : execAbort cell s = .next t) : s.Lasts t := by
  unfold execAbort at e
  refine State.Minds.after_settled ?_
  generalize s.settled = s at *
  dsimp only at e
  split at e
  · rename_i next
    split at e
    · cases e; exact .answer next (.refl _)
    · split at e <;> cases e
      · exact .answer next (.of_keeps ((State.enterAborting_keeps _ _ _).trans (State.refresh_keeps _ _))
          (State.Alters.refresh (State.enterAborting_alters _ (Set.mem_singleton _) _)))
      · exact .answer next (.refl _)
  · cases e

theorem execRelease_lasts (cell : ReqNo) (e : execRelease cell s = .next t) : s.Lasts t := by
  unfold execRelease at e
  refine State.Minds.after_settled ?_
  generalize s.settled = s at *
  have released (u : State) (i : SlotNo) : u.Works (u.releaseSlot i) := .of_keeps (u.releaseSlot_keeps i) u.releaseSlot_alters
  dsimp only at e
  split at e
  · rename_i next
    split at e
    · cases e; exact .answer next (.refl _)
    · split at e <;> obtain rfl := Host.Outcome.next.inj e
      · exact .answer next (released _ _)
      · exact .answer next (released _ _)
      all_goals exact .answer next (.refl _)
  · cases e

theorem execSeed_lasts (cell : ReqNo) (e : execSeed cell s = .next t) : s.Lasts t := by
  unfold execSeed at e
  refine State.Minds.after_settled ?_
  generalize s.settled = s at *
  dsimp only at e
  split at e
  · rename_i next
    split at e
    · cases e; exact .answer next (.refl _)
    · split at e
      · cases e; exact .answer next (.refl _)
      · split at e <;> cases e
        · exact .answer next (.refl _)
        · exact .request next .of_same
  · cases e

theorem execRetire_lasts (cell : ReqNo) (e : execRetire cell s = .next t) : s.Lasts t := by
  unfold execRetire at e
  refine State.Minds.after_settled ?_
  generalize s.settled = s at *
  dsimp only at e
  split at e
  · rename_i next
    split at e <;> cases e
    · exact .answer next (.refl _)
    · exact .request next .of_same
  · cases e

theorem execSetEpoch_lasts (cell : ReqNo) (e : execSetEpoch cell s = .next t) : s.Lasts t := by
  unfold execSetEpoch at e
  refine State.Minds.after_settled ?_
  generalize s.settled = s at *
  dsimp only at e
  split at e
  · rename_i next
    split at e
    · cases e; exact .answer next (.refl _)
    · split at e <;> cases e
      · exact .answer next (.refl _)
      · exact .request next .of_same
  · cases e

theorem State.post_works (s : State) (ws : List HostWrite) : s.Works (s.post ws) := .of_same (s.post_slots ws) (s.post_notice ws) (s.post_classes ws) (by rw [s.post_ctl])

theorem execSnapshotSlot_lasts (cell : ReqNo) (e : execSnapshotSlot cell s = .next t) : s.Lasts t := by
  unfold execSnapshotSlot at e
  refine State.Minds.after_settled ?_
  generalize s.settled = s at *
  dsimp only at e
  split at e
  · rename_i next
    split at e
    · cases e
    · split at e
      · cases e; exact .answer next (.refl _)
      · split at e <;> cases e
        · exact .answer next (.refl _)
        · exact .answer next (State.post_works _ _)
  · cases e

theorem execSnapshotEngine_lasts (cell : ReqNo) (e : execSnapshotEngine cell s = .next t) : s.Lasts t := by
  unfold execSnapshotEngine at e
  refine State.Minds.after_settled ?_
  generalize s.settled = s at *
  dsimp only at e
  split at e
  · rename_i u next
    split at e <;> cases e
    exact .answer next (.trans (t := { u with index := { u.index with error := false } }) .of_same (State.post_works _ _))
  · cases e

theorem execUnknownRequest_lasts (cell : ReqNo) (e : execUnknownRequest cell s = .next t) : s.Lasts t := by
  unfold execUnknownRequest at e
  refine State.Minds.after_settled ?_
  generalize s.settled = s at *
  dsimp only at e
  split at e
  · rename_i next
    cases e; exact .answer next (.refl _)
  · cases e

/-! ### OPEN (R34, R35) -/

/-- An abort leaves no slot FREE that was not (R30). -/
theorem State.abortStream_held (s : State) (i : SlotNo) (r : AbortReason) {j : SlotNo} (h : (s.slot j).state ≠ .free) : ((s.abortStream i r).slot j).state ≠ .free := by
  by_cases e : j = i
  · subst e
    rw [s.abortStream_slot, ((s.enterAborting j r).refresh_spec j).2.1]
    dsimp only
    by_cases live : (s.slot j).state.isLive = true
    · rw [(s.enterAborting_aborts j r live).state_eq]
      split <;> exact SlotState.noConfusion
    · unfold State.enterAborting
      rw [if_neg live]
      exact h
  · rw [s.abortStream_others i r e]
    exact h

/-- Nor does what a command begins with (R42). -/
theorem State.settled_held (s : State) {j : SlotNo} (h : (s.slot j).state ≠ .free) : (s.settled.slot j).state ≠ .free := by
  unfold State.settled
  rw [State.begun_slot]
  generalize s.dueSlots = l
  induction l generalizing s with
  | nil => exact h
  | cons i l ih => exact ih _ (s.abortStream_held i .idle h)

/-- The class of an OPEN that passes its checks is a valid one (check 3 of R34). -/
theorem State.class_of_checkOpen {slot cls addr size : Nat} {i : SlotNo} {c : ChunkClass} (h : s.checkOpen slot cls addr size = .ok (i, c)) :
    ∃ n, s.classes.get n = some c := by
  unfold State.checkOpen at h
  split at h
  · cases h
  · split at h
    · cases h
    · split at h
      · cases h
      · split at h
        · cases h
        · rename_i named
          split at h <;> cases h
          unfold State.classNamed at named
          split at named
          · exact ⟨_, named⟩
          · cases named

/-- A new stream's counters stand at its Start Offset and at 0 (R24, R35). -/
theorem Slot.opened_countsOk (cls : ChunkClass) (start addr size : Nat) (half : List Byte) : (Slot.opened cls start addr size half).CountsOk := by
  constructor <;> simp [Slot.opened, Slot.stops, Chunker.fresh]

theorem State.openSlot_self (s : State) (i : SlotNo) (c : Slot) : (s.openSlot i c).slot i = c := (State.slot_post _ _ i).trans (s.slot_setSlot_self i c)

theorem State.openSlot_others (s : State) (i : SlotNo) (c : Slot) {j : SlotNo} (e : j ≠ i) : (s.openSlot i c).slot j = s.slot j :=
  (State.slot_post _ _ j).trans (s.slot_setSlot_of_ne i j c e)

/-- A FREE slot opened and the OPEN answered: the slot has the counters of a new stream, and every other keeps its own (R34, R35). -/
theorem State.Lasts.of_open {b : State} {i : SlotNo} {c : Slot} {cell : ReqNo} (begins : s.Minds b)
    (held : ∀ j, (s.slot j).state ≠ .free → (b.slot j).state ≠ .free) (taken : b.Works u) (free : (b.slot i).state = .free) (counts : c.CountsOk)
    (opened : b.NoticesOk → u.Alters ∅ (u.openSlot i c)) : s.Lasts (b.endEvent ((u.openSlot i c).answer cell .done none)) := by
  have answers := (u.openSlot i c).answer_works cell .done none
  have kept {j : SlotNo} (ne : j ≠ i) : (s.slot j).Keeps ((b.endEvent ((u.openSlot i c).answer cell .done none)).slot j) := by
    have others := answers.counts j
    rw [u.openSlot_others i c ne] at others
    rw [State.slot_endEvent]
    exact ((begins.counts j).trans (taken.counts j)).trans others
  refine ⟨fun k j => ?_, fun k j busy => ?_, fun ok => ?_⟩
  · by_cases at' : j = i
    · rw [at', State.slot_endEvent]
      exact (answers.counts i).counts (by rw [u.openSlot_self]; exact counts)
    · exact (kept at').counts (k j)
  · have ne : j ≠ i := by rintro rfl; exact held j busy free
    exact ⟨(kept ne).safe (k j), (kept ne).written⟩
  · have ok := begins.notices ok
    exact ((taken.alters.trans (opened ok)).trans answers.alters).endEvent ok

theorem execOpenStream_lasts (cell : ReqNo) (half : List Byte) (e : execOpenStream cell half s = .next t) : s.Lasts t := by
  unfold execOpenStream at e
  have begins := s.settled_minds
  have held (j : SlotNo) := s.settled_held (j := j)
  generalize s.settled = b at *
  dsimp only at e
  split at e
  · rename_i next
    have taken := State.nextRequest_works next
    split at e
    · cases e; exact (begins.trans (.answer next (.refl _))).lasts
    · rename_i i cls check
      split at e <;> cases e
      have free := State.free_of_checkOpen check
      obtain ⟨n, valid⟩ := State.class_of_checkOpen check
      refine .of_open begins held taken free (Slot.opened_countsOk _ _ _ _ _) fun ok => ?_
      exact State.openSlot_alters _ _ _ _ half (by rw [(State.nextRequest_carries next).2]; exact free) (ok.classes n cls valid) (taken.alters.handedOn ok.handed_on)
  · cases e

end Sys2Proof.Machine

namespace Sys2Proof.Machine

set_option Elab.async false

variable {s t u : State}

/-! ### What each command keeps of the counters and the notices: the Sweep Unit and the Timebase (chapter 8) -/

theorem execSlotHostHalfTaken_lasts (i : SlotNo) (post : BitVec 32) (half : List Byte) (e : execSlotHostHalfTaken i post half s = .next t) : s.Lasts t := by
  unfold execSlotHostHalfTaken at e
  refine State.Minds.after_settled ?_
  generalize s.settled = s at *
  dsimp only at e
  split at e
  · rename_i j left _
    have taken : s.Works { s with sweep := { s.sweep with flight := some (.slots left) } } := .of_same
    split at e
    · split at e
      · cases e; exact taken.still
      · split at e <;> cases e
        exact (taken.trans (.of_keeps (State.takeHostHalf_keeps _ i half) (State.takeHostHalf_alters _ half))).endEvent
    · cases e
  all_goals cases e

theorem execRequestTableRead_lasts (table : List (List Byte)) (e : execRequestTableRead table s = .next t) : s.Lasts t := by
  unfold execRequestTableRead at e
  refine State.Minds.after_settled ?_
  generalize s.settled = s at *
  dsimp only at e
  split at e
  · split at e
    · cases e
    · split at e <;> cases e
      exact .of_same
  all_goals cases e

/-- The FILL condition is handed on where the fill watch becomes DECLARED, with its own test for a message (R82, R165, R166). -/
theorem State.setFill_minds (s : State) (f : FillState) (n : Nat) : s.Minds (s.setFill f n) := by
  refine ⟨(s.setFill_keeps f n).slots, fun ok => ?_⟩
  have set : ({ s with index := { s.index with fill := f, fillCount := n } } : State).NoticesOk := ok.of_same
  unfold State.setFill
  dsimp only
  split
  · exact (State.joinLevel_alters _ _).notify set
  · exact set

theorem State.evaluateFill_minds (s : State) : s.Minds s.evaluateFill := by
  unfold State.evaluateFill
  split
  · exact .refl s
  · split <;> split
    · split <;> exact s.setFill_minds _ _
    · exact s.setFill_minds _ _
    · split <;> exact s.setFill_minds _ _
    · exact s.setFill_minds _ _

/-- The Consumed Offset last written is read by neither law. -/
theorem Slot.shown_keeps (c : Slot) (n : Nat) : c.Keeps { c with shown := n } := .of_same

theorem State.writeConsumedAll_works (s : State) : s.Works s.writeConsumedAll := by
  have slot := s.writeConsumedAll_slot
  have notice : s.writeConsumedAll.notice = s.notice := s.post_notice _
  have classes : s.writeConsumedAll.classes = s.classes := s.post_classes _
  have ctl : s.writeConsumedAll.ctl = s.ctl := s.post_ctl _
  exact .of_slots (fun i => by rw [slot]; exact Slot.shown_keeps _ _) (fun i => by rw [slot]; exact .of_same) notice classes (by rw [ctl])

theorem State.closeSweep_minds (s : State) (map : List Byte) : s.Minds (s.closeSweep map) := by
  unfold State.closeSweep
  dsimp only
  split <;> exact .of_same

theorem State.issued_minds (s t : State) : t.Minds (s.issued t) := .of_same

theorem execSweepEnd_lasts (map : List Byte) (e : execSweepEnd map s = .next t) : s.Lasts t := by
  unfold execSweepEnd at e
  refine State.Minds.after_settled ?_
  generalize s.settled = s at *
  dsimp only at e
  split at e
  · cases e
  · split at e <;> cases e
    have written := s.evaluateFill_minds.trans (State.Works.still (State.writeConsumedAll_works _) (by rw [State.writeConsumedAll_eq]; exact congrArg _ (State.post_notice _ _)))
    generalize s.evaluateFill.writeConsumedAll = u at written
    have recorded := written.trans (State.Works.still (u.post_works [.recordLive u.liveFields]) (by rw [u.post_notice]))
    exact (recorded.trans (State.closeSweep_minds _ map)).trans (s.issued_minds _)

theorem execSweepNow_lasts (v : BitVec 32) (map : List Byte) (e : execSweepNow v map s = .next t) : s.Lasts t := by
  unfold execSweepNow at e
  refine State.Minds.after_settled ?_
  generalize s.settled = s at *
  dsimp only at e
  repeat' split at e
  all_goals cases e
  all_goals exact .of_same

theorem execSweepCountdownExpiry_lasts (map : List Byte) (e : execSweepCountdownExpiry map s = .next t) : s.Lasts t := by
  unfold execSweepCountdownExpiry at e
  refine State.Minds.after_settled ?_
  generalize s.settled = s at *
  dsimp only at e
  repeat' split at e
  all_goals cases e
  all_goals exact .of_same

/-- A tick lowers idle countdowns, which neither law reads (R41). -/
theorem State.tick_minds (s : State) : s.Minds s.tick := by
  have slot (i : SlotNo) : ∃ n, s.tick.slot i = { s.slot i with idle := n } := by
    unfold State.tick State.slot
    dsimp only
    split
    · rw [get_mapVector]; exact Slot.tick_eq _
    · exact ⟨_, rfl⟩
  refine State.Works.still (.of_slots (fun i => ?_) fun i => ?_)
  all_goals
    obtain ⟨n, e⟩ := slot i
    rw [e]
    exact .of_same

theorem execTick_lasts (e : execTick s = .next t) : s.Lasts t := by
  unfold execTick at e
  refine State.Minds.after_settled ?_
  generalize s.settled = s at *
  dsimp only at e
  split at e <;> cases e
  exact s.tick_minds

theorem execIdleCountdownExpiry_lasts (i : SlotNo) (e : execIdleCountdownExpiry i s = .next t) : s.Lasts t := by
  unfold execIdleCountdownExpiry at e
  split at e
  · cases e; exact (s.abortStream_minds i .idle).lasts
  · split at e <;> cases e
    exact s.begun_minds.lasts

/-! ### The lanes, the Recipe Writer and the Index Unit (chapters 3 to 7) -/

theorem execLaneTakesSlot_lasts (n : LaneNo) (e : execLaneTakesSlot n s = .next t) : s.Lasts t := by
  unfold execLaneTakesSlot at e
  refine State.Minds.after_settled ?_
  generalize s.settled = s at *
  dsimp only at e
  split at e
  · split at e
    · cases e
    · rename_i i rest _
      have left : s.Works { s with runList := rest } := .of_same
      split at e <;> cases e
      · exact (left.trans (.trans (t := State.setLane _ n _) .of_same (.of_keeps (State.continueTurn_keeps _ n) (State.continueTurn_alters _ n)))).endEvent
      · exact left.still
  · cases e

theorem execSegmentReadComplete_lasts (read : ReadId) (data : List Byte) (e : execSegmentReadComplete read data s = .next t) : s.Lasts t := by
  unfold execSegmentReadComplete at e
  refine State.Minds.after_settled ?_
  generalize s.settled = s at *
  cases read with
  | lane n =>
    dsimp only at e
    split at e
    · cases e
    · split at e <;> cases e
      have cleared : s.Works (s.clearRead n) := .of_same
      exact ((cleared.trans (.of_keeps (State.takeBytes_keeps _ n _ data) (State.takeBytes_alters _ n _ data))).trans
        (.of_keeps (State.continueTurn_keeps _ n) (State.continueTurn_alters _ n))).endEvent
  | lost =>
    dsimp only at e
    split at e <;> cases e
    exact .of_same
  | sweep => cases e
  | openHalf => cases e
  | start => cases e

/-- An emission: but for its recipe entry, which is of no context (R119). -/
theorem execEmission_lasts (i : SlotNo) (e : execEmission i s = .next t) : s.Lasts t := by
  unfold execEmission at e
  refine State.Minds.after_settled ?_
  generalize s.settled = s at *
  dsimp only at e
  split at e
  · rename_i p v n k ready
    split at e
    · obtain rfl := Host.Outcome.next.inj e
      have emitted : s.Works (s.emit i p v n k) := by
        refine ⟨fun j => ?_, s.emit_alters p v n k⟩
        have kept := (s.emit_keeps i p v n k ready).slots j
        rwa [State.slot_post] at kept
      exact emitted.endEvent
    · cases e
  · cases e

theorem State.offer_minds {a : Source} {op : Op} (e : s.offer a = some (op, t)) : s.Minds t := by
  cases a <;> simp only [State.offer] at e <;> split at e <;> cases e
  · rename_i l rest _
    have left : s.Works { s with lookups := rest } := .of_same
    exact (left.trans (.of_keeps (State.editSlot_keeps _ .of_same) (State.editSlot_stands _ .of_same))).still
  all_goals exact .of_same

theorem execOperationAccepted_lasts (e : execOperationAccepted s = .next t) : s.Lasts t := by
  unfold execOperationAccepted at e
  refine State.Minds.after_settled ?_
  generalize s.settled = s at *
  dsimp only at e
  split at e
  · cases e
  · split at e
    · cases e
    · split at e <;> cases e
      rename_i offered
      exact (State.offer_minds offered).trans .of_same

theorem State.complete_lasts (key : OpKey) (ecc : Vector Ecc 16) (e : s.settled.complete key ecc = .next t) : s.Lasts t := by
  refine State.Minds.after_settled ?_
  generalize s.settled = s at *
  unfold State.complete at e
  split at e <;> cases e
  exact (State.Works.of_keeps (s.carryOut_keeps _ _) (s.carryOut_alters _ _)).endEvent

/-- A removal is of a waiter of the slot whose conditions it hands on (R32, R101). -/
theorem execWaiterRemoval_lasts (i : SlotNo) (o : Nat) (e : execWaiterRemoval i o s = .next t) : s.Lasts t := by
  unfold execWaiterRemoval at e
  refine State.Minds.after_settled ?_
  generalize s.settled = s at *
  dsimp only at e
  split at e
  · cases e; exact .refl _
  · rename_i m found
    have named : m.waiter.slot = i := by
      have := List.find?_some found
      rw [beq_iff_eq.1 this]
    split at e <;> cases e
    · exact (State.Works.of_keeps ((s.discardWaiter_keeps _ _).trans (State.refresh_keeps _ _))
        (State.Alters.refresh (s.discardWaiter_alters (Set.mem_singleton_iff.2 named) _))).endEvent
    · exact .of_same

theorem execFormatClear_lasts (e : execFormatClear s = .next t) : s.Lasts t := by
  unfold execFormatClear at e
  refine State.Minds.after_settled ?_
  generalize s.settled = s at *
  dsimp only at e
  split at e
  · cases e
  · split at e <;> cases e
    exact .of_same

/-- A descriptor write that is read back whole (R78, R79, R87, R143). -/
theorem State.writeDone_works (s : State) (w : DescWrite) (rest : List DescWrite) : s.Works (s.writeDone w rest) := by
  unfold State.writeDone
  dsimp only
  split
  · exact (State.Works.of_same (s := s)).trans (.of_keeps (State.resumeAll_keeps _) (State.resumeAll_alters _))
  · exact (State.Works.of_same (s := s)).trans (State.answer_works _ _ _ _)
  · exact .of_same
  · split
    · exact .of_same
    · exact (State.Works.of_same (s := s)).trans (State.answer_works _ _ _ _)

/-! ### The Engine Controller (chapter 10) -/

/-- The passage to FAULTED touches no context and no notice (R174). -/
theorem State.enterFaulted_minds (s : State) (cause : FaultCause) : s.Minds (s.enterFaulted cause) := by
  by_cases faulted : s.ctl.engine = .faulted
  · rw [State.enterFaulted_of_faulted faulted]
    exact .refl s
  · obtain ⟨spec, -⟩ := s.enterFaulted_spec cause faulted
    generalize s.enterFaulted cause = t at spec
    exact .of_same (by rw [spec]) (by rw [spec]) (by rw [spec]) (by rw [spec]; exact EngineState.noConfusion)

theorem execDescriptorWriteComplete_lasts (ecc : Ecc) (e : execDescriptorWriteComplete ecc s = .next t) : s.Lasts t := by
  unfold execDescriptorWriteComplete at e
  refine State.Minds.after_settled ?_
  generalize s.settled = s at *
  dsimp only at e
  split at e
  · cases e
  · split at e
    · cases e
    · rename_i w rest _
      split at e <;> cases e
      · exact (s.writeDone_works w rest).endEvent
      · exact (State.Works.trans (t := s.editStats fun t => { t with corrected := sat32 (t.corrected + 1) }) .of_same (State.writeDone_works _ w rest)).endEvent
      · exact State.Minds.trans .of_same (State.enterFaulted_minds _ _)

theorem State.failRead_lasts (read : ReadId) (e : s.settled.failRead read = .next t) : s.Lasts t := by
  refine State.Minds.after_settled ?_
  generalize s.settled = s at *
  have swept : s.Minds s.failSweep := State.Minds.trans .of_same (State.enterFaulted_minds _ _)
  cases read with
  | lane n =>
    simp only [State.failRead] at e
    split at e <;> cases e
    exact State.Minds.trans (t := s.clearRead n) .of_same (State.enterFaulted_minds _ _)
  | sweep =>
    simp only [State.failRead] at e
    split at e <;> cases e
    exact swept
  | openHalf =>
    simp only [State.failRead] at e
    split at e <;> cases e
    exact swept
  | start =>
    simp only [State.failRead] at e
    split at e <;> cases e
    exact .of_same
  | lost =>
    simp only [State.failRead] at e
    split at e <;> cases e
    exact .of_same

theorem execStart_lasts (e : execStart s = .next t) : s.Lasts t := by
  unfold execStart at e
  refine State.Minds.lasts ?_
  dsimp only at e
  repeat' split at e
  all_goals cases e
  all_goals exact .of_same

/-- A START that completes writes the Consumed Offsets, and its test for a message is made in RUNNING (R172). -/
theorem State.completeStart_minds (s : State) (h : Header) (table : List (List Byte)) : s.Minds (s.completeStart h table) := by
  unfold State.completeStart
  dsimp only
  generalize s.suppliedTags table ++ _ ++ _ = ws
  have shown : s.Works { s with
      header := h, ctl := { s.ctl with starting := false, startError := .none, area := s.ctl.base.toNat }, requests := s.completeRecords table
      slots := mapVector (fun c : Slot => { c with shown := c.consumed }) s.slots } := by
    refine .of_slots (fun i => ?_) fun i => ?_
    all_goals
      rw [State.slot, State.slot, get_mapVector]
      exact .of_same
  generalize ({ s with
      header := h, ctl := { s.ctl with starting := false, startError := .none, area := s.ctl.base.toNat }, requests := s.completeRecords table
      slots := mapVector (fun c : Slot => { c with shown := c.consumed }) s.slots } : State) = a at shown ⊢
  have written : s.Works (a.postAlways ws) := shown.trans .of_same
  generalize a.postAlways ws = b at written ⊢
  have joins (x : State) (l : Nat) : x.Works (x.joinLevel l) := .of_keeps (x.joinLevel_keeps l) (x.joinLevel_alters l)
  have fill : s.Works (if b.index.fill = .declared then b.joinLevel h.fillLevel else b) := by
    split
    · exact written.trans (joins b _)
    · exact written
  generalize (if b.index.fill = .declared then b.joinLevel h.fillLevel else b) = c at fill ⊢
  have error : s.Works (if c.index.error = true then c.joinLevel h.errorLevel else c) := by
    split
    · exact fill.trans (joins c _)
    · exact fill
  generalize (if c.index.error = true then c.joinLevel h.errorLevel else c) = d at error ⊢
  generalize hx : ({ d with
    time := { d.time with running := true, prescaler := h.prescalerReload, countdown := d.interval }, ctl := { d.ctl with engine := .running } } : State) = x
  have slot (i : SlotNo) : x.slot i = d.slot i := by rw [← hx]; rfl
  refine ⟨fun i => (error.counts i).trans (slot i ▸ x.testDue_keeps.slots i), fun ok => State.Marked.testDue ?_ fun i => ?_⟩
  · obtain ⟨ready, threshold, classes, levels⟩ := error.alters.marked ok.marked
    subst hx
    exact ⟨ready, threshold, classes, levels⟩
  · rw [slot]; exact error.alters.handedOn ok.handed_on i

theorem execStartComplete_lasts (header : List Byte) (table : List (List Byte)) (e : execStartComplete header table s = .next t) : s.Lasts t := by
  unfold execStartComplete at e
  refine State.Minds.lasts (s.begun_minds.trans ?_)
  generalize s.begun = s at *
  dsimp only at e
  repeat' split at e
  all_goals cases e
  · exact .of_same
  · exact .of_same
  · exact (s.completeStart_minds _ table).trans (s.issued_minds _)

theorem execExchangeBase_lasts (first : Fin 8) (data : List Byte) (e : execExchangeBase first data s = .next t) : s.Lasts t := by
  unfold execExchangeBase at e
  refine State.Minds.lasts ?_
  dsimp only at e
  generalize replaceBytes _ _ _ = base at e
  split at e <;> cases e
  all_goals exact .of_same

theorem execQuiesce_lasts (e : execQuiesce s = .next t) : s.Lasts t := by
  unfold execQuiesce at e
  refine State.Minds.after_settled ?_
  generalize s.settled = s at *
  dsimp only at e
  split at e <;> cases e
  · exact .of_same (engine := EngineState.noConfusion)
  · exact .refl _

theorem execEnterStopped_lasts (e : execEnterStopped s = .next t) : s.Lasts t := by
  unfold execEnterStopped at e
  refine State.Minds.after_settled ?_
  generalize s.settled = s at *
  dsimp only at e
  split at e <;> cases e
  exact .of_same (engine := EngineState.noConfusion)

/-- A write of the Serving Level makes the test against the new value (R167). -/
theorem execServingLevel_lasts (value : BitVec 32) (e : execServingLevel value s = .next t) : s.Lasts t := by
  cases e
  refine State.Minds.after_settled ?_
  generalize s.settled = s
  refine State.Minds.trans ⟨fun i => ?_, fun ok => ?_⟩ (s.issued_minds _)
  · exact (State.testDue_keeps { s with notice := { s.notice with serving := min value.toNat 7 } }).slots i
  · exact State.Marked.testDue (s := { s with notice := { s.notice with serving := min value.toNat 7 } }) ⟨ok.ready, ok.threshold, ok.classes, ok.levels⟩ ok.handed_on

/-! ### All commands, and the step -/

/-- A command that is no reset keeps the laws of the counters and the notices, and lowers neither Safe Offset nor Recipe Written of a slot that is not FREE. -/
theorem exec_lasts (c : Instr) (reset : isReset c = false) (e : exec c s = .next t) : s.Lasts t := by
  cases c with
  | powerOn => cases reset
  | linkReset point desc => cases reset
  | reset point desc => cases reset
  | start => exact execStart_lasts e
  | startComplete header table => exact execStartComplete_lasts header table e
  | quiesce => exact execQuiesce_lasts e
  | exchangeBase first data => exact execExchangeBase_lasts first data e
  | sweepNow value map => exact execSweepNow_lasts value map e
  | servingLevel value => exact execServingLevel_lasts value e
  | registerWriteIgnored offset value =>
    simp only [exec, execRegisterWriteIgnored] at e
    split at e <;> cases e
    exact s.begun_minds.lasts
  | tick => exact execTick_lasts e
  | sweepCountdownExpiry map => exact execSweepCountdownExpiry_lasts map e
  | idleCountdownExpiry slot => exact execIdleCountdownExpiry_lasts slot e
  | slotHostHalfTaken slot post half => exact execSlotHostHalfTaken_lasts slot post half e
  | requestTableRead table => exact execRequestTableRead_lasts table e
  | format cell => exact execFormat_lasts cell e
  | setClass cell => exact execSetClass_lasts cell e
  | openStream cell half => exact execOpenStream_lasts cell half e
  | close cell => exact execClose_lasts cell e
  | abort cell => exact execAbort_lasts cell e
  | release cell => exact execRelease_lasts cell e
  | seed cell => exact execSeed_lasts cell e
  | retire cell => exact execRetire_lasts cell e
  | setEpoch cell => exact execSetEpoch_lasts cell e
  | snapshotSlot cell => exact execSnapshotSlot_lasts cell e
  | snapshotEngine cell => exact execSnapshotEngine_lasts cell e
  | unknownRequest cell => exact execUnknownRequest_lasts cell e
  | sweepEnd map => exact execSweepEnd_lasts map e
  | laneTakesSlot lane => exact execLaneTakesSlot_lasts lane e
  | segmentReadComplete id data => exact execSegmentReadComplete_lasts id data e
  | hostReadFailure id => exact State.failRead_lasts id e
  | readTimeout id => exact State.failRead_lasts id e
  | operationAccepted => exact execOperationAccepted_lasts e
  | lookupInsertComplete slot ordinal ecc => exact State.complete_lasts _ ecc e
  | firmComplete record ecc => exact State.complete_lasts _ ecc e
  | withdrawComplete record ecc => exact State.complete_lasts _ ecc e
  | waiterRemoval slot ordinal => exact execWaiterRemoval_lasts slot ordinal e
  | seedComplete cell ecc => exact State.complete_lasts _ ecc e
  | retireComplete cell ecc => exact State.complete_lasts _ ecc e
  | scanComplete bucket ecc => exact State.complete_lasts _ ecc e
  | descriptorWriteComplete ecc => exact execDescriptorWriteComplete_lasts ecc e
  | formatClear => exact execFormatClear_lasts e
  | emission slot => exact execEmission_lasts slot e
  | enterStopped => exact execEnterStopped_lasts e

/-- A period of the reference clock, or the expiry that is taken in its place (R42, R152). -/
theorem State.period_minds (s : State) : s.Minds s.period := by
  unfold State.period
  split
  · exact s.abortStream_minds _ .idle
  · repeat' split
    · exact .refl s
    · exact s.begun_minds.trans s.begun.tick_minds
    · exact .of_same

/-- Every reset leaves the slots, the classes and the notices of a cold one (R12, R25, R169). -/
theorem State.afterReset_countsOk (s : State) (k : ResetKind) (index : IndexUnit) (mem : IndexMemory) (n : Nat) : (s.afterReset k index mem n).CountsOk := by
  intro i
  rw [show (s.afterReset k index mem n).slot i = .fresh from Vector.get_replicate _ _ i]
  exact Slot.fresh_countsOk

theorem State.afterReset_noticesOk (s : State) (k : ResetKind) (index : IndexUnit) (mem : IndexMemory) (n : Nat) : (s.afterReset k index mem n).NoticesOk :=
  State.reset_noticesOk.of_same (engine := EngineState.noConfusion)

/-- Every step that is no reset is a command on the rest of the queue, or a period of the reference clock, and keeps what these keep. -/
theorem step_lasts (next : step s = .next t) (noReset : ∀ c ∈ s.pending.head?, isReset c = false) : s.Lasts t := by
  unfold step at next
  split at next
  · rename_i c rest queue
    obtain ⟨counts, rises, notices⟩ := exec_lasts c (noReset c (by rw [queue]; rfl)) next
    exact ⟨counts, rises, fun ok => notices ok.of_same⟩
  · cases next
    exact s.period_minds.lasts

/-- A step that is a reset leaves the state of `State.afterReset`. -/
theorem step_reset (next : step s = .next t) {c : Instr} (first : c ∈ s.pending.head?) (reset : isReset c = true) :
    ∃ (b : State) (kind : ResetKind) (index : IndexUnit) (mem : IndexMemory) (n : Nat), t = b.afterReset kind index mem n := by
  unfold step at next
  split at next
  · rename_i d rest queue
    rw [queue] at first
    cases first
    exact ⟨_, exec_reset reset next⟩
  · rename_i queue
    rw [queue] at first
    cases first

/-- A step is a reset, or none. -/
theorem step_cases (next : step s = .next t) :
    ((∀ c ∈ s.pending.head?, isReset c = false) ∧ s.Lasts t) ∨
    (∃ c ∈ s.pending.head?, isReset c = true) ∧ t.CountsOk ∧ t.NoticesOk := by
  by_cases noReset : ∀ c ∈ s.pending.head?, isReset c = false
  · exact .inl ⟨noReset, step_lasts next noReset⟩
  · push Not at noReset
    obtain ⟨c, first, reset⟩ := noReset
    have reset : isReset c = true := by simpa using reset
    obtain ⟨b, kind, index, mem, n, rfl⟩ := step_reset next first reset
    exact .inr ⟨⟨c, first, reset⟩, b.afterReset_countsOk kind index mem n, b.afterReset_noticesOk kind index mem n⟩

/-- Settles O53: `step_cases`, where `State.Lasts` says it of every command but the resets, which leave every slot fresh. -/
theorem countersStayLawful : Obligations.CountersStayLawful := by
  intro s t next ok
  obtain ⟨-, lasts⟩ | ⟨⟨c, first, reset⟩, counts, -⟩ := step_cases next
  · exact ⟨lasts.counts ok, fun _ => lasts.rises ok⟩
  · exact ⟨counts, fun none => by rw [none c first] at reset; cases reset⟩

/-- Settles O57: `step_cases`, where the notices' part of `State.Lasts` rests on `State.Alters`, by which no event leaves a condition to be handed on, and on
`State.Marked.testDue`, the test for a message at its end. -/
theorem noticesStayHandedOn : Obligations.NoticesStayHandedOn := by
  intro s t next ok
  obtain ⟨-, lasts⟩ | ⟨-, -, notices⟩ := step_cases next
  · exact lasts.notices ok
  · exact notices

end Sys2Proof.Machine
